-- ==== Sys2Proof/Word.lean ====
section
/-! DEFINITION. The machine word and byte (00 R2, 06 R125). -/

namespace Sys2Proof

/-- A 64-bit register value. -/
abbrev Word := BitVec 64

/-- A byte of memory. -/
abbrev Byte := BitVec 8

/-- The word of a natural number, modulo 2^64. -/
def word (n : Nat) : Word := BitVec.ofNat 64 n

/-- The word of an integer in two's complement. -/
def wordOfInt (x : Int) : Word := BitVec.ofInt 64 x

end Sys2Proof
end

