-- ==== Sys2Proof/Config.lean ====
section
/-! DEFINITION. What the manual leaves to the device or leaves open, as constants without a body: no proof can see a value of one.
The package's place in its span, elapsed time, and the bytes that only the Keeper's secrets fix. -/

namespace Sys2Proof

/-- The span package number of this package, x + 9y + 81z with each coordinate 0 to 8 (01 R10, 06 R137; log entry 7). -/
opaque Config.package : Fin 729

/-- The same number as the registers and the address map hold it. -/
def Config.pkg : BitVec 10 := BitVec.ofNat 10 Config.package.val

/-- Whether the package is on a 7260-M module (00 Table 00.1; log entry 84). -/
opaque Config.onModule : Bool

/-- The error code that a mailbox other than a virtual function's returns for a command that 16 Table 16.6 does not list (16 R351; log entry
9). -/
opaque Config.unlistedStat : Nat → BitVec 64

/-- Nanoseconds of SPANTIME that the n-th step takes (06 R137, 01 R373; log entry 6): a free value. -/
opaque Config.elapsedNs : Nat → BitVec 32

/-- The byte at an offset of an ML-DSA-87 signature that the Keeper makes over the n-th report (16 R356; log entry 14). -/
opaque Config.signatureByte : Nat → Nat → Byte

/-- The byte at an offset of the Keeper's measurements, keys and certificates (16 R352, R356; log entry 14). -/
opaque Config.keeperByte : Nat → Byte

/-- Sectors that a compressed line of 512 bytes takes at its n-th write-back, less one (04 R77: the form and its length are not
architectural; log entry 15). -/
opaque Config.packedSectors : Nat → BitVec 2

/-- The set of an LLC slice that a line of 512 bytes falls into (04 Table 04.4 gives 16,384 sets and no index; log entry 85). -/
opaque Config.llcSet : Nat → BitVec 14

/-- What the host answers for a page of its memory that it has said nothing about (16 R341, 04 R86; log entry 86): none where it refuses
the translation, else whether it admits writes. -/
opaque Config.hostRight : Nat → Option Bool

/-- The PTROOT under which the dispatcher of a function reads and submits, by function: 0 for the physical one, i + 1 for virtual
function i (14 R320, 16 R343; log entry 16). -/
opaque Config.dispatcherRoot : Nat → Word

/-- The stepping in DEVID (16 Table 16.2; log entry 14). -/
opaque Config.stepping : BitVec 8

/-- The length of the certificate chain in the Keeper's directory: at most 4 MiB (16 R355; log entry 14). -/
opaque Config.certLen : BitVec 22

/-- The strap balls KSEL1 and KSEL0 (16 R354; log entry 14). -/
opaque Config.kselStrap : BitVec 2

/-- The byte that a read of a BAR0 offset outside Table 16.2 returns (16 R342; log entry 14). -/
opaque Config.barByte : Nat → Byte

/-- A byte of a link flit that the manual does not give: of a record's layout, of a copy's tag, or behind the last record (16 Table 16.4; log
entry 51), by the step that makes it and its place. -/
opaque Config.linkByte : Nat → Nat → Byte

/-- Whether the link on which another package's port sends is down at a step (10 R240; log entry 129): only that package sees it. -/
opaque Config.farLinkDown : Nat → Nat → Nat → Bool

/-- A container of a bound in-stream register at which its instruction pops nothing, by the step at which that entered the VIQ and the
container's number (05 R111, 07 R162; log entry 128). -/
opaque Config.unpopped : Nat → Nat → BitVec 36

/-- The address that a report gives when no image holds it: a poison report of a matrix command that ctxrest reinstates, a lost line that
only an image header names (15 Table 15.9, R335; log entry 41), or where what it concerns has no address (log entry 130). -/
opaque Config.reportAddress : Nat → Word

end Sys2Proof
end

