-- ==== Sys2Proof/Machine/Flags.lean ====
section
/-! DEFINITION. The flags of FPFLAGS (02 R36, Table 02.6), each an operation's own set of bits; sets are joined by or, since every
flag is sticky. -/

namespace Sys2Proof.Machine

/-- A set of flags, laid out as FPFLAGS bits 5:0. -/
abbrev Flags := BitVec 6

/-- No flag. -/
def flagNone : Flags := 0

/-- Invalid operation. -/
def flagNV : Flags := 1

/-- Division by zero. -/
def flagDZ : Flags := 2

/-- A rounding overflowed, or rto clamped. -/
def flagOF : Flags := 4

/-- A settlement was tiny and inexact. -/
def flagUF : Flags := 8

/-- A settlement was inexact. -/
def flagNX : Flags := 16

/-- A result saturated. -/
def flagSAT : Flags := 32

/-- The flags f if the condition holds. -/
def flagIf (c : Bool) (f : Flags) : Flags := if c then f else 0

/-- FPFLAGS with more flags set: sticky, and no other bit changes (02 R36). -/
def setFlags (fpflags : Word) (f : Flags) : Word := fpflags ||| f.zeroExtend 64

end Sys2Proof.Machine
end

