-- ==== Sys2Proof/Syntax.lean ====
section
/-! DEFINITION. The instructions and steps of the Daton 7260: one constructor for each row of spec/opcode_table.json.
The first 219 rows are instruction words (03 R45 to R59); their operands are the word's fields, at the widths of the table.
The other 70 rows are the steps that other agents of the device take (95_what_each_step_holds.md); they have no word, and
their arguments name the agent and what reaches it from outside. -/

namespace Sys2Proof

/-- A function of the host port (16 R341): the physical function or virtual function 0 to 7. -/
inductive Fn where
  | pf
  | vf (i : Fin 8)
  deriving DecidableEq, Repr

/-- The mailbox a Keeper command stands in (16 R351, R354): a function's, or the out-of-band page. -/
inductive MailPort where
  | fn (f : Fn)
  | oob
  deriving DecidableEq, Repr

/-- Why a hart is halted (15 R325, Table 15.2; 16 R346). parity: a parity error read from its register storage, which discards its
context (15 R327). -/
inductive HaltReason where
  | preempt | repartition | rebind | hardDeadline | withdraw | hostPageFault | parity
  deriving DecidableEq, Repr

/-- A queue that the buoy watches (10 R241): a fabric queue or a stream queue, named by its package and its number there. -/
structure QueueId where
  pkg : Nat
  num : Nat
  deriving DecidableEq, Repr

/-- A record that a link carries to this package (16 R347; 10 R240; 05 R121; 14 R274): what the receiver performs once
the record's last byte has arrived. -/
inductive LinkRecord where
  /-- Class 0: an exchange record for a receiver of this package, with the flags of its combination on the way (10 R232) and its poison (16
  R360). -/
  | exchange (slot : Nat) (sender : Nat) (recv : Nat) (key : Nat) (elems : List (BitVec 36)) (flags : BitVec 6) (psn : Bool)
  /-- Class 0: a tail with its count of records. -/
  | tail (slot : Nat) (sender : Nat) (recv : Nat) (count : Nat)
  /-- Class 1: a chunk of a copy, written at a byte offset of this package's memory windows. -/
  | copyChunk (offset : Nat) (bytes : List (BitVec 8)) (poisoned : Bool)
  /-- Class 2: an atomic of another package on this package's memory. -/
  | atomic (offset : Nat) (op : BitVec 4) (wide : Bool) (operand : BitVec 64) (compare : BitVec 64)
  /-- Class 3: the span's time. -/
  | time (ns : BitVec 64)
  /-- Class 3: a tail of this package's sender has landed at a receiver of another package. -/
  | landed (slot : Nat) (sender : Nat) (recv : Nat)
  /-- Class 3: records of these senders of this package were dropped at a receiver of another package that had no buffer posted (10 R234),
  told before their train's landing. -/
  | unposted (slot : Nat) (senders : List Nat)
  /-- Class 3: the arrival of a hart of another package at a rendezvous (lens: of qopen), with its descriptor, from rank 0 its splitters,
  whether its package has the slots free, and the memberships that it holds. -/
  | arrive (lens : Bool) (pkg : Nat) (hart : Nat) (desc : List (BitVec 8)) (splits : List Nat) (room : Bool) (held : Nat)
  /-- Class 3: such an arrival is withdrawn, its context discarded. -/
  | recall (pkg : Nat) (hart : Nat)
  /-- Class 3: a remote member's arrival at the Beacon, with the splitters that it has set for the next step and the records that it has
  sent to each receiver. -/
  | beacon (slot : Nat) (sender : Nat) (splits : List Nat) (counts : List (Nat × Nat))
  /-- Class 3: the samples that a stack merge switch of another package has taken in this step. -/
  | samples (slot : Nat) (pkg : Nat) (stack : Nat) (keys : List Nat)
  /-- Class 3: the splitters that a hardware-mode xsample in another package has set. -/
  | resplit (slot : Nat) (splits : List Nat)
  /-- Class 3: a remote member has left its exchange context. -/
  | leave (slot : Nat) (sender : Nat)
  /-- Class 3: a remote member has been withdrawn, torn down, stopped or discarded. -/
  | withdraw (slot : Nat) (sender : Nat)
  /-- Class 3: a remote member of a Lens state has issued its next collective command: function, compared record bytes, matrix, and for the
  probabilities its sums and the addresses of its first poisoned amplitudes. -/
  | lensIssue (slot : Nat) (rank : Nat) (fn : Nat) (record : List (BitVec 8)) (matrix : List (BitVec 8)) (s0 : Option (BitVec 36))
      (s1 : Option (BitVec 36)) (bad0 : Option (BitVec 64)) (bad1 : Option (BitVec 64))
  /-- Class 0: amplitudes of a swap superstep that come to this package, by physical index, with their poison. -/
  | lensAmps (slot : Nat) (amps : List (Nat × BitVec 64 × Bool))
  /-- Class 3: a remote member has left its Lens state (failed: withdrawn, torn down, stopped or discarded). -/
  | lensLeave (slot : Nat) (rank : Nat) (failed : Bool)
  deriving DecidableEq, Repr

/-- A link flit as it arrives (16 Table 16.4): bytes 7:0, 247:8 and 255:248, and the records whose last byte it carries (log entry
51). -/
structure Flit where
  head    : BitVec 64
  payload : List (BitVec 8)
  crc     : BitVec 64
  records : List LinkRecord
  deriving DecidableEq, Repr

/-- What costs a port lanes (16 Table 16.5). -/
inductive LaneLoss where
  | lane (n : Fin 4)
  | replays
  deriving DecidableEq, Repr

/-- What a check of stored data finds (04 R65, R66, 15 R333, 16 Table 16.8); dieReport: a report of the on-die ECC of an HBM4 stack. -/
inductive ScrubResult where
  | clean | corrected | uncorrectable | dieReport
  deriving DecidableEq, Repr

/-- Stored data under one check (16 Table 16.8). -/
inductive CheckedWord where
  /-- A chunk of 32 bytes in HBM, by its number. -/
  | chunk (n : Nat)
  /-- A 64-bit word of a core's scratchpad. -/
  | pool (core : Nat) (word : Nat)
  /-- A 64-bit word of a line of HBM that an L2 or the LLC holds, by its number. -/
  | cached (word : Nat)
  /-- A 64-bit word of a line of the register partition: 64 words of data, then 8 words of nibbles. -/
  | line (h : Nat) (line : Nat) (k : Nat)
  /-- An exchange record in a switch buffer, by sender, receiver and number. -/
  | record (slot : Nat) (sender : Nat) (recv : Nat) (no : Nat)
  deriving DecidableEq, Repr

/-- A host access through BAR0 or BAR2 (16 R342): a read, or a write of bytes, at an offset; failed: it fails under PCIe (16 R360). -/
structure BarReq where
  bar    : Bool
  offset : Nat
  len    : Nat
  write  : Option (List (BitVec 8))
  failed : Bool
  deriving DecidableEq, Repr

/-- A range of host pages of 4 KiB (log entry 86): the first one's number and how many (16 R341). -/
structure HostRange where
  page  : Nat
  pages : Nat
  deriving DecidableEq, Repr

/-- The AtomicOps that the host directs at BAR2 (16 R341). -/
inductive HostOp where
  | fetchAdd | swap | cas
  deriving DecidableEq, Repr

/-- A host AtomicOp at a BAR2 offset (16 R341); failed: it fails under PCIe (16 R360). -/
structure HostAtomic where
  op      : HostOp
  wide    : Bool
  offset  : Nat
  operand : BitVec 64
  compare : BitVec 64
  failed  : Bool
  deriving DecidableEq, Repr

/-- A sensor reading (16 Table 16.6, command 1). -/
structure Sensor where
  point : BitVec 8
  kind  : BitVec 2
  value : BitVec 22
  deriving DecidableEq, Repr

/-- What the Keeper finds when it checks a fetched image (16 R352): whether each signature verifies and the digest matches,
and the image's security version number. -/
structure ImageCheck where
  rsaOk    : Bool
  slhOk    : Bool
  digestOk : Bool
  svn      : Nat
  deriving DecidableEq, Repr

/-- What the outside decides about one pass through the boot steps (16 R358, R359): how each step ends; cut: a further reset comes after that
step. -/
structure BootPass where
  slotAOk    : Bool
  slotBOk    : Bool
  railsOk    : Bool
  fusesOk    : Bool
  trainFail  : BitVec 8
  zeroFail   : BitVec 8
  cachesOk   : Bool
  hostWidth  : Nat
  portWide   : BitVec 24
  portNarrow : BitVec 24
  timeNs     : BitVec 64
  packages   : List Nat
  dispatchOk : Bool
  cut        : Option Nat
  deriving DecidableEq, Repr

/-- Every row of spec/opcode_table.json. -/
inductive Instr where
  /-- ADD (R278): Writes a + b, modulo 2^64, to sD. -/
  | add (d : BitVec 5) (a : BitVec 5) (b : BitVec 5)
  /-- SUB (R278): Writes a - b, modulo 2^64, to sD. -/
  | sub (d : BitVec 5) (a : BitVec 5) (b : BitVec 5)
  /-- MUL (R278): Writes the low 64 bits of a × b. -/
  | mul (d : BitVec 5) (a : BitVec 5) (b : BitVec 5)
  /-- MULH (R278): Writes bits 127:64 of the signed product. -/
  | mulh (d : BitVec 5) (a : BitVec 5) (b : BitVec 5)
  /-- MULHN (R278): Writes bits 127:64 of the unsigned product. -/
  | mulhn (d : BitVec 5) (a : BitVec 5) (b : BitVec 5)
  /-- DIV (R279): Writes the signed quotient, truncated toward zero, with the fixed special cases and no trap. -/
  | div (d : BitVec 5) (a : BitVec 5) (b : BitVec 5)
  /-- DIVN (R279): Writes the unsigned quotient, with the fixed special cases. -/
  | divn (d : BitVec 5) (a : BitVec 5) (b : BitVec 5)
  /-- REM (R279): Writes the signed remainder, with the fixed special cases. -/
  | rem (d : BitVec 5) (a : BitVec 5) (b : BitVec 5)
  /-- REMN (R279): Writes the unsigned remainder, with the fixed special cases. -/
  | remn (d : BitVec 5) (a : BitVec 5) (b : BitVec 5)
  /-- AND (R278): Writes the bitwise AND of a and b. -/
  | and (d : BitVec 5) (a : BitVec 5) (b : BitVec 5)
  /-- OR (R278): Writes the bitwise OR of a and b. -/
  | or (d : BitVec 5) (a : BitVec 5) (b : BitVec 5)
  /-- XOR (R278): Writes the bitwise XOR of a and b. -/
  | xor (d : BitVec 5) (a : BitVec 5) (b : BitVec 5)
  /-- SLL (R278): Shifts a left by b[5:0], with zeros in. -/
  | sll (d : BitVec 5) (a : BitVec 5) (b : BitVec 5)
  /-- SRL (R278): Shifts a right by b[5:0], with zeros in. -/
  | srl (d : BitVec 5) (a : BitVec 5) (b : BitVec 5)
  /-- SRA (R278): Shifts a right by b[5:0], with copies of the sign bit in. -/
  | sra (d : BitVec 5) (a : BitVec 5) (b : BitVec 5)
  /-- MIN (R278): Writes the signed lesser of a and b. -/
  | min (d : BitVec 5) (a : BitVec 5) (b : BitVec 5)
  /-- MAX (R278): Writes the signed greater of a and b. -/
  | max (d : BitVec 5) (a : BitVec 5) (b : BitVec 5)
  /-- MINN (R278): Writes the unsigned lesser of a and b. -/
  | minn (d : BitVec 5) (a : BitVec 5) (b : BitVec 5)
  /-- MAXN (R278): Writes the unsigned greater of a and b. -/
  | maxn (d : BitVec 5) (a : BitVec 5) (b : BitVec 5)
  /-- CLZ (R278): Counts the leading zero bits of a. -/
  | clz (d : BitVec 5) (a : BitVec 5)
  /-- CTZ (R278): Counts the trailing zero bits of a. -/
  | ctz (d : BitVec 5) (a : BitVec 5)
  /-- POPC (R278): Counts the 1 bits of a. -/
  | popc (d : BitVec 5) (a : BitVec 5)
  /-- CMP (R278): Writes 1 when the condition holds between a and b, and 0 otherwise. -/
  | cmp (d : BitVec 5) (a : BitVec 5) (b : BitVec 5) (c : BitVec 3)
  /-- CSEL (R278): Writes a when s[c] is nonzero, and b otherwise. -/
  | csel (d : BitVec 5) (a : BitVec 5) (b : BitVec 5) (c : BitVec 5)
  /-- LEA (R278): Writes a + b × 2^sc. -/
  | lea (d : BitVec 5) (a : BitVec 5) (b : BitVec 5) (s : BitVec 2)
  /-- ADDI (R280): Writes a + sext(imm16). -/
  | addi (d : BitVec 5) (a : BitVec 5) (i : BitVec 16)
  /-- ANDI (R280): Writes a AND zext(imm16). -/
  | andi (d : BitVec 5) (a : BitVec 5) (i : BitVec 16)
  /-- ORI (R280): Writes a OR zext(imm16). -/
  | ori (d : BitVec 5) (a : BitVec 5) (i : BitVec 16)
  /-- XORI (R280): Writes a XOR zext(imm16). -/
  | xori (d : BitVec 5) (a : BitVec 5) (i : BitVec 16)
  /-- LHI (R280): Writes a + sext(imm16) × 65,536. -/
  | lhi (d : BitVec 5) (a : BitVec 5) (i : BitVec 16)
  /-- CMPI (R280): Writes 1 when a compares true against the signed 13-bit immediate. -/
  | cmpi (d : BitVec 5) (a : BitVec 5) (c : BitVec 3) (i : BitVec 13)
  /-- SLLI (R280): Shifts a left by an immediate amount. -/
  | slli (d : BitVec 5) (a : BitVec 5) (s : BitVec 6)
  /-- SRLI (R280): Shifts a right logically by an immediate amount. -/
  | srli (d : BitVec 5) (a : BitVec 5) (s : BitVec 6)
  /-- SRAI (R280): Shifts a right arithmetically by an immediate amount. -/
  | srai (d : BitVec 5) (a : BitVec 5) (s : BitVec 6)
  /-- LD_I8 (R89): Loads a sign-extended byte from a + imm16. -/
  | ldI8 (d : BitVec 5) (a : BitVec 5) (i : BitVec 16)
  /-- LD_N8 (R89): Loads a zero-extended byte. -/
  | ldN8 (d : BitVec 5) (a : BitVec 5) (i : BitVec 16)
  /-- LD_I16 (R89): Loads a sign-extended 16-bit value. -/
  | ldI16 (d : BitVec 5) (a : BitVec 5) (i : BitVec 16)
  /-- LD_N16 (R89): Loads a zero-extended 16-bit value. -/
  | ldN16 (d : BitVec 5) (a : BitVec 5) (i : BitVec 16)
  /-- LD_I32 (R89): Loads a sign-extended 32-bit value. -/
  | ldI32 (d : BitVec 5) (a : BitVec 5) (i : BitVec 16)
  /-- LD_N32 (R89): Loads a zero-extended 32-bit value. -/
  | ldN32 (d : BitVec 5) (a : BitVec 5) (i : BitVec 16)
  /-- LD_I64 (R89): Loads a 64-bit value; ld.n64 is an alias. -/
  | ldI64 (d : BitVec 5) (a : BitVec 5) (i : BitVec 16)
  /-- ST_8 (R90): Stores the low 8 bits of the d register at a + imm16. -/
  | st8 (d : BitVec 5) (a : BitVec 5) (i : BitVec 16)
  /-- ST_16 (R90): Stores the low 16 bits. -/
  | st16 (d : BitVec 5) (a : BitVec 5) (i : BitVec 16)
  /-- ST_32 (R90): Stores the low 32 bits. -/
  | st32 (d : BitVec 5) (a : BitVec 5) (i : BitVec 16)
  /-- ST_64 (R90): Stores all 64 bits. -/
  | st64 (d : BitVec 5) (a : BitVec 5) (i : BitVec 16)
  /-- AMO (R92): Performs an atomic read-modify-write at memory address sA, with operand sB, and returns the old value. -/
  | amo (d : BitVec 5) (a : BitVec 5) (b : BitVec 5) (s : BitVec 3) (o : BitVec 2) (w : BitVec 1) (p : BitVec 4)
  /-- CAS (R92): Atomically compares memory with sD, writes sB on equality, and returns the old value. -/
  | cas (d : BitVec 5) (a : BitVec 5) (b : BitVec 5) (s : BitVec 3) (o : BitVec 2) (w : BitVec 1)
  /-- RED (R93): Performs an atomic update that returns nothing. -/
  | red (a : BitVec 5) (b : BitVec 5) (s : BitVec 3) (o : BitVec 2) (w : BitVec 1) (p : BitVec 4)
  /-- BEQ (R281): Branches when a equals b. -/
  | beq (a : BitVec 5) (b : BitVec 5) (o : BitVec 16)
  /-- BNE (R281): Branches when a differs from b. -/
  | bne (a : BitVec 5) (b : BitVec 5) (o : BitVec 16)
  /-- BLT (R281): Branches when a < b, signed. -/
  | blt (a : BitVec 5) (b : BitVec 5) (o : BitVec 16)
  /-- BGE (R281): Branches when a ≥ b, signed. -/
  | bge (a : BitVec 5) (b : BitVec 5) (o : BitVec 16)
  /-- BLTN (R281): Branches when a < b, unsigned. -/
  | bltn (a : BitVec 5) (b : BitVec 5) (o : BitVec 16)
  /-- BGEN (R281): Branches when a ≥ b, unsigned. -/
  | bgen (a : BitVec 5) (b : BitVec 5) (o : BitVec 16)
  /-- JMP (R281): Jumps to PC + 4 × sext(off26). -/
  | jmp (o : BitVec 26)
  /-- JAL (R281): Jumps to PC + 4 × sext(off26) and writes the link to s31. -/
  | jal (o : BitVec 26)
  /-- JALR (R281): Jumps to a + sext(imm16) and writes the link to sD. -/
  | jalr (d : BitVec 5) (a : BitVec 5) (i : BitVec 16)
  /-- BSTRIP (R283): Decrements the remaining count by the grant and branches while work remains, raising NOPROG after two passes without progress. -/
  | bstrip (a : BitVec 5) (b : BitVec 5) (o : BitVec 16)
  /-- BVANY (R282): Synchronising branch, taken when some non-padding bit of the mask is set. -/
  | bvany (m : BitVec 5) (s : BitVec 5) (o : BitVec 16)
  /-- BVNONE (R282): Synchronising branch, taken when no non-padding bit of the mask is set. -/
  | bvnone (m : BitVec 5) (s : BitVec 5) (o : BitVec 16)
  /-- CSRR (R293): Reads a system register into sD. -/
  | csrr (d : BitVec 5) (c : BitVec 12)
  /-- CSRW (R293): Writes a system register and returns its old value; the write of a register with no row of its own takes effect here. -/
  | csrw (d : BitVec 5) (a : BitVec 5) (c : BitVec 12)
  /-- CSRS (R293): Sets bits of a system register and returns its old value. -/
  | csrs (d : BitVec 5) (a : BitVec 5) (c : BitVec 12)
  /-- CSRC (R293): Clears bits of a system register and returns its old value. -/
  | csrc (d : BitVec 5) (a : BitVec 5) (c : BitVec 12)
  /-- CPYERR_CLEAR (R123): A write of 0 to CPYERR.V resumes the stopped copy context at BYTE. -/
  | cpyerrClear (h : Nat)
  /-- END (R292): Finishes the iteration or child: drains, joins children, closes memberships, waits on the engines, releases its slices and unbinds the slot. -/
  | endIter
  /-- TRAP (R294): Completes and then takes cause TRAP with code n. -/
  | trap (n : BitVec 6)
  /-- ERET (R295): Restores the mode, reinstates any held VIQ image and continues at TPC. -/
  | eret
  /-- FENCE (R266): Gives ordering edges of the kind acq, rel or full at the given scope, and waits for the earlier events it orders. -/
  | fence (k : BitVec 2) (s : BitVec 3)
  /-- LSYNC (R265): Joins the hart's paths; waits for the memory accesses of older VIQ entries. -/
  | lsync
  /-- WAITM (R296): Waits until the 8-byte word at sA differs from sB, then returns it. -/
  | waitm (d : BitVec 5) (a : BitVec 5) (b : BitVec 5)
  /-- WAITM_RECHECK (R296): A write to the chunk, or the 4,096-cycle maximum, makes a waiting waitm read the word again. -/
  | waitmRecheck (h : Nat)
  /-- YIELD (R297): Makes the hart not ready for 16 cycles and until the other ready harts have issued. -/
  | yield
  /-- YIELD_RELEASE (R297): The yielding hart becomes ready again once both of its conditions hold. -/
  | yieldRelease (h : Nat)
  /-- LPREQ (R286): Requests or cancels lane slices, updates LPART and returns the ownership word. -/
  | lpreq (d : BitVec 5) (a : BitVec 5)
  /-- FORKL (R289): Starts a child hart on half of the parent's free slices. -/
  | forkl (d : BitVec 5) (a : BitVec 5)
  /-- JOINL (R290): Waits for a child to end, then takes back the slices that pass toward the hart. -/
  | joinl (a : BitVec 5)
  /-- VREL (R291): Strip boundary that releases all slices, streams, vector lines and accumulator columns. -/
  | vrel
  /-- CTXSAVE (R338): Saves the executing context into the slot at sA. -/
  | ctxsave (a : BitVec 5)
  /-- CTXREST (R339): Checks a saved slot and loads it into the executing hart, holding its VIQ image. -/
  | ctxrest (a : BitVec 5)
  /-- TLBINV_PAGE (R340): Removes the TLB entries of one page and context across the package. -/
  | tlbinvPage (a : BitVec 5) (b : BitVec 5)
  /-- TLBINV_CTX (R340): Removes every non-global TLB entry of one context. -/
  | tlbinvCtx (b : BitVec 5)
  /-- TLBINV_ALL (R340): Removes every TLB entry in the package. -/
  | tlbinvAll
  /-- NEST (R301): Checks and accepts a loop-nest record and returns the nest id, or -1. -/
  | nest (d : BitVec 5) (a : BitVec 5)
  /-- NWITHDRAW (R316): Withdraws a nest: stops its walker, stops its contexts, drains the walk and withdraws its dependants. -/
  | nwithdraw (a : BitVec 5)
  /-- NSTAT (R319): Returns the status word of a live nest, or -1. -/
  | nstat (d : BitVec 5) (a : BitVec 5)
  /-- SBIND (R109): Reads a stream descriptor and binds a stream to v28-v31. -/
  | sbind (d : BitVec 5) (a : BitVec 5)
  /-- SFREE (R114): Unbinds a stream after its pushed elements are written, and zeroes the register. -/
  | sfree (d : BitVec 5)
  /-- SSTAT (R115): Returns the status of a stream register. -/
  | sstat (d : BitVec 5) (b : BitVec 5)
  /-- SETVL (R145): Strip boundary: applies slice changes, computes the grant and padding, writes the shape register and returns the real length. -/
  | setvl (d : BitVec 5) (a : BitVec 5) (h : BitVec 3) (f : BitVec 5) (k : BitVec 2) (o : BitVec 2) (r : BitVec 3)
  /-- VLDSEG (R105): Loads record fields into consecutive register groups. -/
  | vldseg (d : BitVec 5) (a : BitVec 5) (b : BitVec 5) (s : BitVec 3) (m : BitVec 3) (f : BitVec 5)
  /-- VSTSEG (R105): Stores record fields from consecutive register groups. -/
  | vstseg (d : BitVec 5) (a : BitVec 5) (b : BitVec 5) (s : BitVec 3) (m : BitVec 3) (f : BitVec 5)
  /-- VADD (R151): Element-wise integer add, wrapping. -/
  | vadd (d : BitVec 5) (a : BitVec 5) (b : BitVec 5) (s : BitVec 3) (m : BitVec 3)
  /-- VSUB (R151): Element-wise integer subtract, wrapping. -/
  | vsub (d : BitVec 5) (a : BitVec 5) (b : BitVec 5) (s : BitVec 3) (m : BitVec 3)
  /-- VMUL (R151): Element-wise integer multiply, low bits. -/
  | vmul (d : BitVec 5) (a : BitVec 5) (b : BitVec 5) (s : BitVec 3) (m : BitVec 3)
  /-- VMULH (R151): Element-wise integer multiply, high bits. -/
  | vmulh (d : BitVec 5) (a : BitVec 5) (b : BitVec 5) (s : BitVec 3) (m : BitVec 3)
  /-- VMACC (R152): Widening multiply-accumulate with saturation. -/
  | vmacc (d : BitVec 5) (a : BitVec 5) (b : BitVec 5) (s : BitVec 3) (m : BitVec 3)
  /-- VSADD (R151): Saturating add. -/
  | vsadd (d : BitVec 5) (a : BitVec 5) (b : BitVec 5) (s : BitVec 3) (m : BitVec 3)
  /-- VSSUB (R151): Saturating subtract. -/
  | vssub (d : BitVec 5) (a : BitVec 5) (b : BitVec 5) (s : BitVec 3) (m : BitVec 3)
  /-- VMIN (R151): Element-wise lesser, by signedness. -/
  | vmin (d : BitVec 5) (a : BitVec 5) (b : BitVec 5) (s : BitVec 3) (m : BitVec 3)
  /-- VMAX (R151): Element-wise greater, by signedness. -/
  | vmax (d : BitVec 5) (a : BitVec 5) (b : BitVec 5) (s : BitVec 3) (m : BitVec 3)
  /-- VAND (R151): Element-wise bitwise AND. -/
  | vand (d : BitVec 5) (a : BitVec 5) (b : BitVec 5) (s : BitVec 3) (m : BitVec 3)
  /-- VOR (R151): Element-wise bitwise OR. -/
  | vor (d : BitVec 5) (a : BitVec 5) (b : BitVec 5) (s : BitVec 3) (m : BitVec 3)
  /-- VXOR (R151): Element-wise bitwise XOR. -/
  | vxor (d : BitVec 5) (a : BitVec 5) (b : BitVec 5) (s : BitVec 3) (m : BitVec 3)
  /-- VSLL (R151): Element-wise shift left. -/
  | vsll (d : BitVec 5) (a : BitVec 5) (b : BitVec 5) (s : BitVec 3) (m : BitVec 3)
  /-- VSRL (R151): Element-wise logical shift right. -/
  | vsrl (d : BitVec 5) (a : BitVec 5) (b : BitVec 5) (s : BitVec 3) (m : BitVec 3)
  /-- VSRA (R151): Element-wise arithmetic shift right. -/
  | vsra (d : BitVec 5) (a : BitVec 5) (b : BitVec 5) (s : BitVec 3) (m : BitVec 3)
  /-- VMERGE (R155): Selects a or b per position by the mask. -/
  | vmerge (d : BitVec 5) (a : BitVec 5) (b : BitVec 5) (s : BitVec 3) (m : BitVec 3)
  /-- VCMP_EQ (R154): Integer compare for equality into a mask. -/
  | vcmpEq (d : BitVec 5) (a : BitVec 5) (b : BitVec 5) (s : BitVec 3) (m : BitVec 3)
  /-- VCMP_NE (R154): Integer compare for inequality into a mask. -/
  | vcmpNe (d : BitVec 5) (a : BitVec 5) (b : BitVec 5) (s : BitVec 3) (m : BitVec 3)
  /-- VCMP_LT (R154): Integer compare less-than into a mask. -/
  | vcmpLt (d : BitVec 5) (a : BitVec 5) (b : BitVec 5) (s : BitVec 3) (m : BitVec 3)
  /-- VCMP_LE (R154): Integer compare less-or-equal into a mask. -/
  | vcmpLe (d : BitVec 5) (a : BitVec 5) (b : BitVec 5) (s : BitVec 3) (m : BitVec 3)
  /-- VCMP_GT (R154): Integer compare greater-than into a mask. -/
  | vcmpGt (d : BitVec 5) (a : BitVec 5) (b : BitVec 5) (s : BitVec 3) (m : BitVec 3)
  /-- VCMP_GE (R154): Integer compare greater-or-equal into a mask. -/
  | vcmpGe (d : BitVec 5) (a : BitVec 5) (b : BitVec 5) (s : BitVec 3) (m : BitVec 3)
  /-- VNSHR_TZ (R153): Narrowing shift right, rounding toward zero, with saturation. -/
  | vnshrTz (d : BitVec 5) (a : BitVec 5) (b : BitVec 5) (s : BitVec 3) (m : BitVec 3)
  /-- VNSHR_HU (R153): Narrowing shift right, rounding to nearest with ties up. -/
  | vnshrHu (d : BitVec 5) (a : BitVec 5) (b : BitVec 5) (s : BitVec 3) (m : BitVec 3)
  /-- VNSHR_HE (R153): Narrowing shift right, rounding to nearest with ties to even. -/
  | vnshrHe (d : BitVec 5) (a : BitVec 5) (b : BitVec 5) (s : BitVec 3) (m : BitVec 3)
  /-- VNSHR_OD (R153): Narrowing shift right, rounding to odd. -/
  | vnshrOd (d : BitVec 5) (a : BitVec 5) (b : BitVec 5) (s : BitVec 3) (m : BitVec 3)
  /-- VMV (R155): Copies containers, with tails and PSN. -/
  | vmv (d : BitVec 5) (a : BitVec 5) (s : BitVec 3) (m : BitVec 3)
  /-- VSPLAT (R155): Writes a scalar to every active element. -/
  | vsplat (d : BitVec 5) (a : BitVec 5) (s : BitVec 3) (m : BitVec 3)
  /-- VID (R155): Writes the element index. -/
  | vid (d : BitVec 5) (s : BitVec 3) (m : BitVec 3)
  /-- VIOTA (R155): Writes the count of earlier active set mask bits. -/
  | viota (d : BitVec 5) (a : BitVec 5) (s : BitVec 3) (m : BitVec 3)
  /-- MAND (R156): Mask AND. -/
  | mand (d : BitVec 5) (a : BitVec 5) (b : BitVec 5) (s : BitVec 3)
  /-- MOR (R156): Mask OR. -/
  | mor (d : BitVec 5) (a : BitVec 5) (b : BitVec 5) (s : BitVec 3)
  /-- MXOR (R156): Mask XOR. -/
  | mxor (d : BitVec 5) (a : BitVec 5) (b : BitVec 5) (s : BitVec 3)
  /-- MANDN (R156): Mask AND NOT. -/
  | mandn (d : BitVec 5) (a : BitVec 5) (b : BitVec 5) (s : BitVec 3)
  /-- MPOP (R157): Synchronising read of the count of set active mask bits. -/
  | mpop (d : BitVec 5) (a : BitVec 5) (s : BitVec 3) (m : BitVec 3)
  /-- MFIRST (R157): Synchronising read of the first set active mask bit, or -1. -/
  | mfirst (d : BitVec 5) (a : BitVec 5) (s : BitVec 3) (m : BitVec 3)
  /-- VMOVS (R158): Synchronising read of one element into a scalar. -/
  | vmovs (d : BitVec 5) (a : BitVec 5) (b : BitVec 5) (s : BitVec 3)
  /-- VINS (R158): Writes a scalar into one element position. -/
  | vins (d : BitVec 5) (a : BitVec 5) (b : BitVec 5) (s : BitVec 3)
  /-- VPERM (R159): Permutes the elements of each row by an index group. -/
  | vperm (d : BitVec 5) (a : BitVec 5) (b : BitVec 5) (s : BitVec 3) (m : BitVec 3)
  /-- VSLIDE_UP (R159): Slides the elements up by a scalar amount. -/
  | vslideUp (d : BitVec 5) (a : BitVec 5) (b : BitVec 5) (s : BitVec 3) (m : BitVec 3)
  /-- VSLIDE_DN (R159): Slides the elements down by a scalar amount. -/
  | vslideDn (d : BitVec 5) (a : BitVec 5) (b : BitVec 5) (s : BitVec 3) (m : BitVec 3)
  /-- VRESHAPE (R160): Re-lays the non-padding elements under another shape. -/
  | vreshape (d : BitVec 5) (a : BitVec 5) (k : BitVec 5) (s : BitVec 3) (m : BitVec 3)
  /-- VBCAST (R159): Broadcasts one element of each row. -/
  | vbcast (d : BitVec 5) (a : BitVec 5) (b : BitVec 5) (s : BitVec 3) (m : BitVec 3)
  /-- VUNPACK (R161): Unpacks I4, T2 or D6 elements into one container each. -/
  | vunpack (d : BitVec 5) (a : BitVec 5) (s : BitVec 3) (m : BitVec 3)
  /-- VLUT (R162): Looks up each code in a table register. -/
  | vlut (d : BitVec 5) (a : BitVec 5) (b : BitVec 5) (s : BitVec 3) (m : BitVec 3)
  /-- VEXPAND (R163): Expands the elements to the positions whose mask bit is set. -/
  | vexpand (d : BitVec 5) (a : BitVec 5) (s : BitVec 3) (m : BitVec 3)
  /-- VCOMPRESS (R163): Compresses the selected elements to the front of the row. -/
  | vcompress (d : BitVec 5) (a : BitVec 5) (s : BitVec 3) (m : BitVec 3)
  /-- VFADD (R167): Floating-point add on extended values. -/
  | vfadd (d : BitVec 5) (a : BitVec 5) (b : BitVec 5) (s : BitVec 3) (m : BitVec 3)
  /-- VFSUB (R167): Floating-point subtract. -/
  | vfsub (d : BitVec 5) (a : BitVec 5) (b : BitVec 5) (s : BitVec 3) (m : BitVec 3)
  /-- VFMUL (R167): Floating-point multiply. -/
  | vfmul (d : BitVec 5) (a : BitVec 5) (b : BitVec 5) (s : BitVec 3) (m : BitVec 3)
  /-- VFMA (R167): Fused multiply-add, A × B + C. -/
  | vfma (d : BitVec 5) (a : BitVec 5) (b : BitVec 5) (s : BitVec 3) (m : BitVec 3)
  /-- VFMS (R167): Fused multiply-subtract, A × B - C. -/
  | vfms (d : BitVec 5) (a : BitVec 5) (b : BitVec 5) (s : BitVec 3) (m : BitVec 3)
  /-- VFNMA (R167): Fused C - A × B. -/
  | vfnma (d : BitVec 5) (a : BitVec 5) (b : BitVec 5) (s : BitVec 3) (m : BitVec 3)
  /-- VFDIV (R167): Floating-point divide. -/
  | vfdiv (d : BitVec 5) (a : BitVec 5) (b : BitVec 5) (s : BitVec 3) (m : BitVec 3)
  /-- VFSQRT (R167): Floating-point square root. -/
  | vfsqrt (d : BitVec 5) (a : BitVec 5) (s : BitVec 3) (m : BitVec 3)
  /-- VFMIN (R169): Chooses the lesser extended value. -/
  | vfmin (d : BitVec 5) (a : BitVec 5) (b : BitVec 5) (s : BitVec 3) (m : BitVec 3)
  /-- VFMAX (R169): Chooses the greater extended value. -/
  | vfmax (d : BitVec 5) (a : BitVec 5) (b : BitVec 5) (s : BitVec 3) (m : BitVec 3)
  /-- VFCMP_EQ (R170): Float compare for equality into a mask. -/
  | vfcmpEq (d : BitVec 5) (a : BitVec 5) (b : BitVec 5) (s : BitVec 3) (m : BitVec 3)
  /-- VFCMP_NE (R170): Float compare for inequality into a mask. -/
  | vfcmpNe (d : BitVec 5) (a : BitVec 5) (b : BitVec 5) (s : BitVec 3) (m : BitVec 3)
  /-- VFCMP_LT (R170): Float compare less-than into a mask. -/
  | vfcmpLt (d : BitVec 5) (a : BitVec 5) (b : BitVec 5) (s : BitVec 3) (m : BitVec 3)
  /-- VFCMP_LE (R170): Float compare less-or-equal into a mask. -/
  | vfcmpLe (d : BitVec 5) (a : BitVec 5) (b : BitVec 5) (s : BitVec 3) (m : BitVec 3)
  /-- VFCMP_GT (R170): Float compare greater-than into a mask. -/
  | vfcmpGt (d : BitVec 5) (a : BitVec 5) (b : BitVec 5) (s : BitVec 3) (m : BitVec 3)
  /-- VFCMP_GE (R170): Float compare greater-or-equal into a mask. -/
  | vfcmpGe (d : BitVec 5) (a : BitVec 5) (b : BitVec 5) (s : BitVec 3) (m : BitVec 3)
  /-- VFCMP_UN (R170): Float compare for unordered into a mask. -/
  | vfcmpUn (d : BitVec 5) (a : BitVec 5) (b : BitVec 5) (s : BitVec 3) (m : BitVec 3)
  /-- VFSGN_J (R171): Gives a the sign of b. -/
  | vfsgnJ (d : BitVec 5) (a : BitVec 5) (b : BitVec 5) (s : BitVec 3) (m : BitVec 3)
  /-- VFSGN_JN (R171): Gives a the inverted sign of b. -/
  | vfsgnJn (d : BitVec 5) (a : BitVec 5) (b : BitVec 5) (s : BitVec 3) (m : BitVec 3)
  /-- VFSGN_JX (R171): Gives a the XOR of the signs of a and b. -/
  | vfsgnJx (d : BitVec 5) (a : BitVec 5) (b : BitVec 5) (s : BitVec 3) (m : BitVec 3)
  /-- VFCLASS (R172): Writes the class bits of each element. -/
  | vfclass (d : BitVec 5) (a : BitVec 5) (s : BitVec 3) (m : BitVec 3)
  /-- VFRCP (R173): Reciprocal estimate. -/
  | vfrcp (d : BitVec 5) (a : BitVec 5) (s : BitVec 3) (m : BitVec 3)
  /-- VFRSQ (R173): Reciprocal square-root estimate. -/
  | vfrsq (d : BitVec 5) (a : BitVec 5) (s : BitVec 3) (m : BitVec 3)
  /-- VFEXP2 (R173): Base-2 exponential estimate. -/
  | vfexp2 (d : BitVec 5) (a : BitVec 5) (s : BitVec 3) (m : BitVec 3)
  /-- VFLOG2 (R173): Base-2 logarithm estimate. -/
  | vflog2 (d : BitVec 5) (a : BitVec 5) (s : BitVec 3) (m : BitVec 3)
  /-- VSETTLE (R177): Rounds each element with its tail into its own format. -/
  | vsettle (d : BitVec 5) (a : BitVec 5) (s : BitVec 3) (m : BitVec 3)
  /-- VTAIL (R178): Writes each element's tail as an integer. -/
  | vtail (d : BitVec 5) (a : BitVec 5) (s : BitVec 3) (m : BitVec 3)
  /-- VCVT (R175): Converts each element to the target format in field b. -/
  | vcvt (d : BitVec 5) (a : BitVec 5) (t : BitVec 5) (s : BitVec 3) (m : BitVec 3)
  /-- VREDSUM_ORD (R180): Ordered sum of each row onto an initial value. -/
  | vredsumOrd (d : BitVec 5) (a : BitVec 5) (b : BitVec 5) (s : BitVec 3) (m : BitVec 3)
  /-- VREDSUM_TREE (R180): Tree sum of each row. -/
  | vredsumTree (d : BitVec 5) (a : BitVec 5) (s : BitVec 3) (m : BitVec 3)
  /-- VREDMAX (R181): Greatest element of each row. -/
  | vredmax (d : BitVec 5) (a : BitVec 5) (s : BitVec 3) (m : BitVec 3)
  /-- VREDMIN (R181): Least element of each row. -/
  | vredmin (d : BitVec 5) (a : BitVec 5) (s : BitVec 3) (m : BitVec 3)
  /-- VARGMAX (R182): Synchronising read of the sweep position of the best-ranked element. -/
  | vargmax (d : BitVec 5) (a : BitVec 5) (s : BitVec 3) (m : BitVec 3)
  /-- VSCAN_ADD (R183): Inclusive running sum of each row. -/
  | vscanAdd (d : BitVec 5) (a : BitVec 5) (s : BitVec 3) (m : BitVec 3)
  /-- VSCAN_MAX (R183): Inclusive running maximum of each row. -/
  | vscanMax (d : BitVec 5) (a : BitVec 5) (s : BitVec 3) (m : BitVec 3)
  /-- VTOPK (R185): Keeps the k best candidates and their indices at each position. -/
  | vtopk (d : BitVec 5) (a : BitVec 5) (k : BitVec 5) (s : BitVec 3) (m : BitVec 3)
  /-- RGEN (R212): Stable sort of the selected keys with their indices. -/
  | rgen (d : BitVec 5) (a : BitVec 5) (b : BitVec 5) (s : BitVec 3) (m : BitVec 3)
  /-- RGEN_TOP (R212): Keeps the top 64 keys, in ascending order. -/
  | rgenTop (d : BitVec 5) (a : BitVec 5) (b : BitVec 5) (s : BitVec 3) (m : BitVec 3)
  /-- RMERGE (R214): Merges two runs into two halves. -/
  | rmerge (d : BitVec 5) (a : BitVec 5) (b : BitVec 5) (s : BitVec 3)
  /-- XSEND (R227): Sends one exchange record per active position, in key order. -/
  | xsend (d : BitVec 5) (a : BitVec 5) (b : BitVec 5) (s : BitVec 3) (m : BitVec 3)
  /-- MEXT (R207): Extracts accumulator rows into a vector group in the captured format. -/
  | mext (d : BitVec 5) (a : BitVec 5) (t : BitVec 5) (s : BitVec 3) (m : BitVec 3)
  /-- MPLANE (R205): Converts a vector group into scratchpad B planes or A panels, quantising block-scaled targets. -/
  | mplane (d : BitVec 5) (a : BitVec 5) (s : BitVec 3) (m : BitVec 3)
  /-- SETTILE (R189): Grants a tile shape and writes it into a shape register. -/
  | settile (d : BitVec 5) (a : BitVec 5) (s : BitVec 3)
  /-- MZERO (R200): Zeroes a tile, sets integer mode and lowers its high-water mark. -/
  | mzero (d : BitVec 5) (t : BitVec 1)
  /-- MMAC (R201): Queues a bit-plane multiply-accumulate into a tile. -/
  | mmac (d : BitVec 5) (a : BitVec 5) (b : BitVec 5) (s : BitVec 3) (t : BitVec 1)
  /-- MMACI (R202): Queues an mmac whose row count comes from a shape record in memory. -/
  | mmaci (d : BitVec 5) (a : BitVec 5) (b : BitVec 5) (s : BitVec 3) (t : BitVec 1)
  /-- MSPILL (R204): Writes a tile image to memory. -/
  | mspill (d : BitVec 5) (a : BitVec 5) (t : BitVec 1)
  /-- MFILL (R204): Loads a tile from an image in memory. -/
  | mfill (d : BitVec 5) (a : BitVec 5) (t : BitVec 1)
  /-- XOPEN (R216): Checks an exchange descriptor and arrives at the rendezvous for its TAG. -/
  | xopen (d : BitVec 5) (a : BitVec 5)
  /-- XSPLIT (R226): Reads splitters that take effect at the next step. -/
  | xsplit (d : BitVec 5) (a : BitVec 5) (b : BitVec 5)
  /-- XPOST (R233): Posts receive buffers for the next step. -/
  | xpost (d : BitVec 5) (a : BitVec 5) (b : BitVec 5)
  /-- XEND (R221): Closes the member's trains of the step by sending tails. -/
  | xend (d : BitVec 5) (a : BitVec 5)
  /-- XSTEP (R222): Arrives at the Beacon, waits for the release and acquires the step's deliveries. -/
  | xstep (d : BitVec 5) (a : BitVec 5)
  /-- XFENCE (R236): Waits for the landing of released steps and acquires their deliveries. -/
  | xfence (a : BitVec 5)
  /-- XSTAT (R237): Returns an exchange status item. -/
  | xstat (d : BitVec 5) (a : BitVec 5) (i : BitVec 4)
  /-- XSAMPLE (R239): Hardware mode: computes splitters from the last step's samples. -/
  | xsample (d : BitVec 5) (a : BitVec 5)
  /-- XSAMPLE_HOST (R239): Host-assisted mode: writes the samples and histogram to a sample area. -/
  | xsampleHost (d : BitVec 5) (a : BitVec 5) (b : BitVec 5)
  /-- XCLOSE (R223): Ends membership of an exchange context. -/
  | xclose (d : BitVec 5) (a : BitVec 5)
  /-- QOPEN (R244): Checks a Lens descriptor, translates the region and arrives at the rendezvous; with sA = 0 it leaves the state. -/
  | qopen (d : BitVec 5) (a : BitVec 5)
  /-- QMAP (R250): Reads the qubit map out, or installs a new map collectively. -/
  | qmap (d : BitVec 5) (a : BitVec 5) (b : BitVec 5)
  /-- QINIT (R251): Sets the state to one basis vector and the map to the identity. -/
  | qinit (d : BitVec 5) (a : BitVec 5) (b : BitVec 5)
  /-- QGATE (R252): Applies a controlled 2^k × 2^k matrix, swapping member-bit targets in. -/
  | qgate (d : BitVec 5) (a : BitVec 5) (b : BitVec 5)
  /-- QDIAG (R255): Applies a controlled diagonal. -/
  | qdiag (d : BitVec 5) (a : BitVec 5) (b : BitVec 5)
  /-- QSWAP (R256): Moves a logical qubit to a physical bit. -/
  | qswap (d : BitVec 5) (a : BitVec 5) (b : BitVec 5)
  /-- QPROB (R257): Computes the two probabilities of a qubit. -/
  | qprob (d : BitVec 5) (a : BitVec 5) (b : BitVec 5)
  /-- QPROJ (R258): Projects a qubit onto a value and renormalises. -/
  | qproj (d : BitVec 5) (a : BitVec 5) (b : BitVec 5)
  /-- QREAD (R259): Copies the member's amplitudes to memory. -/
  | qread (d : BitVec 5) (a : BitVec 5) (b : BitVec 5)
  /-- DCOPY (R120): Checks a copy descriptor and queues a copy command. -/
  | dcopy (d : BitVec 5) (a : BitVec 5)
  /-- DFILL (R120): Checks a descriptor and queues a pattern fill command. -/
  | dfill (d : BitVec 5) (a : BitVec 5)
  /-- TREAD (R118): Returns an engine context's completion counter. -/
  | tread (d : BitVec 5) (x : BitVec 2)
  /-- TWAIT (R119): Waits for an engine context's completion counter, merges flags, acquires effects and raises reports. -/
  | twait (a : BitVec 5) (x : BitVec 2)
  /-- VRED_ADD (R106): Atomically adds the data elements into memory at indexed addresses. -/
  | vredAdd (d : BitVec 5) (a : BitVec 5) (b : BitVec 5) (s : BitVec 3) (m : BitVec 3) (f : BitVec 5)
  /-- VRED_MIN (R106): Atomic indexed minimum into memory. -/
  | vredMin (d : BitVec 5) (a : BitVec 5) (b : BitVec 5) (s : BitVec 3) (m : BitVec 3) (f : BitVec 5)
  /-- VRED_MAX (R106): Atomic indexed maximum into memory. -/
  | vredMax (d : BitVec 5) (a : BitVec 5) (b : BitVec 5) (s : BitVec 3) (m : BitVec 3) (f : BitVec 5)
  /-- VSPILL (R108): Writes the raw containers and tails of a group to a spill image. -/
  | vspill (d : BitVec 5) (a : BitVec 5) (s : BitVec 3)
  /-- VFILL (R108): Reads the raw containers and tails of a group from a spill image. -/
  | vfill (d : BitVec 5) (a : BitVec 5) (s : BitVec 3)
  /-- VLD (R98): Unit-stride vector load with format conversion. -/
  | vld (d : BitVec 5) (a : BitVec 5) (b : BitVec 5) (s : BitVec 3) (m : BitVec 3) (f : BitVec 5)
  /-- VST (R98): Unit-stride vector store, settling each element. -/
  | vst (d : BitVec 5) (a : BitVec 5) (b : BitVec 5) (s : BitVec 3) (m : BitVec 3) (f : BitVec 5)
  /-- VLDS (R98): Strided vector load. -/
  | vlds (d : BitVec 5) (a : BitVec 5) (b : BitVec 5) (s : BitVec 3) (m : BitVec 3) (f : BitVec 5)
  /-- VSTS (R98): Strided vector store. -/
  | vsts (d : BitVec 5) (a : BitVec 5) (b : BitVec 5) (s : BitVec 3) (m : BitVec 3) (f : BitVec 5)
  /-- VLDX (R104): Gather load. -/
  | vldx (d : BitVec 5) (a : BitVec 5) (b : BitVec 5) (s : BitVec 3) (m : BitVec 3) (f : BitVec 5)
  /-- VSTX (R104): Scatter store. -/
  | vstx (d : BitVec 5) (a : BitVec 5) (b : BitVec 5) (s : BitVec 3) (m : BitVec 3) (f : BitVec 5)
  /-- VLDW (R107): Windowed gather that serves the indices inside a window and clears their mask bits. -/
  | vldw (d : BitVec 5) (a : BitVec 5) (b : BitVec 5) (s : BitVec 3) (m : BitVec 3) (f : BitVec 5)
  /-- VIQ_ISSUE (R142): A vector instruction issues from the VIQ, in sequence order, when its operands and chain slot allow. -/
  | viqIssue (h : Nat)
  /-- VECTOR_BEAT (R141): One beat of an issued vector instruction processes its containers across the owned slices. -/
  | vectorBeat (h : Nat) (n : Nat)
  /-- LOAD_DATA_ARRIVAL (R98): Data of a load beat arrives and is converted into the destination elements. -/
  | loadDataArrival (h : Nat) (n : Nat)
  /-- VECTOR_COMPLETE (R142): The last beat completes, results of reductions and sorts commit, and the VIQ entry is freed. -/
  | vectorComplete (h : Nat)
  /-- SYNC_READ_RETURN (R143): A synchronising read's result returns through the queue, and the front end writes it or takes the branch. -/
  | syncReadReturn (h : Nat)
  /-- STREAM_FETCH (R113): An in-stream fetches ahead into its buffer. -/
  | streamFetch (h : Nat) (v : Nat)
  /-- STREAM_DRAIN (R113): An out-stream writes pushed elements from its buffer to memory. -/
  | streamDrain (h : Nat) (v : Nat)
  /-- TAKE_TRAP (R322): Once older VIQ entries are done, the hart records the cause, holds the VIQ image for vector traps and enters the handler. -/
  | takeTrap (h : Nat)
  /-- COPY_TRANSFER (R121): The cluster copy engine moves one line transfer of a command's bytes. -/
  | copyTransfer (h : Nat)
  /-- COPY_COMPLETE (R117): A copy command completes and advances the completion counter. -/
  | copyComplete (h : Nat)
  /-- MATRIX_KSTEP (R210): The cell array runs one K-step and its addition for one hart's command. -/
  | matrixKstep (h : Nat)
  /-- MATRIX_ROW_OP (R209): mzero, mspill or mfill moves one row through the tile's row path. -/
  | matrixRowOp (h : Nat)
  /-- MATRIX_COMPLETE (R199): A matrix command completes and advances the completion counter. -/
  | matrixComplete (h : Nat)
  /-- MMACI_RECORD_POLL (R202): An mmaci at the head of the matrix context reads its record again, within 1,024 cycles, until V = 1. -/
  | mmaciRecordPoll (h : Nat)
  /-- ACC_COLUMN_MOVE (R208): After a repartition, one 16-column group moves to its new slice every 256 cycles. -/
  | accColumnMove (h : Nat)
  /-- LENS_COMMAND_START (R248): A Lens command starts once every member has issued it; members compare records and mismatches fail the state. -/
  | lensCommandStart (slot : Nat)
  /-- LENS_SWAP_SUPERSTEP (R253): Members exchange amplitudes in one superstep under the Beacon. -/
  | lensSwapSuperstep (slot : Nat)
  /-- LENS_COMMAND_COMPLETE (R248): A Lens command's writes complete and its counter advances. -/
  | lensCommandComplete (h : Nat)
  /-- XOPEN_RENDEZVOUS (R216): The gathering reaches NMEM arrivals, checks its members and returns handles or errors. -/
  | xopenRendezvous (tag : BitVec 32)
  /-- QOPEN_RENDEZVOUS (R244): A Lens gathering forms and returns handles or errors. -/
  | qopenRendezvous (tag : BitVec 32)
  /-- MERGE_PASS (R230): A merge point passes its lowest-keyed record, combining equal keys, once every input holds a record or tail. -/
  | mergePass (slot : Nat) (recv : Nat)
  /-- TAIL_LAND (R221): A train's tail lands at its receiver. -/
  | tailLand (slot : Nat) (sender : Nat) (recv : Nat)
  /-- BEACON_RELEASE (R220): The Beacon releases a step, installs pending splitters, activates posted buffers and lets waiting xstep return. -/
  | beaconRelease (slot : Nat)
  /-- BUOY_PROBE (R241): A queue blocked for 2,048 cycles sends a probe token. -/
  | buoyProbe (q : QueueId) (waitsFor : QueueId)
  /-- BUOY_TOKEN_ARRIVE (R241): A queue discards or forwards an arriving token; on the token's return the origin moves one entry into the reserve. -/
  | buoyTokenArrive (q : QueueId) (token : BitVec 64) (waitsFor : Option QueueId)
  /-- LINK_FLIT_RECEIVE (R347): A receiver checks a flit's CRC and sequence, accepts it or NAKs, and performs its completed records. -/
  | linkFlitReceive (port : Nat) (f : Flit)
  /-- LINK_ACK (R347): The receiver acknowledges after 16 flits or 100 ns. -/
  | linkAck (port : Nat)
  /-- LINK_NAK_REPLAY (R347): A NAK makes the transmitter resend from the next sequence. -/
  | linkNakReplay (port : Nat)
  /-- LINK_LANE_LOSS (R348): A lane loss or repeated replays retrain the port degraded or take it down. -/
  | linkLaneLoss (port : Nat) (loss : LaneLoss)
  /-- LINK_RETRAIN_DONE (R348): A retraining ends and replay resumes from the last acknowledged flit. -/
  | linkRetrainDone (port : Nat) (ok : Bool)
  /-- LINK_RECOVERY_TIMER (R348): After 10 s degraded or down with LNK = 0, the port attempts to retrain. -/
  | linkRecoveryTimer (port : Nat)
  /-- LLC_WRITE_BACK (R78): The LLC writes a line back to HBM, compressed or expanded according to its hot bit. -/
  | llcWriteBack (stack : Nat) (line : Nat)
  /-- PATROL_SCRUB (R65): The controller reads and corrects each chunk once in 8 hours, logging uncorrectable ones. -/
  | patrolScrub (w : CheckedWord) (r : ScrubResult)
  /-- WALKER_HANDOUT (R307): A walker starts its next unit on the first free core of its placement. -/
  | walkerHandout (w : Nat)
  /-- WAIT_WORD_POLL (R305): The walker reads a wait word, within 1,024 cycles, until it is satisfied. -/
  | waitWordPoll (w : Nat) (k : Nat)
  /-- AGEING_TICK (R309): After AGE ns without hand-out, a nest's effective priority rises by 1. -/
  | ageingTick (nest : Nat)
  /-- LPWAIT_EXPIRY (R287): A wanted slice's owner that passes LPWAIT cycles without a boundary is forced out and saved. -/
  | lpwaitExpiry (core : Nat) (slice : Nat)
  /-- HALT_REQUEST (R326): A halt request reaches the core, and the affected harts stop at their halt points. -/
  | haltRequest (h : Nat) (r : HaltReason)
  /-- CONTEXT_SAVE (R329): A halted context's lines, tiles, streams and image are written to its slot. -/
  | contextSave (h : Nat)
  /-- OWED_WRITE_LAND (R331): A memory beat's data that arrives after a halt lands in its line or backing area. -/
  | owedWriteLand (k : Nat) (dataLost : Bool)
  /-- CONTEXT_RESUME (R330): A saved context is written back into a hart, reattaches its engines and continues. -/
  | contextResume (w : Nat)
  /-- CORE_REBIND (R311): The scheduler saves the core's harts, saves the scratchpad image and rebinds the pool triple. -/
  | coreRebind (core : Nat) (nest : Nat)
  /-- DEADLINE_EXPIRY (R312): SPANTIME reaching DLINE expires the waiting iteration and drains the walk. -/
  | deadlineExpiry (nest : Nat)
  /-- NEST_STATUS_WRITE (R315): When every iteration is accounted, the status word is written and the nest id freed. -/
  | nestStatusWrite (nest : Nat)
  /-- HOST_BAR_ACCESS (R342): A host read or write through BAR0 or BAR2 is performed, or completed with Unsupported Request. -/
  | hostBarAccess (fn : Fn) (req : BarReq)
  /-- HOST_ATOMICOP (R341): A host AtomicOp at BAR2 is performed at the home LLC. -/
  | hostAtomicop (fn : Fn) (req : HostAtomic)
  /-- ATS_INVALIDATE (R341): A host invalidation request removes entries from the translation cache. -/
  | atsInvalidate (range : HostRange) (right : Option Bool)
  /-- HOSTMODE_WRITE (R345): A write to HOSTMODE sets the mode of each duty for later events. -/
  | hostmodeWrite (v : BitVec 64)
  /-- EVENT_POST (R344): The device writes an event record, advances PROD and raises MSI-X vector 0. -/
  | eventPost (fn : Fn)
  /-- KEEPER_REQUEST_SERVE (R346): With DISP = 1, the Keeper serves a request slot, at most once per 2 µs. -/
  | keeperRequestServe (fn : Fn)
  /-- MAILBOX_SENSORS (R351): Command 1 writes the sensor words into the data area. -/
  | mailboxSensors (p : MailPort)
  /-- MAILBOX_LOG_COPY (R351): Command 2 copies the event log to the host. -/
  | mailboxLogCopy (p : MailPort)
  /-- MAILBOX_ATTEST (R356): Command 3 produces a signed attestation report. -/
  | mailboxAttest (p : MailPort)
  /-- MAILBOX_IMAGE_FETCH (R352): Command 4 fetches and verifies a Keeper image into the inactive slot. -/
  | mailboxImageFetch (p : MailPort) (v : ImageCheck)
  /-- MAILBOX_FENCE_CLEAR (R359): Command 5 clears the fence counts of the named stacks. -/
  | mailboxFenceClear (p : MailPort)
  /-- MAILBOX_ACTIVATE (R352): Command 6 activates the verified inactive slot at the next reset. -/
  | mailboxActivate (p : MailPort)
  /-- MAILBOX_POWER_LIMIT (R357): Command 7 sets the issue-withholding power limit. -/
  | mailboxPowerLimit (p : MailPort)
  /-- MAILBOX_RETRAIN (R348): Command 8 retrains the named ports. -/
  | mailboxRetrain (p : MailPort)
  /-- MAILBOX_REPORT_READ (R351): Command 9 copies 3,840 bytes of the latest report into the data area. -/
  | mailboxReportRead (p : MailPort)
  /-- I3C_PRIVATE_WRITE (R354): An out-of-band private write sets the offset and writes bytes of the mailbox page. -/
  | i3cPrivateWrite (addr : BitVec 7) (data : List (BitVec 8))
  /-- I3C_PRIVATE_READ (R354): An out-of-band private read returns bytes from the current offset. -/
  | i3cPrivateRead (addr : BitVec 7) (n : Nat)
  /-- I3C_ADDRESS_ASSIGN (R354): SETDASA or ENTDAA assigns the port a dynamic address. -/
  | i3cAddressAssign (addr : BitVec 7)
  /-- SENSOR_POLL (R350): Every 1 ms the Keeper reads its 128 sensor points and acts on temperature limits. -/
  | sensorPoll (readings : List Sensor)
  /-- POWER_ADJUST (R357): Every 1 ms the Keeper adjusts issue withholding to the power limit. -/
  | powerAdjust (watts : Nat)
  /-- DEVICE_RESET (R358): Reset sets the reset state and runs the boot steps in order. -/
  | deviceReset (passes : List BootPass)
  /-- EXCHANGE_COMMAND_COMPLETE (R242): An exchange-context command that took time (xpost, host-assisted xsample writing its sample area, xclose once every member has left) completes, frees what it holds and advances the exchange completion counter. -/
  | exchangeCommandComplete (h : Nat)
  /-- STORE_QUEUE_DRAIN (R264): The oldest write in the scalar path's store queue is performed into memory, in FIFO order. -/
  | storeQueueDrain (h : Nat)
  deriving DecidableEq, Repr

end Sys2Proof
end

