-- ==== Sys2Proof/WellFormed.lean ====
section
/-! DEFINITION. The ranges of instruction fields (03 R47, R50): an instruction is well formed when every field that names a
mask, shape register, tile, format code, count or condition lies in its stated range. What depends on a captured shape is
checked at capture, not here (03 R50). -/

namespace Sys2Proof

/-- The numbers of Table 06.4 (06 R136). -/
def csrNumbers : List Nat :=
  [0x000, 0x001, 0x008, 0x009, 0x00A, 0x00B, 0x00C, 0x00D, 0x00E, 0x00F, 0x010, 0x011, 0x012, 0x013, 0x014] ++
  [0x100, 0x101, 0x102, 0x103, 0x104, 0x105, 0x106, 0x107, 0x108, 0x109, 0x10A, 0x10B, 0x10C] ++
  [0x200, 0x201, 0x202, 0x203, 0x300]

/-- A mask or shape number in a five-bit field is 0 to 7 (03 R47, R55). -/
def isOct (x : BitVec 5) : Bool := x.toNat < 8

/-- A stream register is v28 to v31 (05 R112). -/
def isStreamReg (x : BitVec 5) : Bool := 28 ≤ x.toNat

/-- A condition or scope code of Table 03.5 is 0 to 5. -/
def isCode6 (x : BitVec 3) : Bool := x.toNat < 6

/-- A memory format code is assigned (02 R18). -/
def isFmt (x : BitVec 5) : Bool := x.toNat < 24

/-- Codes 17 to 23 are the block-scaled formats (02 Table 02.1). -/
def isBlockScaled (x : BitVec 5) : Bool := 17 ≤ x.toNat && x.toNat < 24

/-- A whole-byte memory format, code 0 to 7 or 10 to 15 (05 R97). -/
def isWholeByte (x : BitVec 5) : Bool := x.toNat < 8 || (10 ≤ x.toNat && x.toNat < 16)

/-- Every field of the instruction lies in its range. -/
def Instr.wellFormed (i : Instr) : Bool :=
  match i with
  | .cmp _ _ _ c => isCode6 c
  | .cmpi _ _ c _ => isCode6 c
  | .amo _ _ _ s _ _ p => isCode6 s && p.toNat < 9
  | .cas _ _ _ s _ _ => isCode6 s
  | .red _ _ s _ _ p => isCode6 s && p.toNat < 8
  | .fence k s => isCode6 s && 0 < k.toNat
  | .bvany m s _ => isOct m && isOct s
  | .bvnone m s _ => isOct m && isOct s
  | .csrr _ c => csrNumbers.contains c.toNat
  | .csrw _ _ c => csrNumbers.contains c.toNat
  | .csrs _ _ c => csrNumbers.contains c.toNat
  | .csrc _ _ c => csrNumbers.contains c.toNat
  | .sbind d _ => isStreamReg d
  | .sfree d => isStreamReg d
  | .sstat _ b => isStreamReg b
  | .setvl _ _ _ f _ _ _ => isFmt f
  | .vcmpEq d _ _ _ _ => isOct d
  | .vcmpNe d _ _ _ _ => isOct d
  | .vcmpLt d _ _ _ _ => isOct d
  | .vcmpLe d _ _ _ _ => isOct d
  | .vcmpGt d _ _ _ _ => isOct d
  | .vcmpGe d _ _ _ _ => isOct d
  | .vfcmpEq d _ _ _ _ => isOct d
  | .vfcmpNe d _ _ _ _ => isOct d
  | .vfcmpLt d _ _ _ _ => isOct d
  | .vfcmpLe d _ _ _ _ => isOct d
  | .vfcmpGt d _ _ _ _ => isOct d
  | .vfcmpGe d _ _ _ _ => isOct d
  | .vfcmpUn d _ _ _ _ => isOct d
  | .viota _ a _ _ => isOct a
  | .mand d a b _ => isOct d && isOct a && isOct b
  | .mor d a b _ => isOct d && isOct a && isOct b
  | .mxor d a b _ => isOct d && isOct a && isOct b
  | .mandn d a b _ => isOct d && isOct a && isOct b
  | .mpop _ a _ _ => isOct a
  | .mfirst _ a _ _ => isOct a
  | .vreshape _ _ k _ _ => isOct k
  | .vcvt _ _ t _ _ => isFmt t
  | .vtopk _ a k _ _ => 1 ≤ k.toNat && k.toNat ≤ 8 && a.toNat < 31
  | .mext _ _ t _ _ => t.toNat < 2
  | .mmaci _ _ b _ _ => b.toNat < 31
  | .xstat _ _ i => i.toNat < 10
  | .vld _ a _ _ _ f => isFmt f && (!isBlockScaled f || a.toNat < 31)
  | .vst _ _ _ _ _ f => isFmt f && !isBlockScaled f
  | .vlds _ _ _ _ _ f => isWholeByte f
  | .vsts _ _ _ _ _ f => isWholeByte f
  | .vldx _ _ _ _ _ f => isWholeByte f
  | .vstx _ _ _ _ _ f => isWholeByte f
  | .vldw _ a _ _ m f => isWholeByte f && m.toNat != 0 && a.toNat < 31
  | .vldseg _ _ b _ _ f => isWholeByte f && 2 ≤ b.toNat && b.toNat ≤ 8
  | .vstseg _ _ b _ _ f => isWholeByte f && 2 ≤ b.toNat && b.toNat ≤ 8
  | .vredAdd _ _ _ _ _ f => [2, 3, 6, 7, 12].contains f.toNat
  | .vredMin _ _ _ _ _ f => [2, 3, 6, 7, 12].contains f.toNat
  | .vredMax _ _ _ _ _ f => [2, 3, 6, 7, 12].contains f.toNat
  | _ => true

end Sys2Proof
end

