-- ==== Sys2Proof/Decode.lean ====
section
/-! DEFINITION. Decoding of instruction words (03 R45 to R59) and the encoder. Bits are taken from a word by number, as the
spec numbers them (00 R2). A word that is no instruction is rejected by name; at execution it raises ILLEGAL (03 R50, R51). -/

namespace Sys2Proof

/-- Why a word is no instruction (03 R50). -/
inductive Reject where
  /-- The major opcode is reserved in Table 03.2, the words 0x0000_0000 and 0xFFFF_FFFF among them. -/
  | reservedMajor
  /-- The function or mode value is not assigned in its group's table. -/
  | unassigned
  /-- A field that must be zero is not. -/
  | nonzeroField
  /-- A field value outside its stated range. -/
  | fieldOutOfRange
  /-- Fewer than the four bytes of a word. -/
  | truncated
  deriving DecidableEq, Repr

/-- Bits lo + len - 1 down to lo of w. -/
def fld (w lo len : Nat) : Nat := w / 2 ^ lo % 2 ^ len

/-- The field of w that begins at bit lo, at the width its reader expects. -/
def at' {n : Nat} (w lo : Nat) : BitVec n := BitVec.ofNat n (w / 2 ^ lo)

/-- An instruction whose unused fields, summed in z, must be zero (03 R47). -/
def zeroField (z : Nat) (i : Instr) : Except Reject Instr :=
  if z = 0 then .ok i else .error .nonzeroField

/-- SALU functions (03 Table 03.3). -/
def decodeSalu (w : Nat) : Except Reject Instr :=
  match fld w 0 5 with
  | 0 => zeroField (fld w 5 6) (.add (at' w 21) (at' w 16) (at' w 11))
  | 1 => zeroField (fld w 5 6) (.sub (at' w 21) (at' w 16) (at' w 11))
  | 2 => zeroField (fld w 5 6) (.mul (at' w 21) (at' w 16) (at' w 11))
  | 3 => zeroField (fld w 5 6) (.mulh (at' w 21) (at' w 16) (at' w 11))
  | 4 => zeroField (fld w 5 6) (.mulhn (at' w 21) (at' w 16) (at' w 11))
  | 5 => zeroField (fld w 5 6) (.div (at' w 21) (at' w 16) (at' w 11))
  | 6 => zeroField (fld w 5 6) (.divn (at' w 21) (at' w 16) (at' w 11))
  | 7 => zeroField (fld w 5 6) (.rem (at' w 21) (at' w 16) (at' w 11))
  | 8 => zeroField (fld w 5 6) (.remn (at' w 21) (at' w 16) (at' w 11))
  | 9 => zeroField (fld w 5 6) (.and (at' w 21) (at' w 16) (at' w 11))
  | 10 => zeroField (fld w 5 6) (.or (at' w 21) (at' w 16) (at' w 11))
  | 11 => zeroField (fld w 5 6) (.xor (at' w 21) (at' w 16) (at' w 11))
  | 12 => zeroField (fld w 5 6) (.sll (at' w 21) (at' w 16) (at' w 11))
  | 13 => zeroField (fld w 5 6) (.srl (at' w 21) (at' w 16) (at' w 11))
  | 14 => zeroField (fld w 5 6) (.sra (at' w 21) (at' w 16) (at' w 11))
  | 15 => zeroField (fld w 5 6) (.min (at' w 21) (at' w 16) (at' w 11))
  | 16 => zeroField (fld w 5 6) (.max (at' w 21) (at' w 16) (at' w 11))
  | 17 => zeroField (fld w 5 6) (.minn (at' w 21) (at' w 16) (at' w 11))
  | 18 => zeroField (fld w 5 6) (.maxn (at' w 21) (at' w 16) (at' w 11))
  | 19 => zeroField (fld w 5 11) (.clz (at' w 21) (at' w 16))
  | 20 => zeroField (fld w 5 11) (.ctz (at' w 21) (at' w 16))
  | 21 => zeroField (fld w 5 11) (.popc (at' w 21) (at' w 16))
  | 22 => zeroField (fld w 8 3) (.cmp (at' w 21) (at' w 16) (at' w 11) (at' w 5))
  | 23 => zeroField (fld w 5 1) (.csel (at' w 21) (at' w 16) (at' w 11) (at' w 6))
  | 24 => zeroField (fld w 7 4) (.lea (at' w 21) (at' w 16) (at' w 11) (at' w 5))
  | _ => .error .unassigned

/-- CTL functions (03 Table 03.3). -/
def decodeCtl (w : Nat) : Except Reject Instr :=
  match fld w 0 5 with
  | 0 => zeroField (fld w 5 21) (.endIter)
  | 1 => zeroField (fld w 11 15) (.trap (at' w 5))
  | 2 => zeroField (fld w 5 21) (.eret)
  | 3 => zeroField (fld w 10 16) (.fence (at' w 8) (at' w 5))
  | 4 => zeroField (fld w 5 21) (.lsync)
  | 5 => zeroField (fld w 5 6) (.waitm (at' w 21) (at' w 16) (at' w 11))
  | 6 => zeroField (fld w 5 21) (.yield)
  | 7 => zeroField (fld w 5 11) (.lpreq (at' w 21) (at' w 16))
  | 8 => zeroField (fld w 5 11) (.forkl (at' w 21) (at' w 16))
  | 9 => zeroField (fld w 5 11 + fld w 21 5) (.joinl (at' w 16))
  | 10 => zeroField (fld w 5 21) (.vrel)
  | 11 => zeroField (fld w 5 11 + fld w 21 5) (.ctxsave (at' w 16))
  | 12 => zeroField (fld w 5 11 + fld w 21 5) (.ctxrest (at' w 16))
  | 13 =>
    match fld w 5 2 with
    | 0 => zeroField (fld w 7 4 + fld w 21 5) (.tlbinvPage (at' w 16) (at' w 11))
    | 1 => zeroField (fld w 7 4 + fld w 16 10) (.tlbinvCtx (at' w 11))
    | 2 => zeroField (fld w 7 19) (.tlbinvAll)
    | _ => .error .fieldOutOfRange
  | 14 => zeroField (fld w 5 11) (.nest (at' w 21) (at' w 16))
  | 15 => zeroField (fld w 5 11 + fld w 21 5) (.nwithdraw (at' w 16))
  | 16 => zeroField (fld w 5 11) (.nstat (at' w 21) (at' w 16))
  | _ => .error .unassigned

/-- STRM functions (03 Table 03.3). -/
def decodeStrm (w : Nat) : Except Reject Instr :=
  match fld w 0 5 with
  | 0 => zeroField (fld w 5 11) (.sbind (at' w 21) (at' w 16))
  | 1 => zeroField (fld w 5 16) (.sfree (at' w 21))
  | 2 => zeroField (fld w 5 6 + fld w 16 5) (.sstat (at' w 21) (at' w 11))
  | _ => .error .unassigned

/-- VINT functions (03 Table 03.4). -/
def decodeVint (w : Nat) : Except Reject Instr :=
  match fld w 0 5 with
  | 0 => .ok (.vadd (at' w 21) (at' w 16) (at' w 11) (at' w 8) (at' w 5))
  | 1 => .ok (.vsub (at' w 21) (at' w 16) (at' w 11) (at' w 8) (at' w 5))
  | 2 => .ok (.vmul (at' w 21) (at' w 16) (at' w 11) (at' w 8) (at' w 5))
  | 3 => .ok (.vmulh (at' w 21) (at' w 16) (at' w 11) (at' w 8) (at' w 5))
  | 4 => .ok (.vmacc (at' w 21) (at' w 16) (at' w 11) (at' w 8) (at' w 5))
  | 5 => .ok (.vsadd (at' w 21) (at' w 16) (at' w 11) (at' w 8) (at' w 5))
  | 6 => .ok (.vssub (at' w 21) (at' w 16) (at' w 11) (at' w 8) (at' w 5))
  | 7 => .ok (.vmin (at' w 21) (at' w 16) (at' w 11) (at' w 8) (at' w 5))
  | 8 => .ok (.vmax (at' w 21) (at' w 16) (at' w 11) (at' w 8) (at' w 5))
  | 9 => .ok (.vand (at' w 21) (at' w 16) (at' w 11) (at' w 8) (at' w 5))
  | 10 => .ok (.vor (at' w 21) (at' w 16) (at' w 11) (at' w 8) (at' w 5))
  | 11 => .ok (.vxor (at' w 21) (at' w 16) (at' w 11) (at' w 8) (at' w 5))
  | 12 => .ok (.vsll (at' w 21) (at' w 16) (at' w 11) (at' w 8) (at' w 5))
  | 13 => .ok (.vsrl (at' w 21) (at' w 16) (at' w 11) (at' w 8) (at' w 5))
  | 14 => .ok (.vsra (at' w 21) (at' w 16) (at' w 11) (at' w 8) (at' w 5))
  | 15 => .ok (.vmerge (at' w 21) (at' w 16) (at' w 11) (at' w 8) (at' w 5))
  | 16 => .ok (.vcmpEq (at' w 21) (at' w 16) (at' w 11) (at' w 8) (at' w 5))
  | 17 => .ok (.vcmpNe (at' w 21) (at' w 16) (at' w 11) (at' w 8) (at' w 5))
  | 18 => .ok (.vcmpLt (at' w 21) (at' w 16) (at' w 11) (at' w 8) (at' w 5))
  | 19 => .ok (.vcmpLe (at' w 21) (at' w 16) (at' w 11) (at' w 8) (at' w 5))
  | 20 => .ok (.vcmpGt (at' w 21) (at' w 16) (at' w 11) (at' w 8) (at' w 5))
  | 21 => .ok (.vcmpGe (at' w 21) (at' w 16) (at' w 11) (at' w 8) (at' w 5))
  | 22 => .ok (.vnshrTz (at' w 21) (at' w 16) (at' w 11) (at' w 8) (at' w 5))
  | 23 => .ok (.vnshrHu (at' w 21) (at' w 16) (at' w 11) (at' w 8) (at' w 5))
  | 24 => .ok (.vnshrHe (at' w 21) (at' w 16) (at' w 11) (at' w 8) (at' w 5))
  | 25 => .ok (.vnshrOd (at' w 21) (at' w 16) (at' w 11) (at' w 8) (at' w 5))
  | 26 => zeroField (fld w 11 5) (.vmv (at' w 21) (at' w 16) (at' w 8) (at' w 5))
  | 27 => zeroField (fld w 11 5) (.vsplat (at' w 21) (at' w 16) (at' w 8) (at' w 5))
  | 28 => zeroField (fld w 11 10) (.vid (at' w 21) (at' w 8) (at' w 5))
  | 29 => zeroField (fld w 11 5) (.viota (at' w 21) (at' w 16) (at' w 8) (at' w 5))
  | _ => .error .unassigned

/-- VMOV functions (03 Table 03.4). -/
def decodeVmov (w : Nat) : Except Reject Instr :=
  match fld w 0 5 with
  | 0 => zeroField (fld w 5 3) (.mand (at' w 21) (at' w 16) (at' w 11) (at' w 8))
  | 1 => zeroField (fld w 5 3) (.mor (at' w 21) (at' w 16) (at' w 11) (at' w 8))
  | 2 => zeroField (fld w 5 3) (.mxor (at' w 21) (at' w 16) (at' w 11) (at' w 8))
  | 3 => zeroField (fld w 5 3) (.mandn (at' w 21) (at' w 16) (at' w 11) (at' w 8))
  | 4 => zeroField (fld w 11 5) (.mpop (at' w 21) (at' w 16) (at' w 8) (at' w 5))
  | 5 => zeroField (fld w 11 5) (.mfirst (at' w 21) (at' w 16) (at' w 8) (at' w 5))
  | 6 => zeroField (fld w 5 3) (.vmovs (at' w 21) (at' w 16) (at' w 11) (at' w 8))
  | 7 => zeroField (fld w 5 3) (.vins (at' w 21) (at' w 16) (at' w 11) (at' w 8))
  | _ => .error .unassigned

/-- VXF functions (03 Table 03.4). -/
def decodeVxf (w : Nat) : Except Reject Instr :=
  match fld w 0 5 with
  | 0 => .ok (.vperm (at' w 21) (at' w 16) (at' w 11) (at' w 8) (at' w 5))
  | 1 => .ok (.vslideUp (at' w 21) (at' w 16) (at' w 11) (at' w 8) (at' w 5))
  | 2 => .ok (.vslideDn (at' w 21) (at' w 16) (at' w 11) (at' w 8) (at' w 5))
  | 3 => .ok (.vreshape (at' w 21) (at' w 16) (at' w 11) (at' w 8) (at' w 5))
  | 4 => .ok (.vbcast (at' w 21) (at' w 16) (at' w 11) (at' w 8) (at' w 5))
  | 5 => zeroField (fld w 11 5) (.vunpack (at' w 21) (at' w 16) (at' w 8) (at' w 5))
  | 6 => .ok (.vlut (at' w 21) (at' w 16) (at' w 11) (at' w 8) (at' w 5))
  | 7 => zeroField (fld w 11 5) (.vexpand (at' w 21) (at' w 16) (at' w 8) (at' w 5))
  | 8 => zeroField (fld w 11 5) (.vcompress (at' w 21) (at' w 16) (at' w 8) (at' w 5))
  | _ => .error .unassigned

/-- VFLT functions (03 Table 03.4). -/
def decodeVflt (w : Nat) : Except Reject Instr :=
  match fld w 0 5 with
  | 0 => .ok (.vfadd (at' w 21) (at' w 16) (at' w 11) (at' w 8) (at' w 5))
  | 1 => .ok (.vfsub (at' w 21) (at' w 16) (at' w 11) (at' w 8) (at' w 5))
  | 2 => .ok (.vfmul (at' w 21) (at' w 16) (at' w 11) (at' w 8) (at' w 5))
  | 3 => .ok (.vfma (at' w 21) (at' w 16) (at' w 11) (at' w 8) (at' w 5))
  | 4 => .ok (.vfms (at' w 21) (at' w 16) (at' w 11) (at' w 8) (at' w 5))
  | 5 => .ok (.vfnma (at' w 21) (at' w 16) (at' w 11) (at' w 8) (at' w 5))
  | 6 => .ok (.vfdiv (at' w 21) (at' w 16) (at' w 11) (at' w 8) (at' w 5))
  | 7 => zeroField (fld w 11 5) (.vfsqrt (at' w 21) (at' w 16) (at' w 8) (at' w 5))
  | 8 => .ok (.vfmin (at' w 21) (at' w 16) (at' w 11) (at' w 8) (at' w 5))
  | 9 => .ok (.vfmax (at' w 21) (at' w 16) (at' w 11) (at' w 8) (at' w 5))
  | 10 => .ok (.vfcmpEq (at' w 21) (at' w 16) (at' w 11) (at' w 8) (at' w 5))
  | 11 => .ok (.vfcmpNe (at' w 21) (at' w 16) (at' w 11) (at' w 8) (at' w 5))
  | 12 => .ok (.vfcmpLt (at' w 21) (at' w 16) (at' w 11) (at' w 8) (at' w 5))
  | 13 => .ok (.vfcmpLe (at' w 21) (at' w 16) (at' w 11) (at' w 8) (at' w 5))
  | 14 => .ok (.vfcmpGt (at' w 21) (at' w 16) (at' w 11) (at' w 8) (at' w 5))
  | 15 => .ok (.vfcmpGe (at' w 21) (at' w 16) (at' w 11) (at' w 8) (at' w 5))
  | 16 => .ok (.vfcmpUn (at' w 21) (at' w 16) (at' w 11) (at' w 8) (at' w 5))
  | 17 => .ok (.vfsgnJ (at' w 21) (at' w 16) (at' w 11) (at' w 8) (at' w 5))
  | 18 => .ok (.vfsgnJn (at' w 21) (at' w 16) (at' w 11) (at' w 8) (at' w 5))
  | 19 => .ok (.vfsgnJx (at' w 21) (at' w 16) (at' w 11) (at' w 8) (at' w 5))
  | 20 => zeroField (fld w 11 5) (.vfclass (at' w 21) (at' w 16) (at' w 8) (at' w 5))
  | 21 => zeroField (fld w 11 5) (.vfrcp (at' w 21) (at' w 16) (at' w 8) (at' w 5))
  | 22 => zeroField (fld w 11 5) (.vfrsq (at' w 21) (at' w 16) (at' w 8) (at' w 5))
  | 23 => zeroField (fld w 11 5) (.vfexp2 (at' w 21) (at' w 16) (at' w 8) (at' w 5))
  | 24 => zeroField (fld w 11 5) (.vflog2 (at' w 21) (at' w 16) (at' w 8) (at' w 5))
  | 25 => zeroField (fld w 11 5) (.vsettle (at' w 21) (at' w 16) (at' w 8) (at' w 5))
  | 26 => zeroField (fld w 11 5) (.vtail (at' w 21) (at' w 16) (at' w 8) (at' w 5))
  | _ => .error .unassigned

/-- VRED functions (03 Table 03.4). -/
def decodeVred (w : Nat) : Except Reject Instr :=
  match fld w 0 5 with
  | 0 => .ok (.vredsumOrd (at' w 21) (at' w 16) (at' w 11) (at' w 8) (at' w 5))
  | 1 => zeroField (fld w 11 5) (.vredsumTree (at' w 21) (at' w 16) (at' w 8) (at' w 5))
  | 2 => zeroField (fld w 11 5) (.vredmax (at' w 21) (at' w 16) (at' w 8) (at' w 5))
  | 3 => zeroField (fld w 11 5) (.vredmin (at' w 21) (at' w 16) (at' w 8) (at' w 5))
  | 4 => zeroField (fld w 11 5) (.vargmax (at' w 21) (at' w 16) (at' w 8) (at' w 5))
  | 5 => zeroField (fld w 11 5) (.vscanAdd (at' w 21) (at' w 16) (at' w 8) (at' w 5))
  | 6 => zeroField (fld w 11 5) (.vscanMax (at' w 21) (at' w 16) (at' w 8) (at' w 5))
  | 7 => .ok (.vtopk (at' w 21) (at' w 16) (at' w 11) (at' w 8) (at' w 5))
  | _ => .error .unassigned

/-- VENG functions (03 Table 03.4). -/
def decodeVeng (w : Nat) : Except Reject Instr :=
  match fld w 0 5 with
  | 0 => .ok (.rgen (at' w 21) (at' w 16) (at' w 11) (at' w 8) (at' w 5))
  | 1 => .ok (.rgenTop (at' w 21) (at' w 16) (at' w 11) (at' w 8) (at' w 5))
  | 2 => zeroField (fld w 5 3) (.rmerge (at' w 21) (at' w 16) (at' w 11) (at' w 8))
  | 3 => .ok (.xsend (at' w 21) (at' w 16) (at' w 11) (at' w 8) (at' w 5))
  | 4 => .ok (.mext (at' w 21) (at' w 16) (at' w 11) (at' w 8) (at' w 5))
  | 5 => zeroField (fld w 11 5) (.mplane (at' w 21) (at' w 16) (at' w 8) (at' w 5))
  | _ => .error .unassigned

/-- MTX functions (03 Table 03.6). -/
def decodeMtx (w : Nat) : Except Reject Instr :=
  match fld w 0 5 with
  | 0 => zeroField (fld w 5 1 + fld w 9 7) (.settile (at' w 21) (at' w 16) (at' w 6))
  | 1 => zeroField (fld w 6 15) (.mzero (at' w 21) (at' w 5))
  | 2 => zeroField (fld w 9 2) (.mmac (at' w 21) (at' w 16) (at' w 11) (at' w 6) (at' w 5))
  | 3 => zeroField (fld w 9 2) (.mmaci (at' w 21) (at' w 16) (at' w 11) (at' w 6) (at' w 5))
  | 4 => zeroField (fld w 6 10) (.mspill (at' w 21) (at' w 16) (at' w 5))
  | 5 => zeroField (fld w 6 10) (.mfill (at' w 21) (at' w 16) (at' w 5))
  | _ => .error .unassigned

/-- XCH functions (03 Table 03.6). -/
def decodeXch (w : Nat) : Except Reject Instr :=
  match fld w 0 5 with
  | 0 => zeroField (fld w 5 11) (.xopen (at' w 21) (at' w 16))
  | 1 => zeroField (fld w 5 6) (.xsplit (at' w 21) (at' w 16) (at' w 11))
  | 2 => zeroField (fld w 5 6) (.xpost (at' w 21) (at' w 16) (at' w 11))
  | 3 => zeroField (fld w 5 11) (.xend (at' w 21) (at' w 16))
  | 4 => zeroField (fld w 5 11) (.xstep (at' w 21) (at' w 16))
  | 5 => zeroField (fld w 5 11 + fld w 21 5) (.xfence (at' w 16))
  | 6 => zeroField (fld w 9 7) (.xstat (at' w 21) (at' w 16) (at' w 5))
  | 7 =>
    if fld w 5 1 = 0 then zeroField (fld w 6 10) (.xsample (at' w 21) (at' w 16))
    else zeroField (fld w 6 5) (.xsampleHost (at' w 21) (at' w 16) (at' w 11))
  | 8 => zeroField (fld w 5 11) (.xclose (at' w 21) (at' w 16))
  | _ => .error .unassigned

/-- LENS functions (03 Table 03.6). -/
def decodeLens (w : Nat) : Except Reject Instr :=
  match fld w 0 5 with
  | 0 => zeroField (fld w 5 11) (.qopen (at' w 21) (at' w 16))
  | 1 => zeroField (fld w 5 6) (.qmap (at' w 21) (at' w 16) (at' w 11))
  | 2 => zeroField (fld w 5 6) (.qinit (at' w 21) (at' w 16) (at' w 11))
  | 3 => zeroField (fld w 5 6) (.qgate (at' w 21) (at' w 16) (at' w 11))
  | 4 => zeroField (fld w 5 6) (.qdiag (at' w 21) (at' w 16) (at' w 11))
  | 5 => zeroField (fld w 5 6) (.qswap (at' w 21) (at' w 16) (at' w 11))
  | 6 => zeroField (fld w 5 6) (.qprob (at' w 21) (at' w 16) (at' w 11))
  | 7 => zeroField (fld w 5 6) (.qproj (at' w 21) (at' w 16) (at' w 11))
  | 8 => zeroField (fld w 5 6) (.qread (at' w 21) (at' w 16) (at' w 11))
  | _ => .error .unassigned

/-- COPY functions (03 Table 03.6). -/
def decodeCopy (w : Nat) : Except Reject Instr :=
  match fld w 0 5 with
  | 0 => zeroField (fld w 5 11) (.dcopy (at' w 21) (at' w 16))
  | 1 => zeroField (fld w 5 11) (.dfill (at' w 21) (at' w 16))
  | 2 => zeroField (fld w 7 14) (.tread (at' w 21) (at' w 5))
  | 3 => zeroField (fld w 7 9 + fld w 21 5) (.twait (at' w 16) (at' w 5))
  | _ => .error .unassigned

/-- VMISC modes (03 R59). -/
def decodeVmisc (w : Nat) : Except Reject Instr :=
  match fld w 0 5 with
  | 0 => zeroField (fld w 5 3 + fld w 11 5) (.vspill (at' w 21) (at' w 16) (at' w 8))
  | 1 => zeroField (fld w 5 3 + fld w 11 5) (.vfill (at' w 21) (at' w 16) (at' w 8))
  | _ => .error .unassigned

/-- AMO: fn[10] is the no-return bit and fn[3:0] the operation (03 R56). -/
def decodeAmo (w : Nat) : Except Reject Instr :=
  if fld w 10 1 = 1 then zeroField (fld w 21 5) (.red (at' w 16) (at' w 11) (at' w 7) (at' w 5) (at' w 4) (at' w 0))
  else if fld w 0 4 = 9 then .ok (.cas (at' w 21) (at' w 16) (at' w 11) (at' w 7) (at' w 5) (at' w 4))
  else .ok (.amo (at' w 21) (at' w 16) (at' w 11) (at' w 7) (at' w 5) (at' w 4) (at' w 0))

/-- SHI: imm16[7:6] selects the shift (03 R53). -/
def decodeShi (w : Nat) : Except Reject Instr :=
  match fld w 6 2 with
  | 0 => zeroField (fld w 8 8) (.slli (at' w 21) (at' w 16) (at' w 0))
  | 1 => zeroField (fld w 8 8) (.srli (at' w 21) (at' w 16) (at' w 0))
  | 2 => zeroField (fld w 8 8) (.srai (at' w 21) (at' w 16) (at' w 0))
  | _ => .error .unassigned

/-- CSR functions (03 R57). -/
def decodeCsr (w : Nat) : Except Reject Instr :=
  match fld w 0 4 with
  | 0 => zeroField (fld w 16 5) (.csrr (at' w 21) (at' w 4))
  | 1 => .ok (.csrw (at' w 21) (at' w 16) (at' w 4))
  | 2 => .ok (.csrs (at' w 21) (at' w 16) (at' w 4))
  | 3 => .ok (.csrc (at' w 21) (at' w 16) (at' w 4))
  | _ => .error .unassigned

/-- The major opcode map (03 Table 03.2): the instruction that the fields of a word spell, before the ranges of its fields
are checked. -/
def decodeFields (w : Nat) : Except Reject Instr :=
  match fld w 26 6 with
  | 0x01 => decodeSalu w
  | 0x02 => .ok (.addi (at' w 21) (at' w 16) (at' w 0))
  | 0x03 => .ok (.andi (at' w 21) (at' w 16) (at' w 0))
  | 0x04 => .ok (.ori (at' w 21) (at' w 16) (at' w 0))
  | 0x05 => .ok (.xori (at' w 21) (at' w 16) (at' w 0))
  | 0x06 => .ok (.lhi (at' w 21) (at' w 16) (at' w 0))
  | 0x07 => .ok (.cmpi (at' w 21) (at' w 16) (at' w 13) (at' w 0))
  | 0x08 => decodeShi w
  | 0x0A => .ok (.ldI8 (at' w 21) (at' w 16) (at' w 0))
  | 0x0B => .ok (.ldN8 (at' w 21) (at' w 16) (at' w 0))
  | 0x0C => .ok (.ldI16 (at' w 21) (at' w 16) (at' w 0))
  | 0x0D => .ok (.ldN16 (at' w 21) (at' w 16) (at' w 0))
  | 0x0E => .ok (.ldI32 (at' w 21) (at' w 16) (at' w 0))
  | 0x0F => .ok (.ldN32 (at' w 21) (at' w 16) (at' w 0))
  | 0x10 => .ok (.ldI64 (at' w 21) (at' w 16) (at' w 0))
  | 0x11 => .ok (.st8 (at' w 21) (at' w 16) (at' w 0))
  | 0x12 => .ok (.st16 (at' w 21) (at' w 16) (at' w 0))
  | 0x13 => .ok (.st32 (at' w 21) (at' w 16) (at' w 0))
  | 0x14 => .ok (.st64 (at' w 21) (at' w 16) (at' w 0))
  | 0x15 => decodeAmo w
  | 0x16 => .ok (.beq (at' w 21) (at' w 16) (at' w 0))
  | 0x17 => .ok (.bne (at' w 21) (at' w 16) (at' w 0))
  | 0x18 => .ok (.blt (at' w 21) (at' w 16) (at' w 0))
  | 0x19 => .ok (.bge (at' w 21) (at' w 16) (at' w 0))
  | 0x1A => .ok (.bltn (at' w 21) (at' w 16) (at' w 0))
  | 0x1B => .ok (.bgen (at' w 21) (at' w 16) (at' w 0))
  | 0x1C => .ok (.jmp (at' w 0))
  | 0x1D => .ok (.jal (at' w 0))
  | 0x1E => .ok (.jalr (at' w 21) (at' w 16) (at' w 0))
  | 0x1F => .ok (.bstrip (at' w 21) (at' w 16) (at' w 0))
  | 0x20 => .ok (.bvany (at' w 21) (at' w 16) (at' w 0))
  | 0x21 => .ok (.bvnone (at' w 21) (at' w 16) (at' w 0))
  | 0x22 => decodeCsr w
  | 0x23 => decodeCtl w
  | 0x24 => decodeStrm w
  | 0x25 => zeroField (fld w 0 1) (.setvl (at' w 21) (at' w 16) (at' w 13) (at' w 8) (at' w 6) (at' w 4) (at' w 1))
  | 0x26 => .ok (.vldseg (at' w 21) (at' w 16) (at' w 11) (at' w 8) (at' w 5) (at' w 0))
  | 0x27 => .ok (.vstseg (at' w 21) (at' w 16) (at' w 11) (at' w 8) (at' w 5) (at' w 0))
  | 0x28 => decodeVint w
  | 0x29 => decodeVmov w
  | 0x2A => decodeVxf w
  | 0x2B => decodeVflt w
  | 0x2C => zeroField (fld w 0 5) (.vcvt (at' w 21) (at' w 16) (at' w 11) (at' w 8) (at' w 5))
  | 0x2D => decodeVred w
  | 0x2E => decodeVeng w
  | 0x30 => decodeMtx w
  | 0x31 => decodeXch w
  | 0x32 => decodeLens w
  | 0x33 => decodeCopy w
  | 0x34 => .ok (.vredAdd (at' w 21) (at' w 16) (at' w 11) (at' w 8) (at' w 5) (at' w 0))
  | 0x35 => .ok (.vredMin (at' w 21) (at' w 16) (at' w 11) (at' w 8) (at' w 5) (at' w 0))
  | 0x36 => .ok (.vredMax (at' w 21) (at' w 16) (at' w 11) (at' w 8) (at' w 5) (at' w 0))
  | 0x37 => decodeVmisc w
  | 0x38 => .ok (.vld (at' w 21) (at' w 16) (at' w 11) (at' w 8) (at' w 5) (at' w 0))
  | 0x39 => .ok (.vst (at' w 21) (at' w 16) (at' w 11) (at' w 8) (at' w 5) (at' w 0))
  | 0x3A => .ok (.vlds (at' w 21) (at' w 16) (at' w 11) (at' w 8) (at' w 5) (at' w 0))
  | 0x3B => .ok (.vsts (at' w 21) (at' w 16) (at' w 11) (at' w 8) (at' w 5) (at' w 0))
  | 0x3C => .ok (.vldx (at' w 21) (at' w 16) (at' w 11) (at' w 8) (at' w 5) (at' w 0))
  | 0x3D => .ok (.vstx (at' w 21) (at' w 16) (at' w 11) (at' w 8) (at' w 5) (at' w 0))
  | 0x3E => .ok (.vldw (at' w 21) (at' w 16) (at' w 11) (at' w 8) (at' w 5) (at' w 0))
  | _ => .error .reservedMajor

/-- The instruction of a 32-bit word, or the reason there is none. -/
def decodeWord (w : Nat) : Except Reject Instr :=
  match decodeFields w with
  | .ok i => if i.wellFormed then .ok i else .error .fieldOutOfRange
  | .error r => .error r

/-- A word's number from its bytes, the lowest address first (00 R2, 03 R45). -/
def wordOfBytes (b0 b1 b2 b3 : BitVec 8) : Nat :=
  b0.toNat + b1.toNat * 2 ^ 8 + b2.toNat * 2 ^ 16 + b3.toNat * 2 ^ 24

/-- Decoding of any bytes: the instruction of the first four and the bytes that follow. -/
def decode (bs : List (BitVec 8)) : Except Reject (Instr × List (BitVec 8)) :=
  match bs with
  | b0 :: b1 :: b2 :: b3 :: rest => (decodeWord (wordOfBytes b0 b1 b2 b3)).map (fun i => (i, rest))
  | _ => .error .truncated

/-- The four bytes of a word as they lie in memory. -/
def bytesOfWord (w : Nat) : List (BitVec 8) := [at' w 0, at' w 8, at' w 16, at' w 24]

/-- A field placed at bit lo of a word. -/
def put {n : Nat} (x : BitVec n) (lo w : Nat) : Nat := w + x.toNat * 2 ^ lo

/-- The word of an instruction, from the same tables (03 R45 to R59); none for a step that has no word. -/
def encode (i : Instr) : Option Nat :=
  match i with
  | .add d a b => some (put d 21 (put a 16 (put b 11 0x04000000)))
  | .sub d a b => some (put d 21 (put a 16 (put b 11 0x04000001)))
  | .mul d a b => some (put d 21 (put a 16 (put b 11 0x04000002)))
  | .mulh d a b => some (put d 21 (put a 16 (put b 11 0x04000003)))
  | .mulhn d a b => some (put d 21 (put a 16 (put b 11 0x04000004)))
  | .div d a b => some (put d 21 (put a 16 (put b 11 0x04000005)))
  | .divn d a b => some (put d 21 (put a 16 (put b 11 0x04000006)))
  | .rem d a b => some (put d 21 (put a 16 (put b 11 0x04000007)))
  | .remn d a b => some (put d 21 (put a 16 (put b 11 0x04000008)))
  | .and d a b => some (put d 21 (put a 16 (put b 11 0x04000009)))
  | .or d a b => some (put d 21 (put a 16 (put b 11 0x0400000A)))
  | .xor d a b => some (put d 21 (put a 16 (put b 11 0x0400000B)))
  | .sll d a b => some (put d 21 (put a 16 (put b 11 0x0400000C)))
  | .srl d a b => some (put d 21 (put a 16 (put b 11 0x0400000D)))
  | .sra d a b => some (put d 21 (put a 16 (put b 11 0x0400000E)))
  | .min d a b => some (put d 21 (put a 16 (put b 11 0x0400000F)))
  | .max d a b => some (put d 21 (put a 16 (put b 11 0x04000010)))
  | .minn d a b => some (put d 21 (put a 16 (put b 11 0x04000011)))
  | .maxn d a b => some (put d 21 (put a 16 (put b 11 0x04000012)))
  | .clz d a => some (put d 21 (put a 16 0x04000013))
  | .ctz d a => some (put d 21 (put a 16 0x04000014))
  | .popc d a => some (put d 21 (put a 16 0x04000015))
  | .cmp d a b c => some (put d 21 (put a 16 (put b 11 (put c 5 0x04000016))))
  | .csel d a b c => some (put d 21 (put a 16 (put b 11 (put c 6 0x04000017))))
  | .lea d a b s => some (put d 21 (put a 16 (put b 11 (put s 5 0x04000018))))
  | .addi d a i => some (put d 21 (put a 16 (put i 0 0x08000000)))
  | .andi d a i => some (put d 21 (put a 16 (put i 0 0x0C000000)))
  | .ori d a i => some (put d 21 (put a 16 (put i 0 0x10000000)))
  | .xori d a i => some (put d 21 (put a 16 (put i 0 0x14000000)))
  | .lhi d a i => some (put d 21 (put a 16 (put i 0 0x18000000)))
  | .cmpi d a c i => some (put d 21 (put a 16 (put c 13 (put i 0 0x1C000000))))
  | .slli d a s => some (put d 21 (put a 16 (put s 0 0x20000000)))
  | .srli d a s => some (put d 21 (put a 16 (put s 0 0x20000040)))
  | .srai d a s => some (put d 21 (put a 16 (put s 0 0x20000080)))
  | .ldI8 d a i => some (put d 21 (put a 16 (put i 0 0x28000000)))
  | .ldN8 d a i => some (put d 21 (put a 16 (put i 0 0x2C000000)))
  | .ldI16 d a i => some (put d 21 (put a 16 (put i 0 0x30000000)))
  | .ldN16 d a i => some (put d 21 (put a 16 (put i 0 0x34000000)))
  | .ldI32 d a i => some (put d 21 (put a 16 (put i 0 0x38000000)))
  | .ldN32 d a i => some (put d 21 (put a 16 (put i 0 0x3C000000)))
  | .ldI64 d a i => some (put d 21 (put a 16 (put i 0 0x40000000)))
  | .st8 d a i => some (put d 21 (put a 16 (put i 0 0x44000000)))
  | .st16 d a i => some (put d 21 (put a 16 (put i 0 0x48000000)))
  | .st32 d a i => some (put d 21 (put a 16 (put i 0 0x4C000000)))
  | .st64 d a i => some (put d 21 (put a 16 (put i 0 0x50000000)))
  | .amo d a b s o w p => some (put d 21 (put a 16 (put b 11 (put s 7 (put o 5 (put w 4 (put p 0 0x54000000)))))))
  | .cas d a b s o w => some (put d 21 (put a 16 (put b 11 (put s 7 (put o 5 (put w 4 0x54000009))))))
  | .red a b s o w p => some (put a 16 (put b 11 (put s 7 (put o 5 (put w 4 (put p 0 0x54000400))))))
  | .beq a b o => some (put a 21 (put b 16 (put o 0 0x58000000)))
  | .bne a b o => some (put a 21 (put b 16 (put o 0 0x5C000000)))
  | .blt a b o => some (put a 21 (put b 16 (put o 0 0x60000000)))
  | .bge a b o => some (put a 21 (put b 16 (put o 0 0x64000000)))
  | .bltn a b o => some (put a 21 (put b 16 (put o 0 0x68000000)))
  | .bgen a b o => some (put a 21 (put b 16 (put o 0 0x6C000000)))
  | .jmp o => some (put o 0 0x70000000)
  | .jal o => some (put o 0 0x74000000)
  | .jalr d a i => some (put d 21 (put a 16 (put i 0 0x78000000)))
  | .bstrip a b o => some (put a 21 (put b 16 (put o 0 0x7C000000)))
  | .bvany m s o => some (put m 21 (put s 16 (put o 0 0x80000000)))
  | .bvnone m s o => some (put m 21 (put s 16 (put o 0 0x84000000)))
  | .csrr d c => some (put d 21 (put c 4 0x88000000))
  | .csrw d a c => some (put d 21 (put a 16 (put c 4 0x88000001)))
  | .csrs d a c => some (put d 21 (put a 16 (put c 4 0x88000002)))
  | .csrc d a c => some (put d 21 (put a 16 (put c 4 0x88000003)))
  | .endIter => some (0x8C000000)
  | .trap n => some (put n 5 0x8C000001)
  | .eret => some (0x8C000002)
  | .fence k s => some (put k 8 (put s 5 0x8C000003))
  | .lsync => some (0x8C000004)
  | .waitm d a b => some (put d 21 (put a 16 (put b 11 0x8C000005)))
  | .yield => some (0x8C000006)
  | .lpreq d a => some (put d 21 (put a 16 0x8C000007))
  | .forkl d a => some (put d 21 (put a 16 0x8C000008))
  | .joinl a => some (put a 16 0x8C000009)
  | .vrel => some (0x8C00000A)
  | .ctxsave a => some (put a 16 0x8C00000B)
  | .ctxrest a => some (put a 16 0x8C00000C)
  | .tlbinvPage a b => some (put a 16 (put b 11 0x8C00000D))
  | .tlbinvCtx b => some (put b 11 0x8C00002D)
  | .tlbinvAll => some (0x8C00004D)
  | .nest d a => some (put d 21 (put a 16 0x8C00000E))
  | .nwithdraw a => some (put a 16 0x8C00000F)
  | .nstat d a => some (put d 21 (put a 16 0x8C000010))
  | .sbind d a => some (put d 21 (put a 16 0x90000000))
  | .sfree d => some (put d 21 0x90000001)
  | .sstat d b => some (put d 21 (put b 11 0x90000002))
  | .setvl d a h f k o r => some (put d 21 (put a 16 (put h 13 (put f 8 (put k 6 (put o 4 (put r 1 0x94000000)))))))
  | .vldseg d a b s m f => some (put d 21 (put a 16 (put b 11 (put s 8 (put m 5 (put f 0 0x98000000))))))
  | .vstseg d a b s m f => some (put d 21 (put a 16 (put b 11 (put s 8 (put m 5 (put f 0 0x9C000000))))))
  | .vadd d a b s m => some (put d 21 (put a 16 (put b 11 (put s 8 (put m 5 0xA0000000)))))
  | .vsub d a b s m => some (put d 21 (put a 16 (put b 11 (put s 8 (put m 5 0xA0000001)))))
  | .vmul d a b s m => some (put d 21 (put a 16 (put b 11 (put s 8 (put m 5 0xA0000002)))))
  | .vmulh d a b s m => some (put d 21 (put a 16 (put b 11 (put s 8 (put m 5 0xA0000003)))))
  | .vmacc d a b s m => some (put d 21 (put a 16 (put b 11 (put s 8 (put m 5 0xA0000004)))))
  | .vsadd d a b s m => some (put d 21 (put a 16 (put b 11 (put s 8 (put m 5 0xA0000005)))))
  | .vssub d a b s m => some (put d 21 (put a 16 (put b 11 (put s 8 (put m 5 0xA0000006)))))
  | .vmin d a b s m => some (put d 21 (put a 16 (put b 11 (put s 8 (put m 5 0xA0000007)))))
  | .vmax d a b s m => some (put d 21 (put a 16 (put b 11 (put s 8 (put m 5 0xA0000008)))))
  | .vand d a b s m => some (put d 21 (put a 16 (put b 11 (put s 8 (put m 5 0xA0000009)))))
  | .vor d a b s m => some (put d 21 (put a 16 (put b 11 (put s 8 (put m 5 0xA000000A)))))
  | .vxor d a b s m => some (put d 21 (put a 16 (put b 11 (put s 8 (put m 5 0xA000000B)))))
  | .vsll d a b s m => some (put d 21 (put a 16 (put b 11 (put s 8 (put m 5 0xA000000C)))))
  | .vsrl d a b s m => some (put d 21 (put a 16 (put b 11 (put s 8 (put m 5 0xA000000D)))))
  | .vsra d a b s m => some (put d 21 (put a 16 (put b 11 (put s 8 (put m 5 0xA000000E)))))
  | .vmerge d a b s m => some (put d 21 (put a 16 (put b 11 (put s 8 (put m 5 0xA000000F)))))
  | .vcmpEq d a b s m => some (put d 21 (put a 16 (put b 11 (put s 8 (put m 5 0xA0000010)))))
  | .vcmpNe d a b s m => some (put d 21 (put a 16 (put b 11 (put s 8 (put m 5 0xA0000011)))))
  | .vcmpLt d a b s m => some (put d 21 (put a 16 (put b 11 (put s 8 (put m 5 0xA0000012)))))
  | .vcmpLe d a b s m => some (put d 21 (put a 16 (put b 11 (put s 8 (put m 5 0xA0000013)))))
  | .vcmpGt d a b s m => some (put d 21 (put a 16 (put b 11 (put s 8 (put m 5 0xA0000014)))))
  | .vcmpGe d a b s m => some (put d 21 (put a 16 (put b 11 (put s 8 (put m 5 0xA0000015)))))
  | .vnshrTz d a b s m => some (put d 21 (put a 16 (put b 11 (put s 8 (put m 5 0xA0000016)))))
  | .vnshrHu d a b s m => some (put d 21 (put a 16 (put b 11 (put s 8 (put m 5 0xA0000017)))))
  | .vnshrHe d a b s m => some (put d 21 (put a 16 (put b 11 (put s 8 (put m 5 0xA0000018)))))
  | .vnshrOd d a b s m => some (put d 21 (put a 16 (put b 11 (put s 8 (put m 5 0xA0000019)))))
  | .vmv d a s m => some (put d 21 (put a 16 (put s 8 (put m 5 0xA000001A))))
  | .vsplat d a s m => some (put d 21 (put a 16 (put s 8 (put m 5 0xA000001B))))
  | .vid d s m => some (put d 21 (put s 8 (put m 5 0xA000001C)))
  | .viota d a s m => some (put d 21 (put a 16 (put s 8 (put m 5 0xA000001D))))
  | .mand d a b s => some (put d 21 (put a 16 (put b 11 (put s 8 0xA4000000))))
  | .mor d a b s => some (put d 21 (put a 16 (put b 11 (put s 8 0xA4000001))))
  | .mxor d a b s => some (put d 21 (put a 16 (put b 11 (put s 8 0xA4000002))))
  | .mandn d a b s => some (put d 21 (put a 16 (put b 11 (put s 8 0xA4000003))))
  | .mpop d a s m => some (put d 21 (put a 16 (put s 8 (put m 5 0xA4000004))))
  | .mfirst d a s m => some (put d 21 (put a 16 (put s 8 (put m 5 0xA4000005))))
  | .vmovs d a b s => some (put d 21 (put a 16 (put b 11 (put s 8 0xA4000006))))
  | .vins d a b s => some (put d 21 (put a 16 (put b 11 (put s 8 0xA4000007))))
  | .vperm d a b s m => some (put d 21 (put a 16 (put b 11 (put s 8 (put m 5 0xA8000000)))))
  | .vslideUp d a b s m => some (put d 21 (put a 16 (put b 11 (put s 8 (put m 5 0xA8000001)))))
  | .vslideDn d a b s m => some (put d 21 (put a 16 (put b 11 (put s 8 (put m 5 0xA8000002)))))
  | .vreshape d a k s m => some (put d 21 (put a 16 (put k 11 (put s 8 (put m 5 0xA8000003)))))
  | .vbcast d a b s m => some (put d 21 (put a 16 (put b 11 (put s 8 (put m 5 0xA8000004)))))
  | .vunpack d a s m => some (put d 21 (put a 16 (put s 8 (put m 5 0xA8000005))))
  | .vlut d a b s m => some (put d 21 (put a 16 (put b 11 (put s 8 (put m 5 0xA8000006)))))
  | .vexpand d a s m => some (put d 21 (put a 16 (put s 8 (put m 5 0xA8000007))))
  | .vcompress d a s m => some (put d 21 (put a 16 (put s 8 (put m 5 0xA8000008))))
  | .vfadd d a b s m => some (put d 21 (put a 16 (put b 11 (put s 8 (put m 5 0xAC000000)))))
  | .vfsub d a b s m => some (put d 21 (put a 16 (put b 11 (put s 8 (put m 5 0xAC000001)))))
  | .vfmul d a b s m => some (put d 21 (put a 16 (put b 11 (put s 8 (put m 5 0xAC000002)))))
  | .vfma d a b s m => some (put d 21 (put a 16 (put b 11 (put s 8 (put m 5 0xAC000003)))))
  | .vfms d a b s m => some (put d 21 (put a 16 (put b 11 (put s 8 (put m 5 0xAC000004)))))
  | .vfnma d a b s m => some (put d 21 (put a 16 (put b 11 (put s 8 (put m 5 0xAC000005)))))
  | .vfdiv d a b s m => some (put d 21 (put a 16 (put b 11 (put s 8 (put m 5 0xAC000006)))))
  | .vfsqrt d a s m => some (put d 21 (put a 16 (put s 8 (put m 5 0xAC000007))))
  | .vfmin d a b s m => some (put d 21 (put a 16 (put b 11 (put s 8 (put m 5 0xAC000008)))))
  | .vfmax d a b s m => some (put d 21 (put a 16 (put b 11 (put s 8 (put m 5 0xAC000009)))))
  | .vfcmpEq d a b s m => some (put d 21 (put a 16 (put b 11 (put s 8 (put m 5 0xAC00000A)))))
  | .vfcmpNe d a b s m => some (put d 21 (put a 16 (put b 11 (put s 8 (put m 5 0xAC00000B)))))
  | .vfcmpLt d a b s m => some (put d 21 (put a 16 (put b 11 (put s 8 (put m 5 0xAC00000C)))))
  | .vfcmpLe d a b s m => some (put d 21 (put a 16 (put b 11 (put s 8 (put m 5 0xAC00000D)))))
  | .vfcmpGt d a b s m => some (put d 21 (put a 16 (put b 11 (put s 8 (put m 5 0xAC00000E)))))
  | .vfcmpGe d a b s m => some (put d 21 (put a 16 (put b 11 (put s 8 (put m 5 0xAC00000F)))))
  | .vfcmpUn d a b s m => some (put d 21 (put a 16 (put b 11 (put s 8 (put m 5 0xAC000010)))))
  | .vfsgnJ d a b s m => some (put d 21 (put a 16 (put b 11 (put s 8 (put m 5 0xAC000011)))))
  | .vfsgnJn d a b s m => some (put d 21 (put a 16 (put b 11 (put s 8 (put m 5 0xAC000012)))))
  | .vfsgnJx d a b s m => some (put d 21 (put a 16 (put b 11 (put s 8 (put m 5 0xAC000013)))))
  | .vfclass d a s m => some (put d 21 (put a 16 (put s 8 (put m 5 0xAC000014))))
  | .vfrcp d a s m => some (put d 21 (put a 16 (put s 8 (put m 5 0xAC000015))))
  | .vfrsq d a s m => some (put d 21 (put a 16 (put s 8 (put m 5 0xAC000016))))
  | .vfexp2 d a s m => some (put d 21 (put a 16 (put s 8 (put m 5 0xAC000017))))
  | .vflog2 d a s m => some (put d 21 (put a 16 (put s 8 (put m 5 0xAC000018))))
  | .vsettle d a s m => some (put d 21 (put a 16 (put s 8 (put m 5 0xAC000019))))
  | .vtail d a s m => some (put d 21 (put a 16 (put s 8 (put m 5 0xAC00001A))))
  | .vcvt d a t s m => some (put d 21 (put a 16 (put t 11 (put s 8 (put m 5 0xB0000000)))))
  | .vredsumOrd d a b s m => some (put d 21 (put a 16 (put b 11 (put s 8 (put m 5 0xB4000000)))))
  | .vredsumTree d a s m => some (put d 21 (put a 16 (put s 8 (put m 5 0xB4000001))))
  | .vredmax d a s m => some (put d 21 (put a 16 (put s 8 (put m 5 0xB4000002))))
  | .vredmin d a s m => some (put d 21 (put a 16 (put s 8 (put m 5 0xB4000003))))
  | .vargmax d a s m => some (put d 21 (put a 16 (put s 8 (put m 5 0xB4000004))))
  | .vscanAdd d a s m => some (put d 21 (put a 16 (put s 8 (put m 5 0xB4000005))))
  | .vscanMax d a s m => some (put d 21 (put a 16 (put s 8 (put m 5 0xB4000006))))
  | .vtopk d a k s m => some (put d 21 (put a 16 (put k 11 (put s 8 (put m 5 0xB4000007)))))
  | .rgen d a b s m => some (put d 21 (put a 16 (put b 11 (put s 8 (put m 5 0xB8000000)))))
  | .rgenTop d a b s m => some (put d 21 (put a 16 (put b 11 (put s 8 (put m 5 0xB8000001)))))
  | .rmerge d a b s => some (put d 21 (put a 16 (put b 11 (put s 8 0xB8000002))))
  | .xsend d a b s m => some (put d 21 (put a 16 (put b 11 (put s 8 (put m 5 0xB8000003)))))
  | .mext d a t s m => some (put d 21 (put a 16 (put t 11 (put s 8 (put m 5 0xB8000004)))))
  | .mplane d a s m => some (put d 21 (put a 16 (put s 8 (put m 5 0xB8000005))))
  | .settile d a s => some (put d 21 (put a 16 (put s 6 0xC0000000)))
  | .mzero d t => some (put d 21 (put t 5 0xC0000001))
  | .mmac d a b s t => some (put d 21 (put a 16 (put b 11 (put s 6 (put t 5 0xC0000002)))))
  | .mmaci d a b s t => some (put d 21 (put a 16 (put b 11 (put s 6 (put t 5 0xC0000003)))))
  | .mspill d a t => some (put d 21 (put a 16 (put t 5 0xC0000004)))
  | .mfill d a t => some (put d 21 (put a 16 (put t 5 0xC0000005)))
  | .xopen d a => some (put d 21 (put a 16 0xC4000000))
  | .xsplit d a b => some (put d 21 (put a 16 (put b 11 0xC4000001)))
  | .xpost d a b => some (put d 21 (put a 16 (put b 11 0xC4000002)))
  | .xend d a => some (put d 21 (put a 16 0xC4000003))
  | .xstep d a => some (put d 21 (put a 16 0xC4000004))
  | .xfence a => some (put a 16 0xC4000005)
  | .xstat d a i => some (put d 21 (put a 16 (put i 5 0xC4000006)))
  | .xsample d a => some (put d 21 (put a 16 0xC4000007))
  | .xsampleHost d a b => some (put d 21 (put a 16 (put b 11 0xC4000027)))
  | .xclose d a => some (put d 21 (put a 16 0xC4000008))
  | .qopen d a => some (put d 21 (put a 16 0xC8000000))
  | .qmap d a b => some (put d 21 (put a 16 (put b 11 0xC8000001)))
  | .qinit d a b => some (put d 21 (put a 16 (put b 11 0xC8000002)))
  | .qgate d a b => some (put d 21 (put a 16 (put b 11 0xC8000003)))
  | .qdiag d a b => some (put d 21 (put a 16 (put b 11 0xC8000004)))
  | .qswap d a b => some (put d 21 (put a 16 (put b 11 0xC8000005)))
  | .qprob d a b => some (put d 21 (put a 16 (put b 11 0xC8000006)))
  | .qproj d a b => some (put d 21 (put a 16 (put b 11 0xC8000007)))
  | .qread d a b => some (put d 21 (put a 16 (put b 11 0xC8000008)))
  | .dcopy d a => some (put d 21 (put a 16 0xCC000000))
  | .dfill d a => some (put d 21 (put a 16 0xCC000001))
  | .tread d x => some (put d 21 (put x 5 0xCC000002))
  | .twait a x => some (put a 16 (put x 5 0xCC000003))
  | .vredAdd d a b s m f => some (put d 21 (put a 16 (put b 11 (put s 8 (put m 5 (put f 0 0xD0000000))))))
  | .vredMin d a b s m f => some (put d 21 (put a 16 (put b 11 (put s 8 (put m 5 (put f 0 0xD4000000))))))
  | .vredMax d a b s m f => some (put d 21 (put a 16 (put b 11 (put s 8 (put m 5 (put f 0 0xD8000000))))))
  | .vspill d a s => some (put d 21 (put a 16 (put s 8 0xDC000000)))
  | .vfill d a s => some (put d 21 (put a 16 (put s 8 0xDC000001)))
  | .vld d a b s m f => some (put d 21 (put a 16 (put b 11 (put s 8 (put m 5 (put f 0 0xE0000000))))))
  | .vst d a b s m f => some (put d 21 (put a 16 (put b 11 (put s 8 (put m 5 (put f 0 0xE4000000))))))
  | .vlds d a b s m f => some (put d 21 (put a 16 (put b 11 (put s 8 (put m 5 (put f 0 0xE8000000))))))
  | .vsts d a b s m f => some (put d 21 (put a 16 (put b 11 (put s 8 (put m 5 (put f 0 0xEC000000))))))
  | .vldx d a b s m f => some (put d 21 (put a 16 (put b 11 (put s 8 (put m 5 (put f 0 0xF0000000))))))
  | .vstx d a b s m f => some (put d 21 (put a 16 (put b 11 (put s 8 (put m 5 (put f 0 0xF4000000))))))
  | .vldw d a b s m f => some (put d 21 (put a 16 (put b 11 (put s 8 (put m 5 (put f 0 0xF8000000))))))
  | _ => none

/-- The instruction that the decoder reads from a word of the opcode table, its bytes laid out as the device stores them. -/
def decodeTableWord (nbits w : Nat) : Option Instr :=
  match decode (bytesOfWord (w % 2 ^ nbits)) with
  | .ok (i, _) => some i
  | .error _ => none

/-- The word that TVAL reports for an instruction (03 R51). -/
def instrWord (i : Instr) : BitVec 64 := BitVec.ofNat 64 ((encode i).getD 0)

end Sys2Proof
end

