-- ==== Sys2Proof/Event.lean ====
section
/-! DEFINITION. The steps of the other agents as data: the 70 event rows of spec/opcode_table.json once more, each with the arguments of its
constructor of Instr. The agenda and the choice of the next move hold these, because compiled code can build no constructor past the
245th of one type; Machine/Events.lean gives each the meaning that exec gives its constructor of Instr. -/

namespace Sys2Proof

/-- The step of another agent. -/
inductive Event where
  /-- CPYERR_CLEAR (R123): A write of 0 to CPYERR.V resumes the stopped copy context at BYTE. -/
  | cpyerrClear (h : Nat)
  /-- WAITM_RECHECK (R296): A write to the chunk, or the 4,096-cycle maximum, makes a waiting waitm read the word again. -/
  | waitmRecheck (h : Nat)
  /-- YIELD_RELEASE (R297): The yielding hart becomes ready again once both of its conditions hold. -/
  | yieldRelease (h : Nat)
  /-- VIQ_ISSUE (R142): A vector instruction issues from the VIQ, in sequence order, when its operands and chain slot allow. -/
  | viqIssue (h : Nat)
  /-- VECTOR_BEAT (R141): One beat of an issued vector instruction processes its containers across the owned slices. -/
  | vectorBeat (h : Nat) (n : Nat)
  /-- LOAD_DATA_ARRIVAL (R98): Data of a load beat arrives and is converted into the destination elements. -/
  | loadDataArrival (h : Nat) (n : Nat)
  /-- VECTOR_COMPLETE (R142): The last beat completes, results of reductions and sorts commit, and the VIQ entry is freed. -/
  | vectorComplete (h : Nat)
  /-- SYNC_READ_RETURN (R143): A synchronising read's result returns through the queue, and the front end writes it or takes the branch. -/
  | syncReadReturn (h : Nat)
  /-- STREAM_FETCH (R113): An in-stream fetches ahead into its buffer. -/
  | streamFetch (h : Nat) (v : Nat)
  /-- STREAM_DRAIN (R113): An out-stream writes pushed elements from its buffer to memory. -/
  | streamDrain (h : Nat) (v : Nat)
  /-- TAKE_TRAP (R322): Once older VIQ entries are done, the hart records the cause, holds the VIQ image for vector traps and enters the handler. -/
  | takeTrap (h : Nat)
  /-- COPY_TRANSFER (R121): The cluster copy engine moves one line transfer of a command's bytes. -/
  | copyTransfer (h : Nat)
  /-- COPY_COMPLETE (R117): A copy command completes and advances the completion counter. -/
  | copyComplete (h : Nat)
  /-- MATRIX_KSTEP (R210): The cell array runs one K-step and its addition for one hart's command. -/
  | matrixKstep (h : Nat)
  /-- MATRIX_ROW_OP (R209): mzero, mspill or mfill moves one row through the tile's row path. -/
  | matrixRowOp (h : Nat)
  /-- MATRIX_COMPLETE (R199): A matrix command completes and advances the completion counter. -/
  | matrixComplete (h : Nat)
  /-- MMACI_RECORD_POLL (R202): An mmaci at the head of the matrix context reads its record again, within 1,024 cycles, until V = 1. -/
  | mmaciRecordPoll (h : Nat)
  /-- ACC_COLUMN_MOVE (R208): After a repartition, one 16-column group moves to its new slice every 256 cycles. -/
  | accColumnMove (h : Nat)
  /-- LENS_COMMAND_START (R248): A Lens command starts once every member has issued it; members compare records and mismatches fail the state. -/
  | lensCommandStart (slot : Nat)
  /-- LENS_SWAP_SUPERSTEP (R253): Members exchange amplitudes in one superstep under the Beacon. -/
  | lensSwapSuperstep (slot : Nat)
  /-- LENS_COMMAND_COMPLETE (R248): A Lens command's writes complete and its counter advances. -/
  | lensCommandComplete (h : Nat)
  /-- XOPEN_RENDEZVOUS (R216): The gathering reaches NMEM arrivals, checks its members and returns handles or errors. -/
  | xopenRendezvous (tag : BitVec 32)
  /-- QOPEN_RENDEZVOUS (R244): A Lens gathering forms and returns handles or errors. -/
  | qopenRendezvous (tag : BitVec 32)
  /-- MERGE_PASS (R230): A merge point passes its lowest-keyed record, combining equal keys, once every input holds a record or tail. -/
  | mergePass (slot : Nat) (recv : Nat)
  /-- TAIL_LAND (R221): A train's tail lands at its receiver. -/
  | tailLand (slot : Nat) (sender : Nat) (recv : Nat)
  /-- BEACON_RELEASE (R220): The Beacon releases a step, installs pending splitters, activates posted buffers and lets waiting xstep return. -/
  | beaconRelease (slot : Nat)
  /-- BUOY_PROBE (R241): A queue blocked for 2,048 cycles sends a probe token. -/
  | buoyProbe (q : QueueId) (waitsFor : QueueId)
  /-- BUOY_TOKEN_ARRIVE (R241): A queue discards or forwards an arriving token; on the token's return the origin moves one entry into the reserve. -/
  | buoyTokenArrive (q : QueueId) (token : BitVec 64) (waitsFor : Option QueueId)
  /-- LINK_FLIT_RECEIVE (R347): A receiver checks a flit's CRC and sequence, accepts it or NAKs, and performs its completed records. -/
  | linkFlitReceive (port : Nat) (f : Flit)
  /-- LINK_ACK (R347): The receiver acknowledges after 16 flits or 100 ns. -/
  | linkAck (port : Nat)
  /-- LINK_NAK_REPLAY (R347): A NAK makes the transmitter resend from the next sequence. -/
  | linkNakReplay (port : Nat)
  /-- LINK_LANE_LOSS (R348): A lane loss or repeated replays retrain the port degraded or take it down. -/
  | linkLaneLoss (port : Nat) (loss : LaneLoss)
  /-- LINK_RETRAIN_DONE (R348): A retraining ends and replay resumes from the last acknowledged flit. -/
  | linkRetrainDone (port : Nat) (ok : Bool)
  /-- LINK_RECOVERY_TIMER (R348): After 10 s degraded or down with LNK = 0, the port attempts to retrain. -/
  | linkRecoveryTimer (port : Nat)
  /-- LLC_WRITE_BACK (R78): The LLC writes a line back to HBM, compressed or expanded according to its hot bit. -/
  | llcWriteBack (stack : Nat) (line : Nat)
  /-- PATROL_SCRUB (R65): The controller reads and corrects each chunk once in 8 hours, logging uncorrectable ones. -/
  | patrolScrub (w : CheckedWord) (r : ScrubResult)
  /-- WALKER_HANDOUT (R307): A walker starts its next unit on the first free core of its placement. -/
  | walkerHandout (w : Nat)
  /-- WAIT_WORD_POLL (R305): The walker reads a wait word, within 1,024 cycles, until it is satisfied. -/
  | waitWordPoll (w : Nat) (k : Nat)
  /-- AGEING_TICK (R309): After AGE ns without hand-out, a nest's effective priority rises by 1. -/
  | ageingTick (nest : Nat)
  /-- LPWAIT_EXPIRY (R287): A wanted slice's owner that passes LPWAIT cycles without a boundary is forced out and saved. -/
  | lpwaitExpiry (core : Nat) (slice : Nat)
  /-- HALT_REQUEST (R326): A halt request reaches the core, and the affected harts stop at their halt points. -/
  | haltRequest (h : Nat) (r : HaltReason)
  /-- CONTEXT_SAVE (R329): A halted context's lines, tiles, streams and image are written to its slot. -/
  | contextSave (h : Nat)
  /-- OWED_WRITE_LAND (R331): A memory beat's data that arrives after a halt lands in its line or backing area. -/
  | owedWriteLand (k : Nat) (dataLost : Bool)
  /-- CONTEXT_RESUME (R330): A saved context is written back into a hart, reattaches its engines and continues. -/
  | contextResume (w : Nat)
  /-- CORE_REBIND (R311): The scheduler saves the core's harts, saves the scratchpad image and rebinds the pool triple. -/
  | coreRebind (core : Nat) (nest : Nat)
  /-- DEADLINE_EXPIRY (R312): SPANTIME reaching DLINE expires the waiting iteration and drains the walk. -/
  | deadlineExpiry (nest : Nat)
  /-- NEST_STATUS_WRITE (R315): When every iteration is accounted, the status word is written and the nest id freed. -/
  | nestStatusWrite (nest : Nat)
  /-- HOST_BAR_ACCESS (R342): A host read or write through BAR0 or BAR2 is performed, or completed with Unsupported Request. -/
  | hostBarAccess (fn : Fn) (req : BarReq)
  /-- HOST_ATOMICOP (R341): A host AtomicOp at BAR2 is performed at the home LLC. -/
  | hostAtomicop (fn : Fn) (req : HostAtomic)
  /-- ATS_INVALIDATE (R341): A host invalidation request removes entries from the translation cache. -/
  | atsInvalidate (range : HostRange) (right : Option Bool)
  /-- HOSTMODE_WRITE (R345): A write to HOSTMODE sets the mode of each duty for later events. -/
  | hostmodeWrite (v : BitVec 64)
  /-- EVENT_POST (R344): The device writes an event record, advances PROD and raises MSI-X vector 0. -/
  | eventPost (fn : Fn)
  /-- KEEPER_REQUEST_SERVE (R346): With DISP = 1, the Keeper serves a request slot, at most once per 2 µs. -/
  | keeperRequestServe (fn : Fn)
  /-- MAILBOX_SENSORS (R351): Command 1 writes the sensor words into the data area. -/
  | mailboxSensors (p : MailPort)
  /-- MAILBOX_LOG_COPY (R351): Command 2 copies the event log to the host. -/
  | mailboxLogCopy (p : MailPort)
  /-- MAILBOX_ATTEST (R356): Command 3 produces a signed attestation report. -/
  | mailboxAttest (p : MailPort)
  /-- MAILBOX_IMAGE_FETCH (R352): Command 4 fetches and verifies a Keeper image into the inactive slot. -/
  | mailboxImageFetch (p : MailPort) (v : ImageCheck)
  /-- MAILBOX_FENCE_CLEAR (R359): Command 5 clears the fence counts of the named stacks. -/
  | mailboxFenceClear (p : MailPort)
  /-- MAILBOX_ACTIVATE (R352): Command 6 activates the verified inactive slot at the next reset. -/
  | mailboxActivate (p : MailPort)
  /-- MAILBOX_POWER_LIMIT (R357): Command 7 sets the issue-withholding power limit. -/
  | mailboxPowerLimit (p : MailPort)
  /-- MAILBOX_RETRAIN (R348): Command 8 retrains the named ports. -/
  | mailboxRetrain (p : MailPort)
  /-- MAILBOX_REPORT_READ (R351): Command 9 copies 3,840 bytes of the latest report into the data area. -/
  | mailboxReportRead (p : MailPort)
  /-- I3C_PRIVATE_WRITE (R354): An out-of-band private write sets the offset and writes bytes of the mailbox page. -/
  | i3cPrivateWrite (addr : BitVec 7) (data : List (BitVec 8))
  /-- I3C_PRIVATE_READ (R354): An out-of-band private read returns bytes from the current offset. -/
  | i3cPrivateRead (addr : BitVec 7) (n : Nat)
  /-- I3C_ADDRESS_ASSIGN (R354): SETDASA or ENTDAA assigns the port a dynamic address. -/
  | i3cAddressAssign (addr : BitVec 7)
  /-- SENSOR_POLL (R350): Every 1 ms the Keeper reads its 128 sensor points and acts on temperature limits. -/
  | sensorPoll (readings : List Sensor)
  /-- POWER_ADJUST (R357): Every 1 ms the Keeper adjusts issue withholding to the power limit. -/
  | powerAdjust (watts : Nat)
  /-- DEVICE_RESET (R358): Reset sets the reset state and runs the boot steps in order. -/
  | deviceReset (passes : List BootPass)
  /-- EXCHANGE_COMMAND_COMPLETE (R242): An exchange-context command that took time (xpost, host-assisted xsample writing its sample area, xclose once every member has left) completes, frees what it holds and advances the exchange completion counter. -/
  | exchangeCommandComplete (h : Nat)
  /-- STORE_QUEUE_DRAIN (R264): The oldest write in the scalar path's store queue is performed into memory, in FIFO order. -/
  | storeQueueDrain (h : Nat)
  deriving DecidableEq, Repr

end Sys2Proof
end

