-- ==== Sys2Proof/Machine/SMap.lean ====
section
/-! DEFINITION. Sparse maps from numbers as lists in one canonical form: keys strictly rising, and no entry equal to the
value that an unlisted key has. Memory, register containers, accumulator slots and tables of units are held this way. -/

namespace Sys2Proof

/-- A sparse map: (key, value) pairs. -/
abbrev SMap (α : Type) := List (Nat × α)

/-- The value at a key; d where the key is not listed. -/
def smGet {α : Type} (d : α) : SMap α → Nat → α
  | [], _ => d
  | (j, x) :: m, k => if k < j then d else if k = j then x else smGet d m k

/-- The value at a key, if it is listed. -/
def smFind {α : Type} : SMap α → Nat → Option α
  | [], _ => none
  | (j, x) :: m, k => if k < j then none else if k = j then some x else smFind m k

/-- The map with an entry put at a key, whatever its value. -/
def smPut {α : Type} : SMap α → Nat → α → SMap α
  | [], k, v => [(k, v)]
  | (j, x) :: m, k, v =>
    if k < j then (k, v) :: (j, x) :: m else if k = j then (k, v) :: m else (j, x) :: smPut m k v

/-- The map without a key. -/
def smErase {α : Type} (m : SMap α) (k : Nat) : SMap α := m.filter (fun p => p.1 != k)

/-- The map with a value at a key, kept canonical: the value d is not listed. -/
def smSet {α : Type} [DecidableEq α] (d : α) (m : SMap α) (k : Nat) (v : α) : SMap α :=
  if v = d then smErase m k else smPut m k v

/-- Keys strictly rise, from lo upward. -/
def smSorted {α : Type} : Nat → SMap α → Bool
  | _, [] => true
  | lo, (j, _) :: m => lo ≤ j && smSorted (j + 1) m

/-- The canonical form: keys strictly rise and no entry holds d. -/
def smWf {α : Type} [DecidableEq α] (d : α) (m : SMap α) : Bool :=
  smSorted 0 m && m.all (fun p => p.2 ≠ d)

/-- Drops every entry whose key lies in [lo, hi). -/
def smClear {α : Type} (m : SMap α) (lo hi : Nat) : SMap α :=
  m.filter (fun p => p.1 < lo || hi ≤ p.1)

end Sys2Proof
end

