-- ==== Sys2Proof/Machine/State.lean ====
section
/-! DEFINITION. The state of one Daton package, as plain data, and its value right after reset. INVENTORY.md lists every
field with the rule that names it. -/

namespace Sys2Proof.Machine

/-- Why a step stops. The manual gives every condition of the device an effect (traps, counted drops, discarded contexts), so
only one fault exists. -/
inductive Fault where
  /-- The die temperature has reached 110 °C and the Keeper has removed power (16 R357): every later step but a reset stops.
  Raised by step and by the meanings of hart instructions. Safe: the manual has nothing execute without power. -/
  | powerRemoved
  deriving DecidableEq, Repr

/-- Why a step is refused. -/
inductive Refusal where
  /-- The instruction has no meaning in this model yet. Raised by exec's arm alone. Safe. -/
  | notModelled (mnemonic : String)
  deriving DecidableEq, Repr

/-- The causes of Table 15.1 (15 R321). -/
inductive Cause where
  | trap | illegal | priv | align | fetch | loadpf | storepf | spanaddr | poison | bufwrite | noprog | order | train | qmap
  | badtile | regback
  deriving DecidableEq, Repr

/-- The code that TCAUSE.CAUSE takes (15 Table 15.1). -/
def Cause.code : Cause → Nat
  | .trap => 1 | .illegal => 2 | .priv => 3 | .align => 4 | .fetch => 5 | .loadpf => 6 | .storepf => 7 | .spanaddr => 8
  | .poison => 9 | .bufwrite => 10 | .noprog => 11 | .order => 12 | .train => 13 | .qmap => 14 | .badtile => 15
  | .regback => 16

/-- A raised cause with what TVAL and TVAL2 report. -/
structure Trap where
  cause : Cause
  tval  : Word
  tval2 : Word
  deriving DecidableEq, Repr

/-- The system registers held per hart (06 Table 06.4), each a 64-bit word with the fields of its table. -/
structure Csrs where
  fpctl    : Word
  fpflags  : Word
  nestid   : Word
  deadline : Word
  tvec     : Word
  tcause   : Word
  tpc      : Word
  tval     : Word
  tval2    : Word
  tstatus  : Word
  residx   : Word
  viqpos   : Word
  hwm      : Word
  vback    : Word
  ptroot   : Word
  cpyerr   : Word
  resthr   : Word
  deriving DecidableEq, Repr

/-- Where a vector register line is (06 R131, R133): dead, in the register partition, or live in the backing area only. -/
inductive LineState where
  | dead
  | resident (dirty : Bool) (used : Nat)
  | away
  deriving DecidableEq, Repr

/-- The progress record of bstrip (13 R283). -/
structure StripRec where
  addr    : Word
  count   : Word
  strikes : Nat
  deriving DecidableEq, Repr

/-- What a vector instruction captures when it enters the VIQ (03 R49, 02 R35). -/
structure Capture where
  shape  : Word
  shapeK : Word
  fpctl  : Word
  sa     : Word
  sb     : Word
  sa1    : Word
  slices : Nat
  deriving DecidableEq, Repr

/-- An element as a load beat reads it from memory: its position, its memory bits, its block scale and its poison. -/
structure LoadDatum where
  row  : Nat
  elem : Nat
  fld  : Nat
  bits : Nat
  scale : Nat
  psn  : Bool
  deriving DecidableEq, Repr

/-- Progress of a VIQ entry (15 R328): every active position below p is complete, or n beats are complete. -/
inductive Prog where
  | sweep (p : Nat)
  | beats (n : Nat)
  deriving DecidableEq, Repr

/-- An entry of the VIQ (07 R142, 15 Table 15.6); flags: those that reach FPFLAGS only when it completes (05 R106); lines: the register lines
that it references (06 R134); popped, pushes: the stream elements that an instruction out of position order has popped and pushed so far (05 R113);
entered: the step at which it entered the VIQ (01 Table 01.5); cmds: the orders below it are those of the matrix and copy commands that precede
it in program order (09 R199). -/
structure VEntry where
  instr    : Instr
  pc       : Word
  cap      : Capture
  seq      : BitVec 16
  prog     : Prog
  issued   : Bool
  inflight : List (List LoadDatum)
  flags    : BitVec 6
  lines    : List Nat
  popped   : Nat
  pushes   : Nat
  entered  : Nat
  cmds     : Nat
  deriving DecidableEq, Repr

/-- A byte of a pending write: its memory key, the bits it writes and their values. -/
structure MaskedByte where
  key  : Nat
  mask : Byte
  val  : Byte
  deriving DecidableEq, Repr

/-- A poisoned chunk (04 R66): the bits that one writer, named by a number, has replaced so far. The chunk is clean again once
one write has replaced all of its 32 bytes. -/
structure PoisonRec where
  writer : Nat
  bits   : BitVec 256
  deriving DecidableEq, Repr

/-- An element that a stream has fetched ahead (05 R113). -/
structure StreamDatum where
  n     : Nat
  bits  : Nat
  scale : Nat
  psn   : Bool
  deriving DecidableEq, Repr

/-- A bound stream (05 Table 05.3, Table 05.4). pushed: the elements in its buffer; drained: those that have left it and become writes when the
stream is freed (12 R271). -/
structure Stream where
  out     : Bool
  base    : Word
  scale   : Word
  cnt     : List Nat
  strides : List Int
  fmt     : Nat
  blk     : Nat
  bofs    : Nat
  pos     : Nat
  overrun : Nat
  desc    : List Byte
  fetched : List StreamDatum
  pushed  : List (List MaskedByte)
  drained : List (List MaskedByte)
  deriving DecidableEq, Repr

/-- A report that a completed command leaves for the first twait that covers it (05 R119). -/
structure Report where
  num  : Word
  trap : Trap
  deriving DecidableEq, Repr

/-- An engine context's timeline (05 R117): issue count, completion counter, whether it is detached (15 R332), and the flags
and reports of completed commands that no twait has covered yet (02 R37, 05 R119). -/
structure Timeline where
  issued   : Word
  done     : Word
  detached : Bool
  flags    : List (Word × Word)
  reports  : List Report
  deriving DecidableEq, Repr

/-- A translation kept by a command or a member: virtual address div 65,536, the physical address of that 64 KiB, and the CMP attribute of its
leaf entry (04 R79). -/
structure KeptPage where
  page : Nat
  pa   : Nat
  cmp  : Bool
  deriving DecidableEq, Repr

/-- The translations kept by a command or a member. -/
abbrev PageMap := List KeptPage

/-- A command of the copy context (05 R120, R121): the bytes done, all source bytes as they were read (none where one faulted), what the
bytes that it has written held before (while a source byte is missing), and the fault that it stands at. -/
structure CopyCmd where
  num   : Word
  fill  : Bool
  saddr : Word
  daddr : Word
  cnt   : List Nat
  sstep : List Int
  dstep : List Int
  sscr  : Bool
  dscr  : Bool
  user  : Bool
  root  : Word
  byte  : Nat
  src   : Option (List (Option (Byte × Bool)))
  old   : SMap (Byte × Bool)
  fault : Option Trap
  core  : Nat
  order : Nat
  deriving DecidableEq, Repr

/-- A command of the matrix context (15 Table 15.9). -/
structure MtxCmd where
  num     : Word
  instr   : Instr
  sa      : Word
  sb      : Word
  srec    : Word
  recKey  : Nat
  shape   : Word
  fpctl   : Word
  kdone   : Nat
  mrec    : Option Nat
  flags   : Word
  poison  : Option Word
  started : Bool
  nrows   : Nat
  ncols   : Nat
  pages   : PageMap
  order   : Nat
  deriving DecidableEq, Repr

/-- A command of the Lens context (11 R248): its record as read at issue, its place among the collective commands of its
state, the pages a qread translated, whether it has started and with what matrix or totals, and whether it does nothing. -/
structure LensCmd where
  num     : Word
  instr   : Instr
  slot    : Nat
  off     : Nat
  record  : List Byte
  coll    : Option Nat
  pages   : PageMap
  started : Bool
  noop    : Bool
  core    : Nat
  matrix  : List Byte
  flags   : Word
  report  : Option Trap
  deriving DecidableEq, Repr

/-- What a command of the exchange context still has to do (10 R242). -/
inductive XKind where
  | xend (slot : Nat) (step : Nat) (rank : Nat)
  | post (slot : Nat) (step : Nat)
  | sampleHost (addr : Word) (hist : List Nat) (keys : List Nat) (count : Nat)
  | close (slot : Nat)
  | nothing
  deriving DecidableEq, Repr

/-- A command of the exchange context. -/
structure XchCmd where
  num   : Word
  kind  : XKind
  pages : PageMap
  deriving DecidableEq, Repr

/-- The engine contexts of a hart with their queues. They move with the context (15 R332). -/
structure Engines where
  copy  : Timeline
  mtx   : Timeline
  lens  : Timeline
  xch   : Timeline
  copyQ : List CopyCmd
  mtxQ  : List MtxCmd
  lensQ : List LensCmd
  xchQ  : List XchCmd
  colls : Nat
  stamp : Nat
  deriving DecidableEq, Repr

/-- A trap that waits for older VIQ entries (15 R322): the cause, the VIQ entry that raised it with its position, and the
address that TPC takes when no entry raised it. -/
structure PendTrap where
  trap : Trap
  vec  : Option Nat
  tpc  : Word
  deriving DecidableEq, Repr

/-- What a hart waits for beyond its instruction's own re-execution: at a yield the harts that it still counts and the time of its issue (13
R297), or the next read of a waitm (R296). -/
inductive Wait where
  | none
  | yield (others : List Nat) (since : Word)
  | waitm (d a b : BitVec 5)
  deriving DecidableEq, Repr

/-- What runs in a hart slot: a program, or the dispatcher iteration of a function (14 R320). -/
inductive Role where
  | program
  | dispatcher (f : Fn)
  deriving DecidableEq, Repr

/-- Atomics of a context that a port going down has lost (16 R349): the addresses of those whose trap is still to be raised, oldest first, and
whether the handler of an earlier one, or of a lost line, has not returned yet. -/
structure LostAtoms where
  waiting : List Word
  inHand  : Bool
  deriving DecidableEq, Repr

/-- No lost atomic. -/
def LostAtoms.none : LostAtoms := { waiting := [], inHand := false }

/-- One more lost atomic. -/
def LostAtoms.add (l : LostAtoms) (va : Word) : LostAtoms := { l with waiting := l.waiting ++ [va] }

/-- A hart slot with its context (06 R125, 13 R276). kids: its children that it has not joined, by the value that forkl returned less
one, with their identities (13 R289); back: the backing area in use, which VBACK names for the next save (06 R137); request: a halt that has been asked for and has not reached it (15 R326). -/
structure Hart where
  bound     : Bool
  role      : Role
  ctx       : Nat
  nest      : Nat
  ordinal   : Nat
  handout   : Nat
  parent    : Option Nat
  area      : Nat
  famBase   : Word
  back      : Word
  saveSlot  : Word
  gpr       : Vector Word 32
  pc        : Word
  mask      : Vector (BitVec 512) 8
  shape     : Vector Word 8
  vreg      : SMap (BitVec 36)
  vlines    : SMap LineState
  acc       : SMap (BitVec 74)
  accWf     : Vector Bool 2
  csr       : Csrs
  strip     : StripRec
  viq       : List VEntry
  held      : List VEntry
  vseq      : BitVec 16
  sync      : Option Word
  storeQ    : List (List MaskedByte)
  streams   : SMap Stream
  eng       : Engines
  pending   : Option PendTrap
  lostAtoms : LostAtoms
  wait      : Wait
  kids      : List (Nat × Nat)
  request   : Option HaltReason
  halted    : Option HaltReason
  colMoves  : Nat
  lastIssue : Nat
  deriving DecidableEq, Repr

/-- A lane slice's byte of LPART (06 Table 06.6, 13 Table 13.6); kid: the ended child that passed it to its parent (13 R290, R292);
since: the time at which it became wanted (R287). -/
structure Slice where
  pend  : Bool
  req   : BitVec 2
  held  : Bool
  owner : BitVec 2
  kid   : Option Nat
  since : Word
  deriving DecidableEq, Repr

/-- A TLB entry (04 R83 to R87): what a walk found, with the size of its page in address bits. -/
structure TlbEntry where
  ctxid  : Nat
  glb    : Bool
  vpage  : Nat
  bits   : Nat
  pa     : Nat
  rd     : Bool
  wr     : Bool
  ex     : Bool
  usr    : Bool
  drt    : Bool
  cmp    : Bool
  mt     : Nat
  deriving DecidableEq, Repr

/-- A core's shared units (04 R80, 06 R138, 04 R87); rebind: the nest for which the scheduler is rebinding it (14 R310, R311). -/
structure Core where
  slices  : Vector Slice 4
  poolReg : Word
  poolScr : Word
  poolL1  : Word
  lpwait  : Word
  rebind  : Option Nat
  tlb     : List TlbEntry
  deriving DecidableEq, Repr

/-- The states of an L2 sector (04 R72). -/
inductive Sector where
  | invalid | shared | exclusive | modified
  deriving DecidableEq, Repr

/-- A cluster's TLB (04 R87). -/
structure Cluster where
  tlb : List TlbEntry
  deriving DecidableEq, Repr

/-- A line of 128 bytes of an L1 (04 R71): the time of its last use and its valid chunks. -/
structure L1Line where
  used  : Nat
  valid : BitVec 4
  deriving DecidableEq, Repr

/-- An L2 line: its re-reference age (04 R75), its way, for each 128-byte sector its state with the valid and dirty bits of its four
chunks (04 R72), and the CMP attribute of the access that wrote it last (04 R79). -/
structure L2Line where
  age     : Nat
  way     : Nat
  sectors : Vector Sector 4
  valid   : BitVec 16
  dirty   : BitVec 16
  cmp     : Bool
  deriving DecidableEq, Repr

/-- An LLC line (04 R71, R77, R78): the chunks that it holds and those to be written back, the CMP attribute of the last access, whether
it is held compressed, its hot bit, the time of its last atomic or write, and the time of its last use. -/
structure LlcLine where
  valid   : BitVec 16
  dirty   : BitVec 16
  cmp     : Bool
  packed  : Bool
  hot     : Bool
  since   : Word
  used    : Nat
  deriving DecidableEq, Repr

/-- A directory entry (04 R72): for each sector of a line the L2 slices that hold it, and the one that holds it Exclusive or Modified. -/
structure DirEntry where
  holders : Vector (BitVec 80) 4
  owner   : Vector (Option Nat) 4
  deriving DecidableEq, Repr

/-- The caches (04 Table 04.4): the L1 lines by core and line of 128 bytes, the L2 lines by cluster and line of 512 bytes, the directory, the
LLC, the length metadata of lines in HBM, in sectors (R65, R77), and the accesses counted so far. -/
structure Caches where
  l1      : SMap (SMap L1Line)
  l2      : SMap (SMap L2Line)
  dir     : SMap DirEntry
  llc     : SMap LlcLine
  lengths : SMap Nat
  ticks   : Nat
  deriving DecidableEq, Repr

/-- A translation that the hub keeps for the host window (16 R341): the host page, and whether the host admits writes. -/
structure AtsEntry where
  page  : Nat
  write : Bool
  deriving DecidableEq, Repr

/-- What the host answers for some of its pages from now on (16 R341): none where it refuses them, else whether it admits writes. -/
structure HostRight where
  page  : Nat
  pages : Nat
  right : Option Bool
  deriving DecidableEq, Repr

/-- A receive-buffer descriptor (10 Table 10.8) with the agent that posted it, and its regions' pages once active; none where they faulted. -/
structure XBuf where
  prim  : Word
  pcap  : Nat
  ocap  : Nat
  ovf   : Word
  root  : Word
  user  : Bool
  core  : Nat
  pages : PageMap
  deriving DecidableEq, Repr

/-- The counts of one step for one member (10 Table 10.9). -/
structure XStats where
  primary     : Nat
  overflow    : Nat
  dropped     : Nat
  unposted    : Nat
  sentUnposted : Nat
  unreachable : Nat
  flags       : Word
  deriving DecidableEq, Repr

/-- A member of an exchange context (10 R216 to R223). -/
structure XMember where
  rank     : Nat
  pkg      : Nat
  hart     : Nat
  ctx      : Nat
  arrived  : Bool
  waiting  : Option Nat
  ended    : Bool
  sent     : Nat
  left     : Bool
  lastKey  : Option Nat
  trains   : SMap Nat
  cur      : Option XBuf
  next     : Option XBuf
  split    : Option (List Nat)
  delivered : Nat
  stats    : XStats
  last     : XStats
  deriving DecidableEq, Repr

/-- A record on its way (10 R227, R230); psn: a switch buffer that held it has failed (16 R360). -/
structure XRecord where
  sender : Nat
  recv   : Nat
  key    : Nat
  no     : Nat
  elems  : List (BitVec 36)
  psn    : Bool
  flags  : BitVec 6
  deriving DecidableEq, Repr

/-- A live exchange context of the package (10 R216 to R239). tails: those that have not landed, by sender and receiver; away: those on their
way to a receiver of another package. -/
structure XCtx where
  tag      : BitVec 32
  nmem     : Nat
  nrecv    : Nat
  keyw     : Nat
  plen     : Nat
  ptype    : Nat
  comb     : Nat
  drnd     : Nat
  pin      : Bool
  samp     : Nat
  splits   : List Nat
  pendHw   : Option (List Nat)
  step     : Nat
  members  : List XMember
  flight   : List XRecord
  tails    : List (Nat × Nat)
  away     : List (Nat × Nat)
  landed   : List (Nat × Nat)
  injected : SMap Nat
  samples  : SMap (List Nat)
  lastSamples : List Nat
  hist     : SMap Nat
  lastHist : SMap Nat
  isPartial : Bool
  forLens  : Bool
  deriving DecidableEq, Repr

/-- An arrival at a rendezvous (10 R216, 11 R244): the hart, its descriptor, the pages of a Lens region; splits, room and held: the
splitters that rank 0 of another package brings, whether that package has the slots free, and the memberships of its hart. -/
structure Arrival where
  ctx   : Nat
  pkg   : Nat
  hart  : Nat
  desc  : List Byte
  user  : Bool
  root  : Word
  pages : PageMap
  splits : List Nat
  room  : Bool
  held  : Nat
  deriving DecidableEq, Repr

/-- A gathering: its tag, and its arrivals in the Beacon's order (10 R216). -/
structure Gathering where
  tag      : BitVec 32
  arrivals : List Arrival
  deriving DecidableEq, Repr

/-- A rendezvous result waiting for its hart: what sD receives, and the trap of a failed splitter or buffer read that follows
(10 R218). -/
structure OpenResult where
  ctx    : Nat
  lens   : Bool
  value  : Word
  trap   : Option Trap
  deriving DecidableEq, Repr

/-- A collective command that a member in another package has issued (11 R248): what the meeting compares, its matrix, its sums for the
probabilities, and the addresses of the first poisoned amplitudes that they met. -/
structure LensIssue where
  fn     : Nat
  record : List Byte
  matrix : List Byte
  s0     : Option (BitVec 36)
  s1     : Option (BitVec 36)
  bad0   : Option Word
  bad1   : Option Word
  deriving DecidableEq, Repr

/-- A member of a Lens state (11 R243, R244); issued: the collective commands of a member in another package, from the next on. -/
structure LMember where
  rank  : Nat
  pkg   : Nat
  hart  : Nat
  ctx   : Nat
  pages : PageMap
  base  : Word
  left  : Bool
  done  : Bool
  issued : List LensIssue
  deriving DecidableEq, Repr

/-- A Lens state (11 R243 to R259). next: the collective command that the members meet at next; run: it has started; swap: the pairs of
physical bits that its superstep has still to exchange; inbox: the amplitudes that have come from other packages for it. -/
structure LensState where
  tag     : BitVec 32
  n       : Nat
  p       : Nat
  wrnd    : Nat
  members : List LMember
  map     : List Nat
  failed  : Bool
  next    : Nat
  run     : Bool
  swap    : List (Nat × Nat)
  inbox   : List (Nat × Word × Bool)
  xslot   : Option Nat
  deriving DecidableEq, Repr

/-- The fields of a loop-nest record that the scheduler keeps (14 Table 14.1, Table 14.2). -/
structure NestRec where
  entry  : Word
  param  : Word
  stack  : Word
  back   : Word
  save   : Word
  cnt    : List Nat
  ind    : List Word
  ctrl   : Word
  stksz  : Nat
  preg   : Nat
  pscr   : Nat
  pl1    : Nat
  age    : Nat
  dline  : Nat
  waita  : List Word
  waitn  : List Word
  cblk   : Word
  place  : Nat
  deriving DecidableEq, Repr

/-- A walk's position (14 R302, R304): the tuple to be handed out next, the bounds read for its prefixes, the ordinal of each
prefix, and for Z-order the counter t. -/
structure Walk where
  started : Bool
  tuple   : List Nat
  bounds  : List Nat
  prefOrd : List Nat
  t       : Nat
  finished : Bool
  deriving DecidableEq, Repr

/-- A live nest (14 R301 to R319). accepted: its place in the order of acceptance; submitter: the nest that submitted it, and core the core;
expn: iterations expired or stopped; stopped: some context was discarded for a fault (15 R327); ageFrom: the time since which it has held
a ready unit or waited for a walker (R309); dispatch: it is the dispatcher nest of fn (R320). -/
structure Nest where
  rc       : NestRec
  ptroot   : Word
  tvec     : Word
  resthr   : Word
  user     : Bool
  submitter : Nat
  core     : Nat
  fn       : Option Fn
  dispatch : Bool
  accepted : Nat
  walker   : Option Nat
  waitsOk  : List Bool
  walk     : Walk
  ordinal  : Nat
  out      : Nat
  expn     : Nat
  badref   : Bool
  stopped  : Bool
  withdrawing : Bool
  draining : Bool
  eprio    : Nat
  ageFrom  : Nat
  deriving DecidableEq, Repr

/-- A saved context (14 R307, R311, 15 R328): its slot, the hart it was saved from, its home core or its scratchpad group, and
the engine contexts that run on. viq: its VIQ entries as they stood, for what their images do not hold (log entry 39). lost: the address
of its first lost line (15 R335). hostWait: the host has to repair a page first, and
hostRec is the record that says so (16 R346). -/
structure Saved where
  slot    : Word
  hart    : Nat
  ctx     : Nat
  nest    : Nat
  ordinal : Nat
  parent  : Option Nat
  area    : Nat
  famBase : Word
  home    : Option Nat
  group   : Option Nat
  slices  : Nat
  eng     : Engines
  root    : Word
  core    : Nat
  wait    : Wait
  viq     : List VEntry
  kids    : List (Nat × Nat)
  vseq    : BitVec 16
  lost    : Option Word
  lostAtoms : LostAtoms
  hostWait : Bool
  hostRec : Option (Fn × Nat)
  deriving DecidableEq, Repr

/-- A scratchpad group (14 R311): the slot that holds its image, and its triple. -/
structure Group where
  slot   : Word
  root   : Word
  triple : Nat × Nat × Nat
  deriving DecidableEq, Repr

/-- An owed write (15 R331): the data of a beat issued before a halt, for the context with this identity, with its slot, its
backing area and its PTROOT. -/
structure Owed where
  ctx   : Nat
  slot  : Word
  entry : VEntry
  data  : List LoadDatum
  vback : Word
  root  : Word
  core  : Nat
  deriving DecidableEq, Repr

/-- A walker (14 R306, R307): its nest, if it has one, and its placement cursor. -/
structure Walker where
  nest   : Option Nat
  cursor : Nat
  deriving DecidableEq, Repr

/-- An event that waits to be posted to a function's queue (16 R344); ctx: the saved context that waits for the host's answer. -/
structure HostEvent where
  fn    : Fn
  kind  : Nat
  addr  : Word
  tval  : Word
  extra : Word
  ctx   : Option Nat
  deriving DecidableEq, Repr

/-- Whom the loss of what a link carries concerns (16 R349): the copy of a context from a byte of its command on, the atomic of a context at an address, records of some
senders of an exchange, with the flags of their combination (10 R232) and their poison, a tail, or a swap of a Lens state; answer: the
count of records dropped here, sent back to their senders' package. -/
inductive FlitFor where
  | copy (ctx : Nat) (byte : Nat)
  | atomic (ctx : Nat) (va : Word)
  | records (slot : Nat) (senders : List Nat) (flags : BitVec 6) (psn : Bool)
  | answer (slot : Nat) (senders : List Nat)
  | tail (slot sender recv : Nat)
  | swap (slot : Nat)
  deriving DecidableEq, Repr

/-- A flit kept until it is acknowledged (16 R347, Table 16.4): its bytes 7:0, 247:8 and 255:248, and what of it ends in it: the records whose
last byte it carries, or the copy whose chunks it carries. -/
structure SentFlit where
  head    : BitVec 64
  payload : List Byte
  crc     : BitVec 64
  what    : List FlitFor
  deriving DecidableEq, Repr

/-- The payload of a class's next flit as far as it is filled, and what ends in it (16 R347). -/
structure OpenFlit where
  bytes : List Byte
  what  : List FlitFor
  deriving DecidableEq, Repr

/-- A link port (16 R347, R348): lanes in use (4, 2, or 0 when down) and since when, lost lanes, the lanes that a retraining under way aims
at, sequence state of both directions, credits returned by class, credits owed to the other end by class, and the flit that each class
fills. -/
structure Port where
  lanes    : Nat
  lost     : BitVec 4
  training : Option Nat
  txSeq    : BitVec 12
  unacked  : List SentFlit
  replays  : Nat
  rxLast   : BitVec 12
  toAck    : Nat
  nakOut   : Bool
  resend   : Bool
  since    : Nat
  cred     : List Nat
  owed     : List Nat
  filling  : SMap OpenFlit
  deriving DecidableEq, Repr

/-- A Keeper image slot (16 R352, R355); bytes: what its part of the SPI NOR device holds. -/
structure Image where
  len      : Nat
  svn      : Nat
  verified : Bool
  bytes    : List Byte
  deriving DecidableEq, Repr

/-- A mailbox command that waits to be served (16 R351): its CMD word, and the bytes +8 to +39 and +256 to +271 of its page as they stood when
CMD was written. -/
structure MailReq where
  cmd  : Word
  args : List Byte
  deriving DecidableEq, Repr

/-- A record of the Keeper's event log (16 R355). -/
structure LogRec where
  seq  : Nat
  time : Word
  kind : Nat
  data : Word
  deriving DecidableEq, Repr

/-- The Keeper (16 R350 to R357); report: bytes 0 to 511 of the most recent attestation report, reports: how many it has made; mailQ: the
commands of each mailbox in the order of their CMD writes; lastOob: the command served last was the out-of-band port's (R354); seen: the SEQ
last served of each function's request slot, whoever served it (14 R320, R346). -/
structure Keeper where
  slotA     : Image
  slotB     : Image
  activeB   : Bool
  switchNext : Bool
  fuses     : Nat
  sensors   : SMap Sensor
  log       : List LogRec
  logSeq    : Nat
  limit     : Nat
  withhold  : Bool
  off       : Bool
  report    : List Byte
  reports   : Nat
  i3cAddr   : Option (BitVec 7)
  i3cOff    : Nat
  i3cIbi    : Bool
  mailQ     : SMap (List MailReq)
  lastOob   : Bool
  seen      : SMap Word
  deriving DecidableEq, Repr

/-- Boot state (16 R358, R359): the boot record by step, the fence counts, and whether boot has run; tries: the attempts at each step in a boot
sequence that has not ended, retried: the stacks that it retries with full training, stamp: the step of the last reset. -/
structure Boot where
  record  : SMap Word
  fences  : SMap Nat
  fenced  : BitVec 8
  done    : Bool
  hostUp  : Bool
  tries   : SMap Nat
  retried : BitVec 8
  stamp   : Nat
  deriving DecidableEq, Repr

/-- The buoy's state at a queue (10 R241): the sequence number of its next token, whether one is out, and entries it has moved
into the reserve buffer of the queue it waits for. -/
structure Buoy where
  seq   : BitVec 16
  out   : Bool
  grants : Nat
  deriving DecidableEq, Repr

/-- Memory: the bytes that differ from what an unlisted address reads as, by key in one canonical form. -/
abbrev Memory := List Host.Cell

/-- The canonical form: keys strictly rise, and no entry holds what an unlisted key reads as. -/
def Memory.wf (m : Memory) : Bool := smWf 0 m

/-- The state of one package. tokens: buoy tokens on their way, with the queues that they go to; barRead: the bytes that the last read from
outside returned; rights: what the host has said about its pages (log entry 86); msix: MSI-X messages raised, by 4 × function + vector; turns:
one more than the hart that each shared unit served last (01 Table 01.5); ready: the harts that were ready when the executing one was chosen (13 R297). -/
structure State where
  harts    : SMap Hart
  cores    : SMap Core
  clusters : SMap Cluster
  cur      : Nat
  mem      : Memory
  poison   : SMap PoisonRec
  caches   : Caches
  hotidle  : Word
  time     : Word
  nests    : SMap Nest
  walkers  : SMap Walker
  lastWalker : Nat
  saved    : List Saved
  groups   : SMap Group
  owed     : List Owed
  xctx     : SMap XCtx
  xgather  : List Gathering
  lens     : SMap LensState
  qgather  : List Gathering
  opened   : List OpenResult
  span     : List Nat
  hostmode : Word
  mbox     : SMap Byte
  events   : List HostEvent
  msix     : SMap Nat
  barRead  : List Byte
  ats      : List AtsEntry
  rights   : List HostRight
  ports    : SMap Port
  keeper   : Keeper
  boot     : Boot
  buoys    : SMap Buoy
  tokens   : List (QueueId × BitVec 64)
  agenda   : List Event
  turns    : SMap Nat
  ready    : List Nat
  relaxed  : Bool
  nextCtx  : Nat
  steps    : Nat
  deriving DecidableEq, Repr

/-- An idle timeline (05 R117). -/
def Timeline.zero : Timeline := { issued := 0, done := 0, detached := false, flags := [], reports := [] }

/-- Engine contexts with nothing issued. -/
def Engines.zero : Engines :=
  { copy := Timeline.zero, mtx := Timeline.zero, lens := Timeline.zero, xch := Timeline.zero,
    copyQ := [], mtxQ := [], lensQ := [], xchQ := [], colls := 0, stamp := 0 }

/-- The system registers at device reset (02 Table 02.5, Table 02.6, 04 Table 04.9, 05 Table 05.6, 06 Table 06.5). -/
def Csrs.reset : Csrs :=
  { fpctl := 0, fpflags := 0, nestid := 0, deadline := 0, tvec := 0, tcause := 0, tpc := 0, tval := 0, tval2 := 0,
    tstatus := 0, residx := 0, viqpos := 0, hwm := 0, vback := 0, ptroot := 0, cpyerr := 0, resthr := 16384 }

/-- A hart slot at device reset: nothing bound, every vector line dead, every accumulator slot integer zero (06 R139). The
scalar registers and masks, for which the manual gives no value at device reset, hold zero (log entry 1). -/
def Hart.reset : Hart :=
  { bound := false, role := .program, ctx := 0, nest := 0, ordinal := 0, handout := 0, parent := none, area := 0,
    famBase := 0, back := 0, saveSlot := 0, gpr := Vector.replicate 32 0, pc := 0, mask := Vector.replicate 8 0,
    shape := Vector.replicate 8 0, vreg := [], vlines := [], acc := [], accWf := Vector.replicate 2 false,
    csr := Csrs.reset, strip := { addr := 0, count := 0, strikes := 0 }, viq := [], held := [], vseq := 0, sync := none,
    storeQ := [], streams := [], eng := Engines.zero, pending := none, lostAtoms := LostAtoms.none, wait := .none, kids := [],
    request := none, halted := none, colMoves := 0, lastIssue := 0 }

/-- An idle lane slice (06 R139). -/
def Slice.idle : Slice := { pend := false, req := 0, held := false, owner := 0, kid := none, since := 0 }

/-- A core at device reset (04 Table 04.8, 06 Table 06.5, R139). -/
def Core.reset : Core :=
  { slices := Vector.replicate 4 Slice.idle, poolReg := 128, poolScr := 64, poolL1 := 64, lpwait := 4096, rebind := none, tlb := [] }

/-- A cluster at device reset. -/
def Cluster.reset : Cluster := { tlb := [] }

/-- Empty caches (16 R358 step 6). -/
def Caches.reset : Caches := { l1 := [], l2 := [], dir := [], llc := [], lengths := [], ticks := 0 }

/-- A walker without a nest (14 R306). -/
def Walker.reset : Walker := { nest := none, cursor := 0 }

/-- A link port as boot finds it (16 R348). -/
def Port.reset : Port :=
  { lanes := 4, lost := 0, training := none, txSeq := 0, unacked := [], replays := 0, rxLast := 4095, toAck := 0,
    nakOut := false, resend := false, since := 0, cred := [0, 0, 0, 0], owed := [0, 0, 0, 0], filling := [] }

/-- A buoy that has sent nothing (10 R241). -/
def Buoy.reset : Buoy := { seq := 0, out := false, grants := 0 }

/-- The Keeper as delivered (16 R350 to R357; log entry 11). -/
def Keeper.reset : Keeper :=
  { slotA := { len := 0, svn := 0, verified := true, bytes := [] }
    slotB := { len := 0, svn := 0, verified := false, bytes := [] }
    activeB := false, switchNext := false, fuses := 0, sensors := [], log := [], logSeq := 0, limit := 2500,
    withhold := false, off := false, report := [], reports := 0, i3cAddr := none, i3cOff := 0,
    i3cIbi := false, mailQ := [], lastOob := false, seen := [] }

/-- Boot not yet run. -/
def Boot.reset : Boot := { record := [], fences := [], fenced := 0, done := false, hostUp := false, tries := [], retried := 0, stamp := 0 }

/-- The package right after reset (06 R139): no hart is bound, every register holds its reset value, boot has not run. -/
def State.reset : State :=
  { harts := [], cores := [], clusters := [], cur := 0, mem := [], poison := [], caches := Caches.reset, hotidle := 65536, time := 0,
    nests := [], walkers := [], lastWalker := 15, saved := [], groups := [], owed := [], xctx := [], xgather := [], lens := [],
    qgather := [], opened := [], span := [], hostmode := 0, mbox := [], events := [], msix := [], barRead := [], ats := [], rights := [],
    ports := [], keeper := Keeper.reset, boot := Boot.reset, buoys := [], tokens := [], agenda := [], turns := [], ready := [], relaxed := false, nextCtx := 1,
    steps := 0 }

end Sys2Proof.Machine
end

