-- ==== Sys2Proof/Machine/Ops.lean ====
section
/-! DEFINITION. Named operations over the state: units by number, scalar registers, masks, slices, and the one operation that
takes a trap (15 R322) with the return from it (13 R295). -/

namespace Sys2Proof.Machine

/-- The outcome of a step. -/
abbrev Out := Host.Outcome State Fault Refusal

/-- The next state that f gives, unless the Keeper has removed power (16 R357). -/
def live (s : State) (f : State → State) : Out :=
  if s.keeper.off then .fault .powerRemoved else .next (f s)

/-- The hart in a slot of the package. -/
def getHart (s : State) (h : Nat) : Hart := smGet Hart.reset s.harts h

/-- The state with a hart slot changed. -/
def putHart (s : State) (h : Nat) (x : Hart) : State := { s with harts := smPut s.harts h x }

/-- The core with a package core number. -/
def getCore (s : State) (c : Nat) : Core := smGet Core.reset s.cores c

/-- The state with a core changed. -/
def putCore (s : State) (c : Nat) (x : Core) : State := { s with cores := smPut s.cores c x }

/-- The cluster with a package cluster number. -/
def getCluster (s : State) (c : Nat) : Cluster := smGet Cluster.reset s.clusters c

/-- The state with a cluster changed. -/
def putCluster (s : State) (c : Nat) (x : Cluster) : State := { s with clusters := smPut s.clusters c x }

/-- The executing hart. -/
def curHart (s : State) : Hart := getHart s s.cur

/-- The state with the executing hart changed. -/
def putCur (s : State) (x : Hart) : State := putHart s s.cur x

/-- The core of a hart (01 R9). -/
def coreOf (h : Nat) : Nat := h / 4

/-- The cluster of a core. -/
def clusterOf (core : Nat) : Nat := core / 8

/-- The stack domain of a core. -/
def domainOf (core : Nat) : Nat := core / 80

/-- The executing hart's core. -/
def curCore (s : State) : Core := getCore s (coreOf s.cur)

/-- A scalar register; s0 reads 0 (06 Table 06.1). -/
def Hart.getS (x : Hart) (r : BitVec 5) : Word :=
  if r = 0 then 0 else x.gpr.get ⟨r.toNat, r.isLt⟩

/-- The hart with a scalar register written; a write to s0 is discarded (06 Table 06.1). -/
def Hart.setS (x : Hart) (r : BitVec 5) (v : Word) : Hart :=
  if r = 0 then x else { x with gpr := x.gpr.set r.toNat v r.isLt }

/-- The hart with its flags raised. -/
def Hart.addFlags (x : Hart) (f : Flags) : Hart := { x with csr := { x.csr with fpflags := setFlags x.csr.fpflags f } }

/-- The hart past an instruction. -/
def Hart.past (x : Hart) : Hart := { x with pc := x.pc + 4 }

/-- The executing hart changed and past its instruction. -/
def retire (s : State) (f : Hart → Hart) : State := putCur s (f (curHart s)).past

/-- The executing hart writes a scalar register and goes on. -/
def retireS (s : State) (d : BitVec 5) (v : Word) : State := retire s (fun x => x.setS d v)

/-- Whether the hart is in user mode (06 Table 06.5). -/
def Hart.user (x : Hart) : Bool := x.csr.tstatus.getLsbD 0

/-- Whether a VIQ image is held (15 R324). -/
def Hart.vq (x : Hart) : Bool := x.csr.tstatus.getLsbD 2

/-- TSTATUS from its fields VQ, PMODE and MODE. -/
def tstatusOf (vq pmode mode : Bool) : Word :=
  (if vq then 4 else 0) ||| (if pmode then 2 else 0) ||| (if mode then 1 else 0)

/-- A mask register; m0 reads all ones (06 Table 06.1). -/
def Hart.getM (x : Hart) (m : Nat) : BitVec 512 :=
  if m % 8 = 0 then BitVec.allOnes 512 else x.mask.get ⟨m % 8, Nat.mod_lt m (by decide)⟩

/-- The hart with a mask register written; m0 ignores writes. -/
def Hart.setM (x : Hart) (m : Nat) (v : BitVec 512) : Hart :=
  if m % 8 = 0 then x else { x with mask := x.mask.set (m % 8) v (Nat.mod_lt m (by decide)) }

/-- A bit of a mask register. -/
def Hart.maskBit (x : Hart) (m i : Nat) : Bool := (x.getM m).getLsbD i

/-- A mask with one bit set to a value. -/
def withBit (v : BitVec 512) (i : Nat) (b : Bool) : BitVec 512 :=
  let one : BitVec 512 := 1#512 <<< i
  if b then v ||| one else v &&& ~~~one

/-- A shape register. -/
def Hart.getSh (x : Hart) (n : Nat) : Word := x.shape.get ⟨n % 8, Nat.mod_lt n (by decide)⟩

/-- The hart with a shape register written; bits 63:33 are reserved (06 Table 06.3). -/
def Hart.setSh (x : Hart) (n : Nat) (v : Word) : Hart :=
  { x with shape := x.shape.set (n % 8) (v &&& 0x1FFFFFFFF#64) (Nat.mod_lt n (by decide)) }

/-- A slice of a core. -/
def Core.slice (c : Core) (j : Nat) : Slice := c.slices.get ⟨j % 4, Nat.mod_lt j (by decide)⟩

/-- The core with a slice changed. -/
def Core.setSlice (c : Core) (j : Nat) (x : Slice) : Core :=
  { c with slices := c.slices.set (j % 4) x (Nat.mod_lt j (by decide)) }

/-- Whether slice j is held by hart slot k of its core (13 R284). -/
def Core.owns (c : Core) (k j : Nat) : Bool := (c.slice j).held && (c.slice j).owner.toNat == k

/-- The slices that hart slot k holds, in ascending number (13 R284). -/
def Core.owned (c : Core) (k : Nat) : List Nat := [0, 1, 2, 3].filter (c.owns k)

/-- The slices that a hart of the package owns. -/
def ownedBy (s : State) (h : Nat) : List Nat := (getCore s (coreOf h)).owned (h % 4)

/-- The number of slices a hart owns. -/
def slicesOf (s : State) (h : Nat) : Nat := (ownedBy s h).length

/-- Bytes of a core's scratchpad (04 R81, R82). -/
def scratchBytes (s : State) (core : Nat) : Nat := (getCore s core).poolScr.toNat * 4096

/-- Whether an instruction is a synchronising read (07 R143). -/
def isSync (i : Instr) : Bool :=
  match i with
  | .vmovs .. => true
  | .mpop .. => true
  | .mfirst .. => true
  | .bvany .. => true
  | .bvnone .. => true
  | .vargmax .. => true
  | _ => false

/-- The VIQ slot of a sequence number: entries take the 32 slots in turn (DEDUCED, log entry 13). -/
def slotOfSeq (q : BitVec 16) : Nat := q.toNat % 32

/-- VIQPOS of a slot and a sequence number (06 Table 06.5). -/
def viqposOf (q : BitVec 16) : Word := word (slotOfSeq q * 65536 + q.toNat)

/-- The registers that every trap entry writes (15 R322): TCAUSE, TVAL, TVAL2, PMODE, MODE, the progress record, and the pc at
TVEC.BASE × 4. -/
def Hart.enterHandler (x : Hart) (t : Trap) (vec : Bool) (tpc : Word) (vq : Bool) : Hart :=
  { x with
    pc := x.csr.tvec &&& ~~~3#64
    strip := { addr := 0, count := 0, strikes := 0 }
    pending := none
    wait := .none
    csr := { x.csr with
      tcause := (if vec then 0x8000000000000000#64 else 0) ||| word t.cause.code
      tpc := tpc &&& ~~~3#64
      tval := t.tval
      tval2 := t.tval2
      tstatus := tstatusOf vq x.user false } }

/-- Entries of the VIQ that a trap or a save holds: synchronising reads are not held (15 R323, R326). -/
def holdable (es : List VEntry) : List VEntry :=
  (es.filter (fun e => !isSync e.instr)).map (fun (e : VEntry) => { e with issued := false })

/-- Takes a trap that no VIQ entry raised, at a hart whose VIQ is empty (15 R322). -/
def Hart.takeScalar (x : Hart) (t : Trap) (tpc : Word) : Hart := x.enterHandler t false tpc x.vq

/-- Takes a trap that the oldest VIQ entry raised at position p (15 R322 to R324): the entry and every younger one are held with
their progress, and VQ is set. A synchronising read that faults is not held; TPC names it. -/
def Hart.takeVector (x : Hart) (t : Trap) (p : Nat) : Hart :=
  match x.viq with
  | [] => x.enterHandler t false x.pc x.vq
  | e :: es =>
    let y := { x with
      held := holdable ({ e with prog := .sweep p, issued := false, inflight := [] } :: es)
      viq := []
      sync := none
      csr := { x.csr with residx := word (p % 4096), viqpos := viqposOf e.seq } }
    y.enterHandler t true (if isSync e.instr then e.pc else x.pc) true

/-- REGBACK (15 R335): every vector line becomes dead, streams are freed without writing, the VIQ is emptied and VQ cleared, and
then the trap is taken with VEC = 0. -/
def Hart.takeRegback (x : Hart) (line tpc : Word) : Hart :=
  let y := { x with vreg := [], vlines := [], streams := [], viq := [], held := [], sync := none }
  y.enterHandler { cause := .regback, tval := line, tval2 := 0 } false tpc false

/-- A page fault that HOSTMODE.PF hands to the host: LOADPF, STOREPF or FETCH with reason 0 or 1 (16 R346). -/
def faultToHost (s : State) (t : Trap) : Bool :=
  s.hostmode.getLsbD 1 && (t.cause == .loadpf || t.cause == .storepf || t.cause == .fetch) && t.tval2.toNat ≤ 1

/-- The reasons that discard a context instead of saving it (15 Table 15.2). -/
def haltStops (r : HaltReason) : Bool :=
  match r with
  | .hardDeadline => true
  | .withdraw => true
  | _ => false

/-- Whether a stop, which discards the context, has been asked of a hart (14 R313, R316). -/
def stopStands (x : Hart) : Bool := match x.request with | some r => haltStops r | none => false

/-- The hart halted for the host at a page fault (16 R346), as for a pre-emption: TCAUSE, TVAL and TVAL2 are written as the trap would write
them, and the context resumes at the given address. Where a stop already stands, it wins, and nothing is saved (14 Table 14.5): the hart goes
no further than its instruction until the stop reaches it. -/
def Hart.haltForHost (x : Hart) (t : Trap) (vec : Bool) (tpc : Word) : Hart :=
  { x with
    pc := tpc
    pending := none
    wait := .none
    request := if stopStands x then x.request else some .hostPageFault
    halted := if stopStands x then x.halted else some .hostPageFault
    csr := { x.csr with
      tcause := (if vec then 0x8000000000000000#64 else 0) ||| word t.cause.code
      tval := t.tval
      tval2 := t.tval2 } }

/-- A trap that no VIQ entry raised, delivered to a hart whose VIQ is empty (15 R322, 16 R346). -/
def deliverScalar (s : State) (h : Nat) (t : Trap) (tpc : Word) : State :=
  let x := getHart s h
  putHart s h (if faultToHost s t then x.haltForHost t false tpc else x.takeScalar t tpc)

/-- A trap of the oldest VIQ entry at position p, delivered (15 R322, 16 R346): for the host, the entries stay live with their
progress. -/
def deliverVector (s : State) (h : Nat) (t : Trap) (p : Nat) : State :=
  let x := getHart s h
  if faultToHost s t then
    let viq := match x.viq with
      | [] => []
      | e :: es => holdable ({ e with prog := .sweep p, issued := false, inflight := [] } :: es)
    putHart s h ({ x with viq := viq, sync := none }.haltForHost t true x.pc)
  else putHart s h (x.takeVector t p)

/-- A trap at an instruction of the executing hart (15 R322): taken at once when no older VIQ entry is left, else pending until
they complete (event TAKE_TRAP). TPC is the given address. -/
def trapAt (s : State) (tpc : Word) (t : Trap) : State :=
  let x := curHart s
  if x.viq.isEmpty then deliverScalar s s.cur t tpc
  else putCur s { x with pending := some { trap := t, vec := none, tpc := tpc } }

/-- A trap precise at the instruction that the executing hart stands at. -/
def trapHere (s : State) (t : Trap) : State := trapAt s (curHart s).pc t

/-- ILLEGAL with the instruction word (03 R51). -/
def illegal (s : State) (i : Instr) : State :=
  trapHere s { cause := .illegal, tval := instrWord i, tval2 := 0 }

/-- PRIV with the instruction word (15 Table 15.1). -/
def privTrap (s : State) (i : Instr) : State :=
  trapHere s { cause := .priv, tval := instrWord i, tval2 := 0 }

/-- ALIGN at an address (15 Table 15.1). -/
def alignTrap (a : Word) : Trap := { cause := .align, tval := a, tval2 := 0 }

/-- BADTILE with its value and code (15 Table 15.1). -/
def badtile (v : Word) (code : Nat) : Trap := { cause := .badtile, tval := v, tval2 := word code }

/-- The return from a trap in supervisor mode (13 R295, 15 R324): a held image is reinstated, the entry that VIQPOS names at the position
in RESIDX, every other at its own progress (log entry 40); then MODE becomes PMODE and the pc becomes TPC × 4. -/
def Hart.eret (x : Hart) : Hart :=
  let pm := x.csr.tstatus.getLsbD 1
  let back :=
    match x.held with
    | [] => []
    | e :: es => (if viqposOf e.seq = x.csr.viqpos then { e with prog := .sweep (x.csr.residx.toNat % 4096) } else e) :: es
  let y := if x.vq then { x with viq := x.viq ++ back, held := [] } else x
  { y with pc := x.csr.tpc &&& ~~~3#64, csr := { y.csr with tstatus := tstatusOf false pm pm } }

/-- The next lost atomic of a hart raises STOREPF with reason 2 behind what the hart has done (16 R349), once nothing else waits to be raised, no
handler with a held image runs and the handler of the lost atomic before it has returned, so that each trap finds TPC free (log entry 51). A
halted hart raises it when its context runs again. -/
def raiseLost (s : State) (h : Nat) : State :=
  let x := getHart s h
  match x.lostAtoms.waiting with
  | [] => s
  | va :: rest =>
    if x.lostAtoms.inHand || x.pending.isSome || x.halted.isSome || x.vq then s
    else
      let t : Trap := { cause := .storepf, tval := va, tval2 := 2 }
      let y := { x with lostAtoms := { waiting := rest, inHand := true } }
      if y.viq.isEmpty then deliverScalar (putHart s h y) h t x.pc
      else putHart s h { y with pending := some { trap := t, vec := none, tpc := x.pc } }

/-- A hart past an eret: a lost atomic that waits is raised now. -/
def lostReturn (s : State) (h : Nat) : State :=
  let x := getHart s h
  raiseLost (putHart s h { x with lostAtoms := { x.lostAtoms with inHand := false } }) h

/-- The bound harts of a core, by slot. -/
def boundSlots (s : State) (core : Nat) : List Nat :=
  [0, 1, 2, 3].filter (fun k => (getHart s (4 * core + k)).bound)

/-- The hart slots of the package that hold a state, in ascending number. -/
def hartNumbers (s : State) : List Nat := s.harts.map (fun p => p.1)

/-- The number of the hart that runs a context, if it is bound. -/
def hartOfCtx (s : State) (ctx : Nat) : Option Nat :=
  ((s.harts.filter (fun p => p.2.bound && p.2.ctx == ctx)).map (fun p => p.1)).head?

/-! The Keeper's log and the event records (16 R344, R345, R350, R355). -/

/-- The log after a record has come: the oldest record goes where there are more than 262,144 (16 R355). -/
def keepLatest (l : List LogRec) : List LogRec := if l.length ≤ 262144 then l else l.drop 1

/-- A record appended to the Keeper's log (16 R350, R355). -/
def keeperLog (s : State) (kind : Nat) (data : Word) : State :=
  let k := s.keeper
  let r : LogRec := { seq := k.logSeq, time := s.time, kind := kind, data := data }
  { s with keeper := { k with log := keepLatest (k.log ++ [r]), logSeq := k.logSeq + 1 } }

/-- An event that waits to be posted. -/
def queueEvent (s : State) (e : HostEvent) : State := { s with events := s.events ++ [e] }

/-- An error that cannot be corrected, logged and, with HOSTMODE.PSN, posted to the physical function as kind 2 (16 R345, R350). -/
def uncorrectable (s : State) (data : Word) : State :=
  let s1 := keeperLog s 2 data
  if s.hostmode.getLsbD 3 then
    queueEvent s1 { fn := .pf, kind := 2, addr := data, tval := Config.reportAddress s.steps, extra := 0, ctx := none }
  else s1

/-- The span's time. -/
def now (s : State) : Nat := s.time.toNat

end Sys2Proof.Machine
end

