-- ==== Sys2Proof/Machine/Cache.lean ====
section
/-! DEFINITION. The caches between a core and HBM4 (04 R71 to R79): L1s, L2 slices, the directory and the LLC. They hold which line,
sector and chunk lies where; the bytes themselves are coherent and lie in State's memory, so nothing here changes a value read. -/

namespace Sys2Proof.Machine

/-- How an access allocates in the L2 (04 Table 04.5). -/
inductive Alloc where
  | age (n : Nat)
  | none
  deriving DecidableEq, Repr

/-- The path of an access: whether it is one of the scalar and vector accesses that the L1 serves (04 R74), whether it fetches only the
chunks that it touches (R73), whether its instruction writes the whole chunk (R72), and how it allocates (Table 04.5). -/
structure Path where
  l1     : Bool
  gather : Bool
  whole  : Bool
  alloc  : Alloc
  deriving DecidableEq, Repr

/-- The path of a scalar access. -/
def Path.scalar : Path := { l1 := true, gather := false, whole := false, alloc := .age 2 }

/-- The path of a register line's traffic, which passes through the L1 like a scalar access (06 R132); whole: its write-back, which writes whole
chunks. 04 Table 04.5 has no row for it: it allocates at age 2 (DESIGN CHOICE, log entry 117). -/
def Path.line : Path := { l1 := true, gather := false, whole := true, alloc := .age 2 }

/-- The path of the front end's own reads: fetches, descriptors, records and the scheduler's words. Of these 04 Table 04.5 names fetches alone; all
allocate at age 2 (DESIGN CHOICE, log entry 117). -/
def Path.front : Path := { l1 := false, gather := false, whole := false, alloc := .age 2 }

/-- The path of engines and stream buffers, which allocate nowhere but in the LLC. 04 Table 04.5 has no row for the writes of an out-stream: they
take this path too (DESIGN CHOICE, log entry 117). -/
def Path.engine : Path := { l1 := false, gather := false, whole := false, alloc := .none }

/-- What a write-back decision reads: SPANTIME and HOTIDLE (04 R78). -/
structure LlcClock where
  time    : Word
  hotidle : Word
  deriving DecidableEq, Repr

/-! Lines. -/

/-- The four chunks of a sector as bits of a line. -/
def sectorMask (sector : Nat) : BitVec 16 := 0xF#16 <<< (4 * (sector % 4))

/-- The chunk of a key as a bit of its line. -/
def chunkBit (key : Nat) : BitVec 16 := 1#16 <<< (key / 32 % 16)

/-- A line with no valid sector. -/
def l2Empty (way age : Nat) : L2Line :=
  { age := age, way := way, sectors := Vector.replicate 4 Sector.invalid, valid := 0, dirty := 0, cmp := false }

/-- The state of a sector. -/
def L2Line.sector (l : L2Line) (sector : Nat) : Sector := l.sectors.get ⟨sector % 4, Nat.mod_lt sector (by decide)⟩

/-- Whether any sector of a line is valid. -/
def L2Line.live (l : L2Line) : Bool := [0, 1, 2, 3].any (fun j => l.sector j != .invalid)

/-- The line with a sector in a state and chunks of it valid. -/
def L2Line.fill (l : L2Line) (sector : Nat) (st : Sector) (chunks : BitVec 16) : L2Line :=
  { l with sectors := l.sectors.set (sector % 4) st (Nat.mod_lt sector (by decide)), valid := l.valid ||| chunks }

/-- The line after a write of a chunk (04 R72): the sector is Modified and the chunk valid and dirty. -/
def L2Line.write (l : L2Line) (sector : Nat) (chunk : BitVec 16) (cmp : Bool) : L2Line :=
  { l.fill sector .modified chunk with dirty := l.dirty ||| chunk, cmp := cmp }

/-- A line without one sector. -/
def L2Line.drop (l : L2Line) (sector : Nat) : L2Line :=
  { l with
    sectors := l.sectors.set (sector % 4) Sector.invalid (Nat.mod_lt sector (by decide))
    valid := l.valid &&& ~~~(sectorMask sector)
    dirty := l.dirty &&& ~~~(sectorMask sector) }

/-- A line with one sector Shared and clean. -/
def L2Line.share (l : L2Line) (sector : Nat) : L2Line :=
  { l.fill sector .shared 0 with dirty := l.dirty &&& ~~~(sectorMask sector) }

/-- A directory entry of a line that no L2 holds. -/
def DirEntry.empty : DirEntry := { holders := Vector.replicate 4 0, owner := Vector.replicate 4 none }

/-- The slices that hold a sector. -/
def DirEntry.heldBy (e : DirEntry) (sector : Nat) : BitVec 80 := e.holders.get ⟨sector % 4, Nat.mod_lt sector (by decide)⟩

/-- The slice that holds a sector Exclusive or Modified. -/
def DirEntry.ownerOf (e : DirEntry) (sector : Nat) : Option Nat := e.owner.get ⟨sector % 4, Nat.mod_lt sector (by decide)⟩

/-- The entry after a slice's copy of a sector has taken a state (04 R72). -/
def DirEntry.note (e : DirEntry) (cl sector : Nat) (st : Sector) : DirEntry :=
  let bit : BitVec 80 := 1#80 <<< cl
  let held := e.heldBy sector
  let own := if st == .exclusive || st == .modified then some cl else if e.ownerOf sector == some cl then none else e.ownerOf sector
  { holders := e.holders.set (sector % 4) (if st == .invalid then held &&& ~~~bit else held ||| bit) (Nat.mod_lt sector (by decide))
    owner := e.owner.set (sector % 4) own (Nat.mod_lt sector (by decide)) }

/-! The LLC slice of a stack domain (04 R71, R77, R78): 24 ways, 16,384 sets, least recently used. -/

/-- A line that the LLC has just taken in. -/
def LlcLine.fresh (time : Word) : LlcLine :=
  { valid := 0, dirty := 0, cmp := false, packed := false, hot := false, since := time, used := 0 }

/-- Whether a write-back stores a line compressed (04 R78): its page is compressed, and its hot bit is clear or it has been idle for
HOTIDLE cycles of 0.625 ns. -/
def LlcLine.packs (l : LlcLine) (k : LlcClock) : Bool :=
  l.cmp && (!l.hot || 5 * k.hotidle.toNat ≤ 8 * (k.time - l.since).toNat)

/-- The length metadata of a line after its write-back (04 R65, R77). -/
def Caches.storeLine (c : Caches) (k : LlcClock) (line : Nat) (l : LlcLine) : Caches :=
  if l.dirty = 0 then c
  else { c with lengths := smSet 4 c.lengths line (if l.packs k then (Config.packedSectors c.ticks).toNat + 1 else 4) }

/-- Whether two lines lie in one set of one LLC slice. -/
def sameLlcSet (a b : Nat) : Bool := a / 2 ^ 27 == b / 2 ^ 27 && Config.llcSet a == Config.llcSet b

/-- The least recently used entry of a list. -/
def leastUsed {α : Type} (used : α → Nat) : List (Nat × α) → Option (Nat × α)
  | [] => none
  | p :: ps =>
    match leastUsed used ps with
    | none => some p
    | some q => if used q.2 < used p.2 then some q else some p

/-- Room for one more line in its LLC set: a 25th line evicts the least recently used one, written back where it is dirty. L2 copies
stay (04 R72). -/
def Caches.llcRoom (c : Caches) (k : LlcClock) (line : Nat) : Caches :=
  let set := c.llc.filter (fun p => sameLlcSet p.1 line)
  if set.length < 24 then c
  else
    match leastUsed LlcLine.used set with
    | none => c
    | some v => { c.storeLine k v.1 v.2 with llc := smErase c.llc v.1 }

/-- Whether a line is stored compressed in HBM (04 R65, R77). -/
def Caches.storedPacked (c : Caches) (line : Nat) : Bool := smGet 4 c.lengths line != 4

/-- Chunks of a line read from the LLC, which fetches from HBM what it lacks (04 R73): a line of a compressed page, and one stored
compressed whatever the access says of its page, comes in its whole stored form, in which the LLC holds it. -/
def Caches.llcFetch (c : Caches) (k : LlcClock) (line : Nat) (chunks : BitVec 16) (cmp : Bool) : Caches :=
  let whole := cmp || c.storedPacked line
  match smFind c.llc line with
  | some l =>
    let v := if chunks &&& ~~~l.valid = 0 then l.valid else if whole then BitVec.allOnes 16 else l.valid ||| chunks
    { c with llc := smPut c.llc line { l with valid := v, used := c.ticks } }
  | none =>
    let c1 := c.llcRoom k line
    { c1 with llc := smPut c1.llc line { LlcLine.fresh k.time with
        valid := if whole then BitVec.allOnes 16 else chunks
        cmp := cmp
        packed := c.storedPacked line
        used := c.ticks } }

/-- Chunks of a line written into the LLC (04 R77, R78): an atomic expands a line held compressed and sets its hot bit; a write of a
compressed page keeps the line compressed unless it is hot. -/
def Caches.llcStore (c : Caches) (k : LlcClock) (line : Nat) (chunks : BitVec 16) (cmp atomic : Bool) : Caches :=
  let c1 := c.llcFetch k line chunks cmp
  let l := smGet (LlcLine.fresh k.time) c1.llc line
  let hot := l.hot || (atomic && l.packed)
  { c1 with llc := smPut c1.llc line { l with
      dirty := l.dirty ||| chunks, cmp := cmp, hot := hot, packed := cmp && !atomic && !hot, since := k.time } }

/-! The L2 slices, the directory and the L1s (04 R72 to R75). -/

/-- The lines of a cluster's L2. -/
def Caches.l2Of (c : Caches) (cl : Nat) : SMap L2Line := smGet [] c.l2 cl

/-- The directory entry of a line. -/
def Caches.entry (c : Caches) (line : Nat) : DirEntry := smGet DirEntry.empty c.dir line

/-- The L1s of a cluster without some sectors of a line of 512 bytes. -/
def dropL1 (l1 : SMap (SMap L1Line)) (cl line : Nat) (sectors : List Nat) : SMap (SMap L1Line) :=
  l1.map (fun p => if p.1 / 8 == cl then (p.1, p.2.filter (fun q => !(q.1 / 4 == line && sectors.contains (q.1 % 4)))) else p)

/-- A cluster's copy of a line replaced (none: the line leaves the L2): the directory notes the states of its sectors, and a sector that
becomes Invalid leaves every L1 of the cluster (04 R72). -/
def Caches.setL2 (c : Caches) (cl line : Nat) (l : Option L2Line) : Caches :=
  let l := match l with | some x => if x.live then some x else none | none => none
  let m := c.l2Of cl
  let old := smFind m line
  let st := fun (x : Option L2Line) (j : Nat) => match x with | some x => x.sector j | none => Sector.invalid
  let gone := [0, 1, 2, 3].filter (fun j => st old j != .invalid && st l j == .invalid)
  { c with
    l2 := smSet [] c.l2 cl (match l with | some x => smPut m line x | none => smErase m line)
    dir := smSet DirEntry.empty c.dir line ([0, 1, 2, 3].foldl (fun e j => e.note cl j (st l j)) (c.entry line))
    l1 := if gone.isEmpty then c.l1 else dropL1 c.l1 cl line gone }

/-- The dirty chunks of some sectors of an L2 line written back to the LLC. -/
def Caches.writeBack (c : Caches) (k : LlcClock) (line : Nat) (l : L2Line) (mask : BitVec 16) : Caches :=
  if l.dirty &&& mask = 0 then c else c.llcStore k line (l.dirty &&& mask) l.cmp false

/-- A cluster's copy of a sector invalidated, its dirty chunks written back first. -/
def Caches.invalidate (c : Caches) (k : LlcClock) (line sector cl : Nat) : Caches :=
  match smFind (c.l2Of cl) line with
  | none => c
  | some l => (c.writeBack k line l (sectorMask sector)).setL2 cl line (some (l.drop sector))

/-- A cluster's copy of a sector left Shared and clean. -/
def Caches.demote (c : Caches) (k : LlcClock) (line sector cl : Nat) : Caches :=
  match smFind (c.l2Of cl) line with
  | none => c
  | some l => (c.writeBack k line l (sectorMask sector)).setL2 cl line (some (l.share sector))

/-- The slices other than cl that the directory names for a sector. -/
def Caches.others (c : Caches) (line sector cl : Nat) : List Nat :=
  (List.range 80).filter (fun i => i != cl && ((c.entry line).heldBy sector).getLsbD i)

/-- Every copy of a sector outside cluster cl invalidated. -/
def Caches.claim (c : Caches) (k : LlcClock) (line sector cl : Nat) : Caches :=
  (c.others line sector cl).foldl (fun c i => c.invalidate k line sector i) c

/-- An owner of a sector outside cluster cl left Shared. -/
def Caches.unown (c : Caches) (k : LlcClock) (line sector cl : Nat) : Caches :=
  match (c.entry line).ownerOf sector with
  | some i => if i == cl then c else c.demote k line sector i
  | none => c

/-- The L2 set of a line of 512 bytes (04 Table 04.4). -/
def l2Set (line : Nat) : Nat :=
  let ssa := line % 2 ^ 27
  (ssa % 1024) ^^^ (ssa / 1024 % 1024)

/-- The sixteen ways. -/
def l2Ways : List Nat := [0, 1, 2, 3, 4, 5, 6, 7, 8, 9, 10, 11, 12, 13, 14, 15]

/-- A free way of a set, room made by evicting the lowest-numbered way of age 0 (04 R75); fuel 4 covers the four ages. -/
def Caches.l2Room (c : Caches) (k : LlcClock) (cl set : Nat) : Nat → Nat × Caches
  | 0 => (0, c)
  | n + 1 =>
    let ls := (c.l2Of cl).filter (fun p => l2Set p.1 == set)
    match l2Ways.find? (fun w => ls.all (fun p => p.2.way != w)) with
    | some w => (w, c)
    | none =>
      match l2Ways.findSome? (fun w => ls.find? (fun p => p.2.way == w && p.2.age == 0)) with
      | some v => (v.2.way, (c.writeBack k v.1 v.2 (BitVec.allOnes 16)).setL2 cl v.1 none)
      | none =>
        let m := (c.l2Of cl).map (fun p => if l2Set p.1 == set then (p.1, { p.2 with age := p.2.age - 1 }) else p)
        Caches.l2Room { c with l2 := smSet [] c.l2 cl m } k cl set n

/-- A line of a cluster's L2 changed by a fill at age n: put into a free way if it is not there. A fill of a further sector or chunk of a
line that is there sets its age to n too (DESIGN CHOICE, log entry 104: 04 R75 speaks of inserting a line). -/
def Caches.fillL2 (c : Caches) (k : LlcClock) (cl line n : Nat) (f : L2Line → L2Line) : Caches :=
  match smFind (c.l2Of cl) line with
  | some l => c.setL2 cl line (some { f l with age := n })
  | none =>
    let r := c.l2Room k cl (l2Set line) 4
    r.2.setL2 cl line (some (f (l2Empty r.1 n)))

/-- The age of a line after a hit (04 R75). -/
def hitAge (al : Alloc) (old : Nat) : Nat := match al with | .age _ => 3 | .none => old

/-- The chunks of a sector that its owner holds, as seen from cluster cl (80: from the home LLC). -/
def Caches.ownerHas (c : Caches) (line sector cl : Nat) : BitVec 16 :=
  match (c.entry line).ownerOf sector with
  | some i => if i == cl then 0 else match smFind (c.l2Of i) line with | some l => l.valid &&& sectorMask sector | none => 0
  | none => 0

/-- Chunks of a sector served without allocation (04 R75): by the owning slice as far as it holds them, else by the LLC. -/
def Caches.serve (c : Caches) (k : LlcClock) (cl line sector : Nat) (chunks : BitVec 16) (cmp : Bool) : Caches :=
  let rest := chunks &&& ~~~(c.ownerHas line sector cl)
  if rest = 0 then c else c.llcFetch k line rest cmp

/-- A read of chunks of one sector in the L2 of a cluster (04 R72, R73, R75): a miss that allocates takes the sector Shared, or Exclusive
when no other slice holds it; one that does not is served by the owner or the LLC. A read of which a chunk is missing is a miss (DESIGN
CHOICE, log entry 105). -/
def Caches.readL2 (c : Caches) (k : LlcClock) (cl line sector : Nat) (chunks : BitVec 16) (cmp : Bool) (al : Alloc) : Caches :=
  let old := smFind (c.l2Of cl) line
  let valid := match old with | some l => if l.sector sector == .invalid then 0 else l.valid | none => 0
  match old with
  | some l =>
    if chunks &&& ~~~valid = 0 then c.setL2 cl line (some { l with age := hitAge al l.age })
    else
      match al with
      | .none => c.serve k cl line sector (chunks &&& ~~~valid) cmp
      | .age n =>
        let c1 := (c.unown k line sector cl).llcFetch k line (chunks &&& ~~~valid) cmp
        let st := if l.sector sector != .invalid then l.sector sector
          else if (c1.others line sector cl).isEmpty then .exclusive else .shared
        c1.fillL2 k cl line n (fun l => l.fill sector st chunks)
  | none =>
    match al with
    | .none => c.serve k cl line sector chunks cmp
    | .age n =>
      let c1 := (c.unown k line sector cl).llcFetch k line chunks cmp
      let st := if (c1.others line sector cl).isEmpty then Sector.exclusive else .shared
      c1.fillL2 k cl line n (fun l => l.fill sector st chunks)

/-- A write of one chunk in the L2 of a cluster (04 R72, R75): every other copy is invalidated; a chunk written in part is filled
first; without allocation a miss writes the LLC. -/
def Caches.writeL2 (c : Caches) (k : LlcClock) (cl line sector : Nat) (chunk : BitVec 16) (cmp : Bool) (p : Path) : Caches :=
  let c1 := c.claim k line sector cl
  let old := smFind (c1.l2Of cl) line
  let hit := match old with | some l => l.sector sector != .invalid && (l.valid &&& chunk) != 0 | none => false
  match old, hit, p.alloc with
  | some l, true, al => c1.setL2 cl line (some { l.write sector chunk cmp with age := hitAge al l.age })
  | _, _, .none => c1.llcStore k line chunk cmp false
  | _, _, .age n =>
    let c2 := if p.whole then c1 else c1.llcFetch k line chunk cmp
    c2.fillL2 k cl line n (fun l => l.write sector chunk cmp)

/-- A write at the home LLC (05 R94, 16 R341): every L2 copy of the sector is invalidated first. -/
def Caches.writeHome (c : Caches) (k : LlcClock) (key : Nat) (cmp atomic : Bool) : Caches :=
  let line := key / 512
  (c.claim k line (key / 128 % 4) 80).llcStore k line (chunkBit key) cmp atomic

/-- A read at the home LLC: an owner of the sector serves it, else the LLC. -/
def Caches.readHome (c : Caches) (k : LlcClock) (key : Nat) (cmp : Bool) : Caches :=
  c.serve k 80 (key / 512) (key / 128 % 4) (chunkBit key) cmp

/-- An atomic (05 R94): in the issuing cluster's L2 where it holds the sector Modified, else at the home LLC. -/
def Caches.atomicAt (c : Caches) (k : LlcClock) (cl key : Nat) (cmp : Bool) (p : Path) : Caches :=
  match smFind (c.l2Of cl) (key / 512) with
  | some l =>
    if l.sector (key / 128) == .modified then c.writeL2 k cl (key / 512) (key / 128 % 4) (chunkBit key) cmp p
    else c.writeHome k key cmp true
  | none => c.writeHome k key cmp true

/-- The L1 of a core. -/
def Caches.l1Of (c : Caches) (core : Nat) : SMap L1Line := smGet [] c.l1 core

/-- The chunk of a key as a bit of its L1 line of 128 bytes. -/
def l1Bit (key : Nat) : BitVec 4 := 1#4 <<< (key / 32 % 4)

/-- Whether the L1 of a core holds the chunk of a key. -/
def Caches.l1Hit (c : Caches) (core key : Nat) : Bool :=
  match smFind (c.l1Of core) (key / 128) with
  | some l => (l.valid &&& l1Bit key) != 0
  | none => false

/-- A line of an L1 used. -/
def Caches.l1Use (c : Caches) (core key : Nat) : Caches :=
  match smFind (c.l1Of core) (key / 128) with
  | some l => { c with l1 := smPut c.l1 core (smPut (c.l1Of core) (key / 128) { l with used := c.ticks }) }
  | none => c

/-- The chunks of a sector that the cluster's L2 holds put into the L1 of a core (04 R71, R72, R74): 32 sets, least recently used. -/
def Caches.l1Fill (c : Caches) (core ways key : Nat) : Caches :=
  let line := key / 128
  match smFind (c.l2Of (core / 8)) (key / 512) with
  | none => c
  | some l =>
    let held : BitVec 4 := if l.sector line == .invalid then 0 else (l.valid >>> (4 * (line % 4))).setWidth 4
    if held = 0 || ways = 0 then c
    else
      let m := c.l1Of core
      let set := m.filter (fun p => p.1 % 32 == line % 32 && p.1 != line)
      let m1 := if set.length < ways then m
        else match leastUsed L1Line.used set with | some v => smErase m v.1 | none => m
      { c with l1 := smPut c.l1 core (smPut m1 line { used := c.ticks, valid := held }) }

/-- A load through a core's L1 and its cluster's L2 (04 R73, R74). -/
def Caches.load (c : Caches) (k : LlcClock) (core ways key : Nat) (cmp : Bool) (p : Path) : Caches :=
  if p.l1 && ways != 0 && c.l1Hit core key then c.l1Use core key
  else
    let chunks := if p.gather then chunkBit key else sectorMask (key / 128)
    let c1 := c.readL2 k (core / 8) (key / 512) (key / 128 % 4) chunks cmp p.alloc
    if p.l1 then c1.l1Fill core ways key else c1

/-- A store, written through a core's L1 to its cluster's L2 (04 R72, R74). -/
def Caches.store (c : Caches) (k : LlcClock) (core key : Nat) (cmp : Bool) (p : Path) : Caches :=
  (if p.l1 then c.l1Use core key else c).writeL2 k (core / 8) (key / 512) (key / 128 % 4) (chunkBit key) cmp p

/-- A write-back of an LLC line that stays in the LLC (04 R78): stored expanded, it loses its hot bit. -/
def Caches.llcWriteBack (c : Caches) (k : LlcClock) (line : Nat) : Caches :=
  match smFind c.llc line with
  | none => c
  | some l =>
    if l.dirty = 0 then c
    else
      { c.storeLine k line l with
        llc := smPut c.llc line { l with dirty := 0, packed := l.packs k, hot := l.hot && l.packs k }
        ticks := c.ticks + 1 }

end Sys2Proof.Machine
end

