-- ==== Sys2Proof/Machine/Mem.lean ====
section
/-! DEFINITION. Memory: physical addresses and homes (04 R67 to R70), page walks and TLBs (R83 to R87), protected areas, caches
(R71 to R75), poison (R66), and the reads and writes that every instruction goes through. -/

namespace Sys2Proof.Machine

/-- Where a physical address leads (04 Table 04.2). mem: a byte of HBM of the own package; scr: a scratchpad byte. -/
inductive Target where
  | mem (key : Nat)
  | scr (core off : Nat) (packageWindow : Bool)
  | span (p : Nat) (off : Nat)
  | host (addr : Nat)
  | hole
  deriving DecidableEq, Repr

/-- The kind of an access (04 Table 04.3, R86). hostOk: an atomic that the host window admits. -/
inductive AKind where
  | fetch | load | store
  | atomic (hostOk : Bool)
  | copyLoad | copyStore
  deriving DecidableEq, Repr

/-- Whether the access writes. -/
def AKind.writes (k : AKind) : Bool :=
  match k with
  | .store => true
  | .atomic _ => true
  | .copyStore => true
  | _ => false

/-- Whether the access is made by the copy engine. -/
def AKind.copies (k : AKind) : Bool :=
  match k with
  | .copyLoad => true
  | .copyStore => true
  | _ => false

/-- The page-fault cause of a kind (04 R86). -/
def AKind.cause (k : AKind) : Cause :=
  match k with
  | .fetch => .fetch
  | .load => .loadpf
  | .copyLoad => .loadpf
  | _ => .storepf

/-- A page fault with its reason (04 R86, Table 04.6). -/
def AKind.fault (k : AKind) (va : Word) (reason : Nat) : Trap := { cause := k.cause, tval := va, tval2 := word reason }

/-- The key of a byte of HBM by stack and storage address (04 R67). -/
def hbmKey (stack ssa : Nat) : Nat := stack * 2 ^ 36 + ssa

/-- The key of a scratchpad byte. -/
def scrKey (core off : Nat) : Nat := 2 ^ 52 + core * 2 ^ 20 + off

/-- The key of a host byte. -/
def hostKey (a : Nat) : Nat := 2 ^ 53 + a

/-- The key of a byte of another package's HBM. -/
def spanKey (p key : Nat) : Nat := (p + 1) * 2 ^ 41 + key

/-- The memory windows below 2^40 of a package: the interleaved window and the stack-local windows (04 Table 04.2, R68). -/
def windowKey (pa : Nat) : Option Nat :=
  if pa < 0x6000000000 then some (hbmKey (pa / 4096 % 8) (pa / 32768 * 4096 + pa % 4096))
  else if 0x8000000000 ≤ pa && pa < 0x10000000000 then
    let off := pa - 0x8000000000
    if off % 2 ^ 36 < 0xC00000000 then some (hbmKey (off / 2 ^ 36) (off % 2 ^ 36)) else none
  else none

/-- The map of Table 04.2, for an access by a core. Addresses between the span window and the host window stand in no row of the table: they
lead nowhere, as a hole does (DESIGN CHOICE, log entry 116). -/
def paTarget (core pa : Nat) : Target :=
  if pa < 0x10000000000 then (match windowKey pa with | some k => .mem k | none => .hole)
  else if pa < 0x10000100000 then .scr core (pa - 0x10000000000) false
  else if 0x10100000000 ≤ pa && pa < 0x10100800000 then
    .scr (8 * (core / 8) + (pa - 0x10100000000) / 2 ^ 20) ((pa - 0x10100000000) % 2 ^ 20) false
  else if 0x14000000000 ≤ pa && pa < 0x14000000000 + 640 * 2 ^ 20 then
    .scr ((pa - 0x14000000000) / 2 ^ 20) ((pa - 0x14000000000) % 2 ^ 20) true
  else if 0x4000000000000 ≤ pa && pa < 0x4000000000000 + 729 * 2 ^ 40 then
    .span ((pa - 0x4000000000000) / 2 ^ 40) ((pa - 0x4000000000000) % 2 ^ 40)
  else if 0x8000000000000 ≤ pa then .host (pa - 0x8000000000000)
  else .hole

/-- The stack of an HBM key of the own package. -/
def stackOfKey (key : Nat) : Nat := key / 2 ^ 36

/-- The core of a scratchpad key, and the offset in its scratchpad. -/
def scrOfKey (key : Nat) : Nat × Nat := ((key - 2 ^ 52) / 2 ^ 20, (key - 2 ^ 52) % 2 ^ 20)

/-- The physical address of a key (04 Table 04.2): in the stack-local windows, the package scratchpad window, the span window or the host
window. -/
def paOfKey (key : Nat) : Nat :=
  if key < 2 ^ 39 then 0x8000000000 + key
  else if key < 2 ^ 52 then 0x4000000000000 + (key / 2 ^ 41 - 1) * 2 ^ 40 + 0x8000000000 + key % 2 ^ 41
  else if key < 2 ^ 53 then 0x14000000000 + (key - 2 ^ 52)
  else 0x8000000000000 + (key - 2 ^ 53)

/-- Whether a key is a byte of the own package's HBM. -/
def isHbm (key : Nat) : Bool := key < 2 ^ 39

/-! Routes to other packages (10 R240, 01 R10) and the sending half of a link (16 R347). -/

/-- A link port of the package. -/
def getPort (s : State) (q : Nat) : Port := smGet Port.reset s.ports q

/-- The state with a port changed. -/
def putPort (s : State) (q : Nat) (p : Port) : State := { s with ports := smPut s.ports q p }

/-- The coordinate of a package in a dimension (01 R10). -/
def coordOf (p d : Nat) : Nat := p / 9 ^ d % 9

/-- The package with one coordinate replaced. -/
def withCoord (p d v : Nat) : Nat := p - coordOf p d * 9 ^ d + v * 9 ^ d

/-- The package at the other end of a port (01 R10). -/
def portPeer (q : Nat) : Nat :=
  let d := q / 8
  let p := Config.pkg.toNat
  withCoord p d ((coordOf p d + q % 8 + 1) % 9)

/-- Whether a package of the span is at the other end of a port; else the port reports link-down (01 R10). -/
def portJoined (s : State) (q : Nat) : Bool := s.span.contains (portPeer q)

/-- The ports taken from package a to package b in an order of dimensions, each with the package that it leads to. -/
def hops : List Nat → Nat → Nat → List (Nat × Nat)
  | [], _, _ => []
  | d :: ds, a, b =>
    let u := coordOf a d
    let v := coordOf b d
    if u = v then hops ds a b else (8 * d + (v + 8 - u) % 9, withCoord a d v) :: hops ds (withCoord a d v) b

/-- The orders of dimensions, in the sequence of R240. -/
def hopOrders : List (List Nat) := [[0, 1, 2], [0, 2, 1], [1, 0, 2], [1, 2, 0], [2, 0, 1], [2, 1, 0]]

/-- Whether every hop of a route from a package on meets a package that is present over a link that is up: a link of this package as its port
says, one between two others as a free value has it (log entry 129). -/
def hopsWork (s : State) : Nat → List (Nat × Nat) → Bool
  | _, [] => true
  | a, h :: hs =>
    s.span.contains h.2 &&
      (if a == Config.pkg.toNat then (getPort s h.1).lanes != 0 else !Config.farLinkDown s.steps a h.1) && hopsWork s h.2 hs

/-- Whether a route from this package works (10 R240). -/
def routeWorks (s : State) (r : List (Nat × Nat)) : Bool := hopsWork s Config.pkg.toNat r

/-- The route to another package: none where no order works (10 R240). -/
def routeTo (s : State) (p : Nat) : Option (List (Nat × Nat)) :=
  (hopOrders.map (fun o => hops o Config.pkg.toNat p)).find? (routeWorks s)

/-- The port on which traffic to a package leaves. -/
def portTo (s : State) (p : Nat) : Option Nat := (routeTo s p).bind (fun r => r.head?.map (fun h => h.1))

/-- Bytes 7:0 of a flit of a class (16 Table 16.4). -/
def flitHead (t : Port) (cls : Nat) : BitVec 64 :=
  let cred := ((List.range 4).map (fun c => min 255 (t.owed.getD c 0) * 256 ^ c)).sum
  BitVec.ofNat 64 (t.txSeq.toNat + cls * 2 ^ 12 + t.rxLast.toNat * 2 ^ 16 + (if t.nakOut then 2 ^ 28 else 0) + cred * 2 ^ 32)

/-- The generator polynomial of ECMA-182, its highest power left out. -/
def crcPoly : BitVec 64 := 0x42F0E1EBA9EA3693#64

/-- A CRC-64 with one byte more, most significant bit first (PRESUMED, log entry 51). -/
def crcByte (c : BitVec 64) (b : Byte) : BitVec 64 :=
  (List.range 8).foldl (fun c _ => if c.msb then (c <<< 1) ^^^ crcPoly else c <<< 1) (c ^^^ (b.setWidth 64 <<< 56))

/-- The CRC-64 of a flit's bytes 247:0 (16 Table 16.4), from 0 on (PRESUMED, log entry 51). -/
def crcOf (head : BitVec 64) (payload : List Byte) : BitVec 64 :=
  (((List.range 8).map (fun i => BitVec.ofNat 8 (head.toNat / 256 ^ i))) ++ payload).foldl crcByte 0

/-- Bytes of a flit's payload. -/
def payloadBytes : Nat := 240

/-- The flit that a class fills at a port. -/
def Port.open (t : Port) (cls : Nat) : OpenFlit := smGet { bytes := [], what := [] } t.filling cls

/-- The port with the flit that a class fills as given. -/
def Port.setOpen (t : Port) (cls : Nat) (f : OpenFlit) : Port := { t with filling := smSet { bytes := [], what := [] } t.filling cls f }

/-- A flit of a class sent at a port with some payload, at step n, and kept until it is acknowledged: its header acknowledges what has come
and returns credits. Behind what it carries the manual gives no bytes (log entry 51). -/
def portSend (n : Nat) (t : Port) (cls : Nat) (f : OpenFlit) : Port :=
  let head := flitHead t cls
  let payload := f.bytes ++ ((List.range payloadBytes).drop f.bytes.length).map (fun i => Config.linkByte n i)
  { t.setOpen cls { bytes := [], what := [] } with
    txSeq := t.txSeq + 1, unacked := t.unacked ++ [{ head := head, payload := payload, crc := crcOf head payload, what := f.what }]
    toAck := 0, nakOut := false, owed := t.owed.map (fun n => n - 255) }

/-- The bytes of a record placed behind what its class's flit holds, continuing at byte 8 of the next one (16 R347); the first argument
bounds the flits. The flit that carries its last byte names it. -/
def packRecord (n cls : Nat) (what : FlitFor) : Nat → List Byte → Port → Port
  | 0, _, t => t
  | k + 1, bs, t =>
    let o := t.open cls
    let room := payloadBytes - o.bytes.length
    if bs.length < room then t.setOpen cls { bytes := o.bytes ++ bs, what := o.what ++ [what] }
    else
      let done := if bs.length = room then o.what ++ [what] else o.what
      let t1 := portSend n t cls { bytes := o.bytes ++ bs.take room, what := done }
      if bs.length = room then t1 else packRecord n cls what k (bs.drop room) t1

/-- A flit that holds something sent as it is. -/
def portFlush (n : Nat) (t : Port) (cls : Nat) : Port := if (t.open cls).bytes.isEmpty then t else portSend n t cls (t.open cls)

/-- Whether what ends in a flit is data of a context's copy. -/
def FlitFor.copyOf (f : FlitFor) (ctx : Nat) : Bool := match f with | .copy c _ => c == ctx | _ => false

/-- A chunk of a copy's data placed in the flit that class 1 fills: a tag of 16 bytes, then up to 7 chunks of one copy (16 Table 16.4). The
chunk comes with the number of its first byte in the command; a flit names that of its first chunk. -/
def packChunk (n ctx : Nat) (t : Port) (c : Nat × List Byte) : Port :=
  let t1 := if !(t.open 1).what.isEmpty && (t.open 1).what.all (fun f => f.copyOf ctx) then t else portFlush n t 1
  let o := t1.open 1
  let tag := if o.bytes.isEmpty then (List.range 16).map (fun i => Config.linkByte n (payloadBytes + i)) else []
  let f : OpenFlit := { bytes := o.bytes ++ tag ++ c.2, what := if o.what.isEmpty then [.copy ctx c.1] else o.what }
  if f.bytes.length < payloadBytes then t1.setOpen 1 f else portSend n t1 1 f

/-- What a port has not had acknowledged, or has not yet sent, in order. -/
def Port.unsure (p : Port) : List FlitFor := p.unacked.flatMap (fun f => f.what) ++ p.filling.flatMap (fun o => o.2.what)

/-- Whether data of a context's copy may still be lost on a link (16 R349). -/
def copyUnsure (s : State) (ctx : Nat) : Bool := s.ports.any (fun p => p.2.unsure.any (fun f => f.copyOf ctx))

/-- The most flits that n bytes of a class make up at a port: of a copy's data those of whole chunks, with one to end another copy's and one to
end its own. -/
def flitsOf (t : Port) (cls n : Nat) : Nat :=
  if cls = 1 then ((t.open 1).bytes.length / 32 + (n + 31) / 32) / 7 + 2 else max 1 (((t.open cls).bytes.length + n) / payloadBytes)

/-- Whether the port toward a package cannot take n bytes of a class now: 512 flits are unacknowledged or would be, or it is retraining. -/
def linkStalled (s : State) (p cls n : Nat) : Bool :=
  match portTo s p with
  | none => false
  | some q => let t := getPort s q; t.training.isSome || 512 < t.unacked.length + flitsOf t cls n

/-- A record of a class sent toward a package. -/
def linkSend (s : State) (p cls : Nat) (bytes : List Byte) (f : FlitFor) : State :=
  match portTo s p with
  | none => s
  | some q => putPort s q (packRecord s.steps cls f (bytes.length + 1) bytes (getPort s q))

/-- The bytes of a record of which the manual gives no layout (log entry 51). -/
def plainRecord (s : State) (n : Nat) : List Byte := (List.range n).map (fun i => Config.linkByte s.steps (512 + i))

/-- The package of a key outside the own package's HBM, if it lies in another one. -/
def pkgOfKey (key : Nat) : Option Nat := if 2 ^ 41 ≤ key && key < 2 ^ 52 then some (key / 2 ^ 41 - 1) else none

/-- Whether the host window admits a kind of access (04 Table 04.3). -/
def AKind.hostOk (k : AKind) : Bool :=
  match k with
  | .fetch => false
  | .atomic ok => ok
  | _ => true

/-- What the host answers for a page (16 R341): what it said last, or, where it has said nothing, a free value. -/
def hostRight (s : State) (page : Nat) : Option Bool :=
  match s.rights.find? (fun r => r.page ≤ page && page < r.page + r.pages) with
  | some r => r.right
  | none => Config.hostRight page

/-- Whether the host admits an access to its memory (04 R86, 16 R341): by the translation that the hub holds, or by the one that it asks
for. While the host port is down nothing is admitted. -/
def hostAdmits (s : State) (a : Nat) (write : Bool) : Bool :=
  s.boot.hostUp &&
  (match s.ats.find? (fun e => e.page == a / 4096) with
   | some e => !write || e.write
   | none => match hostRight s (a / 4096) with | some w => !write || w | none => false)

/-- Checks an access at a physical address against 04 Table 04.3 and R69, R70, and gives the key of its first byte. -/
def resolve (s : State) (core : Nat) (va : Word) (pa : Nat) (k : AKind) : Except Trap Nat :=
  match paTarget core pa with
  | .hole => .error (k.fault va 2)
  | .mem key => if s.boot.fenced.getLsbD (stackOfKey key) then .error (k.fault va 2) else .ok key
  | .scr c off pkgWin =>
    if !k.copies && (pkgWin || k == .fetch) then .error (k.fault va 5)
    else if scratchBytes s c ≤ off then .error (k.fault va 2) else .ok (scrKey c off)
  | .span p off =>
    match k with
    | .fetch => .error { cause := .spanaddr, tval := va, tval2 := word p }
    | .load => .error { cause := .spanaddr, tval := va, tval2 := word p }
    | .store => .error { cause := .spanaddr, tval := va, tval2 := word p }
    | _ =>
      match windowKey off with
      | none => .error (k.fault va 2)
      | some key =>
        if p == Config.pkg.toNat then
          (if s.boot.fenced.getLsbD (stackOfKey key) then .error (k.fault va 2) else .ok key)
        else if (routeTo s p).isSome && s.span.contains p then .ok (spanKey p key) else .error (k.fault va 2)
  | .host a => if k.hostOk && hostAdmits s a k.writes then .ok (hostKey a) else .error (k.fault va 3)

/-- A byte of memory; what nothing has written reads as zero (16 R358; log entries 3, 5). -/
def memByte (s : State) (key : Nat) : Byte := smGet 0 s.mem key

/-- n bytes from a key as a little-endian number (00 R2). -/
def memNat (s : State) (key : Nat) : Nat → Nat
  | 0 => 0
  | n + 1 => memNat s key n + (memByte s (key + n)).toNat * 256 ^ n

/-- Whether a key is a byte of a scratchpad. -/
def isScratch (key : Nat) : Bool := 2 ^ 52 ≤ key && key < 2 ^ 53

/-- The bytes that are poisoned together: a word of 8 bytes in a scratchpad (04 R82), a chunk of 32 bytes elsewhere (R66). -/
def poisonSpan (key : Nat) : Nat := if isScratch key then 8 else 32

/-- The number under which the poison of a key is kept. -/
def poisonUnit (key : Nat) : Nat := if isScratch key then 2 ^ 60 + key / 8 else key / 32

/-- The chunk or word of a key is poisoned (04 R66, 15 R334). -/
def isPoisoned (s : State) (key : Nat) : Bool := (smFind s.poison (poisonUnit key)).isSome

/-- The state with the chunk or word of a key poisoned. -/
def poisonChunk (s : State) (key : Nat) : State :=
  { s with poison := smPut s.poison (poisonUnit key) { writer := 0, bits := 0 } }

/-- Masked bits of a written byte noted in the poison of its chunk or word: the poison goes when one writer has replaced all of it (04 R66, 05 R91, 15 R334; log
entry 27). Writer 0 is a write of at most 8 bytes that is part of nothing larger. -/
def replacePoison (s : State) (writer key : Nat) (mask : Byte) : State :=
  let u := poisonUnit key
  match smFind s.poison u with
  | none => s
  | some r =>
    let n := poisonSpan key
    let old : BitVec 256 := if (writer != 0 || n == 8) && r.writer == writer then r.bits else 0
    let b := old ||| (mask.setWidth 256 <<< (8 * (key % n)))
    if b.toNat + 1 = 2 ^ (8 * n) then { s with poison := smErase s.poison u }
    else { s with poison := smPut s.poison u { writer := writer, bits := b } }

/-- Writes the masked bits of one byte (05 R100). -/
def putMasked (s : State) (writer : Nat) (b : MaskedByte) : State :=
  let old := memByte s b.key
  let v := (old &&& ~~~b.mask) ||| (b.val &&& b.mask)
  replacePoison { s with mem := smSet 0 s.mem b.key v } writer b.key b.mask

/-- Writes several bytes in order. -/
def putAll (s : State) (writer : Nat) (bs : List MaskedByte) : State := bs.foldl (fun s b => putMasked s writer b) s

/-- A write over chunks of which some stay poisoned is logged (15 R334). -/
def notePartial (s : State) (keys : List Nat) : State :=
  match keys.find? (isPoisoned s) with
  | some k => uncorrectable s (word (paOfKey k))
  | none => s

/-- Writes several bytes as one write: what it leaves poisoned is logged (15 R334). -/
def writeAll (s : State) (writer : Nat) (bs : List MaskedByte) : State :=
  notePartial (putAll s writer bs) (bs.map (fun b => b.key))

/-- The writer of a context's scalar stores, which together may replace a chunk (05 R91). -/
def scalarWriter (ctx : Nat) : Nat := 2 ^ 59 + ctx

/-- The n low bytes of a number as whole-byte writes from a key on. -/
def bytesAt (key v : Nat) : Nat → List MaskedByte
  | 0 => []
  | n + 1 => { key := key, mask := 0xFF, val := BitVec.ofNat 8 v } :: bytesAt (key + 1) (v / 256) n

/-- Writes n bytes of a number from a key on, as part of a larger write. -/
def putNat (s : State) (writer key v n : Nat) : State := putAll s writer (bytesAt key v n)

/-- Writes n bytes of a number from a key on. -/
def writeNat (s : State) (writer key v n : Nat) : State := writeAll s writer (bytesAt key v n)

/-- What a write-back decision reads. -/
def llcClock (s : State) : LlcClock := { time := s.time, hotidle := s.hotidle }

/-- A write of an agent that works at the home LLC, noted in the caches (04 R72, R78, 16 R341); cmp: the CMP attribute of the access, which
for one that passes no leaf entry is 0 (DESIGN CHOICE, log entry 106: 04 R79 does not say). -/
def homeWritten (s : State) (key : Nat) (cmp atomic : Bool) : State :=
  if isHbm key then
    let c := s.caches
    { s with caches := { c.writeHome (llcClock s) key cmp atomic with ticks := c.ticks + 1 } }
  else s

/-- A read of such an agent. -/
def homeRead (s : State) (cmp : Bool) (key : Nat) : State :=
  if isHbm key then
    let c := s.caches
    { s with caches := { c.readHome (llcClock s) key cmp with ticks := c.ticks + 1 } }
  else s

/-- An 8-byte page-table entry read by a walk (04 R84): the key that it is read at, if it is read, and its value with its key. Tables lie in the
own package's HBM. -/
def readPte (s : State) (va : Word) (k : AKind) (pa : Nat) : List Nat × Except Trap (Nat × Nat) :=
  match windowKey pa with
  | none => ([], .error (k.fault va 2))
  | some key =>
    if s.boot.fenced.getLsbD (stackOfKey key) then ([], .error (k.fault va 2))
    else if isPoisoned s key then ([key], .error { cause := .poison, tval := va, tval2 := 0 })
    else ([key], .ok (memNat s key 8, key))

/-- A level of a walk (04 Table 04.10): lowest index bit, index bits, alignment of the next table, whether a leaf may stand. -/
structure Level where
  low   : Nat
  bits  : Nat
  align : Nat
  leaf  : Bool
  deriving DecidableEq, Repr

/-- The four levels, in the order that they are read. -/
def levels : List Level :=
  [{ low := 43, bits := 13, align := 65536, leaf := false }, { low := 30, bits := 13, align := 4096, leaf := true },
   { low := 21, bits := 9, align := 256, leaf := true }, { low := 16, bits := 5, align := 0, leaf := true }]

/-- What a walk finds: the leaf entry, its key, and the size of its page in address bits. -/
structure Leaf where
  pte  : Nat
  key  : Nat
  bits : Nat
  deriving DecidableEq, Repr

/-- Bit b of a number. -/
def bitOf (n b : Nat) : Bool := n / 2 ^ b % 2 == 1

/-- The page bits of PA in a leaf. -/
def ptePa (e : Nat) : Nat := e / 65536 % 2 ^ 36 * 65536

/-- The walk of 04 R84 through the remaining levels, from the table at t: the keys of the entries that it reads, and what it finds. -/
def walkLevels (s : State) (va : Word) (k : AKind) : List Level → List Nat → Nat → List Nat × Except Trap Leaf
  | [], path, _ => (path, .error (k.fault va 4))
  | l :: ls, path, t =>
    match readPte s va k (t + 8 * (va.toNat / 2 ^ l.low % 2 ^ l.bits)) with
    | (keys, .error e) => (path ++ keys, .error e)
    | (keys, .ok (e, key)) =>
      if !bitOf e 0 then (path ++ keys, .error (k.fault va 0))
      else if !bitOf e 1 then
        if l.align = 0 || e / 4 % 64 != 0 then (path ++ keys, .error (k.fault va 4))
        else
          let next := e / 256 % 2 ^ 44 * 256
          if next % l.align != 0 then (path ++ keys, .error (k.fault va 4)) else walkLevels s va k ls (path ++ keys) next
      else if !l.leaf || e / 2 ^ 52 % 16 != 0 || e / 4096 % 16 != 0 || bitOf e 10 || ptePa e % 2 ^ l.low != 0 then
        (path ++ keys, .error (k.fault va 4))
      else (path ++ keys, .ok { pte := e, key := key, bits := l.low })

/-- The walk from the root that PTROOT names (04 R83, R84), with the keys of the entries that it reads. -/
def walkFrom (s : State) (root : Word) (va : Word) (k : AKind) : List Nat × Except Trap Leaf :=
  walkLevels s va k levels [] (root.toNat / 65536 % 2 ^ 36 * 65536)

/-- What that walk finds. -/
def walk (s : State) (root : Word) (va : Word) (k : AKind) : Except Trap Leaf := (walkFrom s root va k).2

/-- A virtual address is canonical when bits 63:56 repeat bit 55 (04 R83). -/
def canonical (va : Word) : Bool :=
  let hi := va.toNat / 2 ^ 55
  hi == 0 || hi == 511

/-- The TLB entry of a leaf (04 R87). -/
def tlbOf (root va : Word) (l : Leaf) : TlbEntry :=
  { ctxid := root.toNat % 65536, glb := bitOf l.pte 6, vpage := va.toNat % 2 ^ 56 / 2 ^ l.bits, bits := l.bits,
    pa := ptePa l.pte, rd := bitOf l.pte 2, wr := bitOf l.pte 3, ex := bitOf l.pte 4, usr := bitOf l.pte 5,
    drt := bitOf l.pte 8, cmp := bitOf l.pte 11, mt := l.pte / 512 % 4 }

/-- Whether an entry translates an address for a context number. -/
def TlbEntry.covers (e : TlbEntry) (ctxid : Nat) (va : Word) : Bool :=
  (e.glb || e.ctxid == ctxid) && va.toNat % 2 ^ 56 / 2 ^ e.bits == e.vpage

/-- Whether an entry permits a kind of access in a mode (04 R86). -/
def TlbEntry.permits (e : TlbEntry) (k : AKind) (user : Bool) : Bool :=
  (!user || e.usr) &&
  (match k with
   | .fetch => e.ex
   | .load => e.rd
   | .copyLoad => e.rd
   | .store => e.wr
   | .copyStore => e.wr
   | .atomic _ => e.rd && e.wr)

/-- The physical address that an entry gives. -/
def TlbEntry.paOf (e : TlbEntry) (va : Word) : Nat := e.pa + va.toNat % 2 ^ e.bits

/-- The physical address to which a root maps an address; where it maps it nowhere, there is none to report (log entry 130). -/
def physOf (s : State) (root va : Word) : Word :=
  match walk s root va .load with
  | .ok l => word ((tlbOf root va l).paOf va)
  | .error _ => Config.reportAddress s.steps

/-- Who makes an access: the core whose TLB it uses, the PTROOT and mode that apply (04 R86), and the hart whose own pending
stores it sees. -/
structure Agent where
  core : Nat
  root : Word
  user : Bool
  hart : Nat
  deriving DecidableEq, Repr

/-- The agent of a hart's own accesses. -/
def agentOf (s : State) (h : Nat) : Agent :=
  let x := getHart s h
  { core := coreOf h, root := x.csr.ptroot, user := x.user, hart := h }

/-- Puts an entry at the front of a TLB of a given size. -/
def tlbPut (t : List TlbEntry) (e : TlbEntry) (size : Nat) : List TlbEntry := (e :: t.filter (fun f => f != e)).take size

/-- The state with an entry in the core's and the cluster's TLB (04 R87). -/
def tlbInstall (s : State) (core : Nat) (e : TlbEntry) : State :=
  let c := getCore s core
  let s1 := putCore s core { c with tlb := tlbPut c.tlb e 64 }
  let u := getCluster s1 (clusterOf core)
  putCluster s1 (clusterOf core) { u with tlb := tlbPut u.tlb e 4096 }

/-- The entry that a core's or its cluster's TLB holds for an address. -/
def tlbFind (s : State) (core : Nat) (root va : Word) : Option TlbEntry :=
  let hit := fun (e : TlbEntry) => e.covers (root.toNat % 65536) va
  match (getCore s core).tlb.find? hit with
  | some e => some e
  | none => (getCluster s (clusterOf core)).tlb.find? hit

/-- A leaf with ACC set, and DRT for a write, stored back by cas at the home LLC (04 R84). The chunk is not poisoned, or the walk would have
failed. -/
def markLeaf (s : State) (l : Leaf) (write : Bool) : Leaf × State :=
  let e1 := l.pte ||| 0x80
  let e2 := if write then e1 ||| 0x100 else e1
  if e2 = l.pte then (l, s) else ({ l with pte := e2 }, homeWritten (putNat s 0 l.key e2 8) l.key false true)

/-- Why an access stops: the trap, and the state that its translation leaves (04 R84: the entries that a walk reads pass through the LLC,
and a walk sets ACC and DRT before it gives an address, so they stay set where the access then faults). -/
structure Stop where
  trap  : Trap
  state : State
  deriving DecidableEq, Repr

/-- A result that may be a trap, as one that stops at a state. -/
def stopAt {α : Type} (s : State) (r : Except Trap α) : Except Stop α :=
  match r with
  | .ok x => .ok x
  | .error t => .error { trap := t, state := s }

/-- A stop that leaves the harts as they were before: only page-table entries, TLBs and caches have moved. -/
def Stop.keep (e : Stop) (s : State) : Stop := { e with state := { e.state with harts := s.harts } }

/-- Translation of an address by a walk, whose reads go through the LLC and which installs what it finds (04 R84, R87). -/
def translateWalk (s : State) (a : Agent) (va : Word) (k : AKind) : Except Stop (TlbEntry × State) :=
  let s0 := (walkFrom s a.root va k).1.foldl (fun s key => homeRead s false key) s
  match walk s a.root va k with
  | .error t => .error { trap := t, state := s0 }
  | .ok l =>
    if (tlbOf a.root va l).permits k a.user then
      let (l', s1) := markLeaf s0 l k.writes
      let e := tlbOf a.root va l'
      .ok (e, tlbInstall s1 a.core e)
    else .error { trap := k.fault va 1, state := s0 }

/-- Translation (04 R83 to R87): a TLB entry stays in use until tlbinv removes it; a first write walks again to set DRT. -/
def translate (s : State) (a : Agent) (va : Word) (k : AKind) : Except Stop (TlbEntry × State) :=
  if !canonical va then .error { trap := k.fault va 0, state := s }
  else
    match tlbFind s a.core a.root va with
    | some e =>
      if !e.permits k a.user then .error { trap := k.fault va 1, state := s }
      else if k.writes && !e.drt then translateWalk s a va k
      else .ok (e, s)
    | none => translateWalk s a va k

/-- Where a byte of HBM lies in 64 KiB of a package's memory windows: its offset, if it lies there. -/
def windowOffset (pa key : Nat) : Option Nat :=
  match (if isHbm key then windowKey pa else none) with
  | none => none
  | some k0 =>
    if pa < 0x6000000000 then
      let pk := key % 2 ^ 36 / 4096 * 32768 + key / 2 ^ 36 * 4096 + key % 4096
      if pk / 65536 == pa / 65536 then some (pk % 65536) else none
    else if key / 65536 == k0 / 65536 then some (key % 65536) else none

/-- Where a key lies in a mapped 64 KiB of physical memory, seen from a core: its offset, if it lies there. -/
def offsetIn (core pa key : Nat) : Option Nat :=
  match paTarget core pa with
  | .mem _ => windowOffset pa key
  | .span p off =>
    if p == Config.pkg.toNat then windowOffset off key
    else if pkgOfKey key == some p then windowOffset off (key % 2 ^ 41) else none
  | .scr c off _ => if key / 65536 == scrKey c off / 65536 then some (key % 65536) else none
  | .host a => if key / 65536 == hostKey a / 65536 then some (key % 65536) else none
  | _ => none

/-- Whether a key is a byte of the virtual range [lo, lo + n) under kept translations. -/
def inRange (pages : PageMap) (core : Nat) (lo n key : Nat) : Bool :=
  pages.any (fun p =>
    match offsetIn core p.pa key with
    | some o => lo ≤ p.page * 65536 + o && p.page * 65536 + o < lo + n
    | none => false)

/-- The kept translation of the 64 KiB of an address. -/
def keptPage (e : TlbEntry) (va : Word) : KeptPage := { page := va.toNat / 65536, pa := e.paOf va / 65536 * 65536, cmp := e.cmp }

/-- Bytes of a backing area (06 R132). -/
def backBytes : Nat := 73728

/-- The translations of a backing area, walked without setting ACC; pages that do not translate are left out. -/
def backPages (s : State) (vback root : Word) : PageMap :=
  [0, 1, 2].filterMap (fun i =>
    let va := vback + word (i * 65536)
    match walk s root va .load with
    | .ok l => some (keptPage (tlbOf root va l) va)
    | .error _ => none)

/-- Whether a key lies in a backing area. -/
def inBacking (s : State) (vback root : Word) (core key : Nat) : Bool :=
  inRange (backPages s vback root) core vback.toNat backBytes key

/-- Bytes of a record of an exchange context (10 R234). -/
def recordBytes (plen : Nat) : Nat := 8 + 4 * plen

/-- Whether a key lies in the buffers of an exchange member's running step (10 R235). -/
def inBuffer (plen : Nat) (b : XBuf) (core key : Nat) : Bool :=
  inRange b.pages core b.prim.toNat (b.pcap * recordBytes plen) key ||
  inRange b.pages core b.ovf.toNat (b.ocap * recordBytes plen) key

/-- Whether a key lies in a buffer that is posted for the running step of a live exchange context (10 R235). -/
def inAnyBuffer (s : State) (key : Nat) : Bool :=
  s.xctx.any (fun c => c.2.members.any (fun m =>
    match m.cur with
    | some b => inBuffer c.2.plen b b.core key
    | none => false))

/-- Whether a key lies in the region of an open Lens state (11 R247). -/
def inAnyRegion (s : State) (key : Nat) : Bool :=
  s.lens.any (fun l => l.2.members.any (fun m =>
    !m.left && inRange m.pages (coreOf m.hart) m.base.toNat (8 * 2 ^ (l.2.n - l.2.p.log2)) key))

/-- Whether a key lies in the backing area of a bound hart, or of a context with owed writes (06 R132, 15 R331). -/
def inAnyBacking (s : State) (key : Nat) : Bool :=
  s.harts.any (fun h => h.2.bound && inBacking s h.2.back h.2.csr.ptroot (coreOf h.1) key) ||
  s.owed.any (fun o => inBacking s o.vback o.root o.core key)

/-- The refusal of a write to a protected byte: STOREPF with reason 1 (06 R132), or BUFWRITE (10 R235, 11 R247). -/
def protection (s : State) (va : Word) (key : Nat) : Option Trap :=
  if inAnyBacking s key then some { cause := .storepf, tval := va, tval2 := 1 }
  else if inAnyBuffer s key || inAnyRegion s key then some { cause := .bufwrite, tval := va, tval2 := 0 }
  else none

/-- The protection met by the first of n bytes that is protected. -/
def protectionRange (s : State) (va : Word) (key : Nat) : Nat → Option Trap
  | 0 => none
  | n + 1 =>
    match protectionRange s va key n with
    | some t => some t
    | none => protection s va (key + n)

/-- The movement of an access through the caches, and for a host page through the translation cache of the hub (16 R341); it changes no
value. -/
def cacheTouch (s : State) (core key : Nat) (k : AKind) (p : Path) (e : TlbEntry) : State :=
  if 2 ^ 53 ≤ key then
    let page := (key - 2 ^ 53) / 4096
    if s.ats.any (fun p => p.page == page) then s
    else { s with ats := ({ page := page, write := hostRight s page == some true } :: s.ats).take 4096 }
  else if !isHbm key then s
  else
    let c := s.caches
    let p := if e.mt == 1 then { p with alloc := Alloc.none } else p
    let c1 := match k with
      | .store => c.store (llcClock s) core key e.cmp p
      | .copyStore => c.store (llcClock s) core key e.cmp p
      | .atomic _ => c.atomicAt (llcClock s) (clusterOf core) key e.cmp p
      | _ => c.load (llcClock s) core (getCore s core).poolL1.toNat key e.cmp p
    { s with caches := { c1 with ticks := c.ticks + 1 } }

/-- The address of the first byte of an access, checked and translated, with the caches moved: the key of the byte (04 R69, R83 to
R87), or the trap that refuses the access. Every check of a write, the protections among them, is made here (04 R86). -/
def access (s : State) (a : Agent) (va : Word) (n : Nat) (k : AKind) (p : Path) : Except Stop (Nat × State) :=
  match translate s a va k with
  | .error t => .error t
  | .ok (e, s1) =>
    match resolve s1 a.core va (e.paOf va) k with
    | .error t => .error { trap := t, state := s1 }
    | .ok key =>
      match (if k.writes then protectionRange s1 va key n else none) with
      | some t => .error { trap := t, state := s1 }
      | none => .ok (key, cacheTouch s1 a.core key k p e)

/-- The oldest pending scalar store of a hart performed (12 R264). -/
def drainOne (s : State) (h : Nat) : State :=
  let x := getHart s h
  match x.storeQ with
  | [] => s
  | bs :: q => putHart (writeAll s (scalarWriter x.ctx) bs) h { x with storeQ := q }

/-- Every pending scalar store of a hart performed, in order. -/
def drainAll (s : State) (h : Nat) : State :=
  let x := getHart s h
  putHart (x.storeQ.foldl (fun s bs => writeAll s (scalarWriter x.ctx) bs) s) h { x with storeQ := [] }

/-- Whether a hart has a pending store to a chunk of the n bytes from a key. -/
def ownPending (x : Hart) (key n : Nat) : Bool :=
  x.storeQ.any (fun bs => bs.any (fun b => key / 32 ≤ b.key / 32 && b.key / 32 ≤ (key + n - 1) / 32))

/-- The state in which a read of n bytes by a hart is made: a read passes the pending stores of its hart to other chunks alone, so one to its
own chunk is performed first, with those before it (12 R262, R264). -/
def ownSettled (s : State) (h key n : Nat) : State := if ownPending (getHart s h) key n then drainAll s h else s

/-- A poisoned load (05 R91). -/
def poisonTrap (va : Word) : Trap := { cause := .poison, tval := va, tval2 := 0 }

/-- A read of n bytes of memory, checked and translated, and refused where its chunk is poisoned, which reports the address named. -/
def readNat (s : State) (a : Agent) (named va : Word) (n : Nat) (p : Path) : Except Stop (Nat × State) :=
  match access s a va n .load p with
  | .error t => .error t
  | .ok (key, s1) =>
    let s2 := ownSettled s1 a.hart key n
    if isPoisoned s2 key then .error { trap := poisonTrap named, state := s2 } else .ok (memNat s2 key n, s2)

/-- A scalar read of n bytes (05 R91). -/
def loadNat (s : State) (a : Agent) (va : Word) (n : Nat) : Except Stop (Nat × State) := readNat s a va va n .scalar

/-- A scalar write of n bytes: performed at once, or held in the hart's store queue while the model runs relaxed (12 R264); a write to the
host window is performed in order behind that queue, so that no later read of the window passes it (R275). -/
def storeNat (s : State) (a : Agent) (va : Word) (v n : Nat) : Except Stop State :=
  match access s a va n .store .scalar with
  | .error t => .error t
  | .ok (key, s1) =>
    let x := getHart s1 a.hart
    if s1.relaxed && key < 2 ^ 53 then .ok (putHart s1 a.hart { x with storeQ := x.storeQ ++ [bytesAt key v n] })
    else if s1.relaxed then .ok (writeNat (drainAll s1 a.hart) (scalarWriter x.ctx) key v n)
    else .ok (writeNat s1 (scalarWriter x.ctx) key v n)

/-- A read of a descriptor, record or header of n words of 8 bytes at the front end (15 R374): poison reports the address that the
instruction names. -/
def readWords (s : State) (a : Agent) (named va : Word) : Nat → Except Stop (List Nat × State)
  | 0 => .ok ([], s)
  | n + 1 =>
    match readNat s a named va 8 .front with
    | .error t => .error t
    | .ok (w, s1) =>
      match readWords s1 a named (va + 8) n with
      | .error t => .error t
      | .ok (ws, s2) => .ok (w :: ws, s2)

/-- The bytes of a list of 8-byte words. -/
def bytesOfWords : List Nat → List Byte
  | [] => []
  | w :: ws =>
    [BitVec.ofNat 8 w, BitVec.ofNat 8 (w / 2 ^ 8), BitVec.ofNat 8 (w / 2 ^ 16), BitVec.ofNat 8 (w / 2 ^ 24),
     BitVec.ofNat 8 (w / 2 ^ 32), BitVec.ofNat 8 (w / 2 ^ 40), BitVec.ofNat 8 (w / 2 ^ 48), BitVec.ofNat 8 (w / 2 ^ 56)] ++
      bytesOfWords ws

/-- A little-endian field of n bytes at an offset of a byte list. -/
def fieldAt (bs : List Byte) (off : Nat) : Nat → Nat
  | 0 => 0
  | n + 1 => fieldAt bs off n + ((bs.drop (off + n)).headD 0).toNat * 256 ^ n

/-- A number of w bits read in two's complement. -/
def signedOf (w v : Nat) : Int := if v % 2 ^ w < 2 ^ (w - 1) then (v % 2 ^ w : Nat) else (v % 2 ^ w : Nat) - (2 ^ w : Nat)

/-- An address moved by an integer. -/
def addInt (a : Word) (z : Int) : Word := a + wordOfInt z

/-- Whether a range of n bytes lies in a core's scratchpad (04 R82). -/
def scratchOk (s : State) (core off n : Nat) : Bool := off + n ≤ scratchBytes s core

end Sys2Proof.Machine
end

