-- ==== Sys2Proof/Machine/Num.lean ====
section
/-! DEFINITION. Exact numbers and the roundings of chapter 02: rto (R29), round (R31), the formats of Table 02.2, extended values
(R28), NaNs (R39, R40), comparison (R42), and exact arithmetic on them. -/

namespace Sys2Proof.Machine

/-- An exact magnitude with a sign: m times 2 to the e; with sticky, a magnitude strictly between m and m + 1 units. -/
structure Ex where
  neg    : Bool
  m      : Nat
  e      : Int
  sticky : Bool
  deriving DecidableEq, Repr

/-- A floating-point operand: a finite exact value, an infinity, or a NaN with its fraction laid at the top of 61 bits. -/
inductive FVal where
  | fin (x : Ex)
  | inf (neg : Bool)
  | nan (neg : Bool) (frac : Nat)
  deriving DecidableEq, Repr

/-- A floating-point format (02 Table 02.2): exponent bits, fraction bits, bias, whether it has infinities, and whether the top
exponent holds ordinary values (E4M3 but for f = 7, and D6 wholly). -/
structure FpFmt where
  eb   : Nat
  fb   : Nat
  bias : Nat
  hasInf : Bool
  hasNan : Bool
  deriving DecidableEq, Repr

def fFP32 : FpFmt := { eb := 8, fb := 23, bias := 127, hasInf := true, hasNan := true }
def fFP16 : FpFmt := { eb := 5, fb := 10, bias := 15, hasInf := true, hasNan := true }
def fBF16 : FpFmt := { eb := 8, fb := 7, bias := 127, hasInf := true, hasNan := true }
def fE4M3 : FpFmt := { eb := 4, fb := 3, bias := 7, hasInf := false, hasNan := true }
def fE5M2 : FpFmt := { eb := 5, fb := 2, bias := 15, hasInf := true, hasNan := true }
def fD6 : FpFmt := { eb := 3, fb := 2, bias := 4, hasInf := false, hasNan := false }
def fWF72 : FpFmt := { eb := 10, fb := 61, bias := 511, hasInf := true, hasNan := true }

/-- Precision q (02 R21). -/
def FpFmt.q (f : FpFmt) : Nat := f.fb + 1

/-- The exponent of the smallest normal value. -/
def FpFmt.emin (f : FpFmt) : Int := 1 - (f.bias : Int)

/-- The exponent of the top binade of finite values. -/
def FpFmt.emax (f : FpFmt) : Int :=
  (2 ^ f.eb : Nat) - (1 : Int) - f.bias - (if f.hasInf then 1 else 0)

/-- The significand of the largest finite value: E4M3 keeps its top code for the NaN (02 R21). -/
def FpFmt.topM (f : FpFmt) : Nat := if f.hasInf || !f.hasNan then 2 ^ f.q - 1 else 2 ^ f.q - 2

/-- Total width of the format. -/
def FpFmt.width (f : FpFmt) : Nat := 1 + f.eb + f.fb

/-- The code of a finite significand M at exponent E (M below 2^fb only at E = emin). -/
def FpFmt.code (f : FpFmt) (neg : Bool) (mm : Nat) (ee : Int) : Nat :=
  let mag := if mm < 2 ^ f.fb then mm else ((ee + f.bias).toNat) * 2 ^ f.fb + (mm - 2 ^ f.fb)
  (if neg then 2 ^ (f.eb + f.fb) else 0) + mag

/-- The code of an infinity. -/
def FpFmt.infCode (f : FpFmt) (neg : Bool) : Nat :=
  (if neg then 2 ^ (f.eb + f.fb) else 0) + (2 ^ f.eb - 1) * 2 ^ f.fb

/-- The code of the largest finite value. -/
def FpFmt.maxCode (f : FpFmt) (neg : Bool) : Nat := f.code neg f.topM f.emax

/-- Zero. -/
def Ex.zero (neg : Bool) : Ex := { neg := neg, m := 0, e := 0, sticky := false }

/-- Whether the value is exactly zero. -/
def Ex.isZero (x : Ex) : Bool := x.m == 0 && !x.sticky

/-- An integer as an exact value; zero is +0. -/
def Ex.ofInt (x : Int) : Ex := { neg := x < 0, m := x.natAbs, e := 0, sticky := false }

/-- m times 2 to the k, as a natural number with the part below one dropped. -/
def scaleNat (m : Nat) (k : Int) : Nat := if k < 0 then m / 2 ^ (-k).toNat else m * 2 ^ k.toNat

/-- Whether scaleNat drops something. -/
def scaleLoss (m : Nat) (k : Int) : Bool := if k < 0 then m % 2 ^ (-k).toNat != 0 else false

/-- floor(log2 |x|) of a nonzero value. -/
def Ex.log (x : Ex) : Int := x.e + (x.m.log2 : Int)

/-- The exponent that rto and round place a value at: max(floor(log2 |x|), emin). -/
def FpFmt.expOf (f : FpFmt) (x : Ex) : Int := max x.log f.emin

/-- The value on the quarter-ulp grid, rounded to odd (02 R29). -/
def FpFmt.grid (f : FpFmt) (x : Ex) : Nat :=
  let k := x.e - (f.expOf x - (f.q : Int) - 1)
  let t := scaleNat x.m k
  if scaleLoss x.m k || x.sticky then t ||| 1 else t

/-- An element with its tail and the flags its writing sets. -/
structure Written where
  code  : Nat
  tail  : Nat
  flags : Flags
  deriving DecidableEq, Repr

/-- rto of 02 R29 on a finite value. -/
def rto (f : FpFmt) (x : Ex) : Written :=
  if x.isZero then { code := f.code x.neg 0 f.emin, tail := 0, flags := 0 }
  else if x.log > f.emax then { code := f.maxCode x.neg, tail := 3, flags := flagOF }
  else
    let t := f.grid x
    { code := f.code x.neg (t / 4) (f.expOf x), tail := t % 4, flags := 0 }

/-- Rounding modes of FPCTL.RND (02 Table 02.5). -/
inductive Rnd where
  | even | zero | down | up | away
  deriving DecidableEq, Repr

/-- The mode of an RND code; 5 to 7 are never stored (02 Table 02.5). -/
def Rnd.ofCode (c : Nat) : Rnd :=
  match c with
  | 0 => .even | 1 => .zero | 2 => .down | 3 => .up | 4 => .away | _ => .even

/-- Whether the next larger magnitude is taken (02 Table 02.4): the element's last bit, its tail and its sign. -/
def Rnd.inc (r : Rnd) (neg : Bool) (odd : Bool) (tail : Nat) : Bool :=
  match r with
  | .even => tail == 3 || (tail == 2 && odd)
  | .away => 2 ≤ tail
  | .zero => false
  | .up => !neg && tail != 0
  | .down => neg && tail != 0

/-- The IEEE 754 result of an overflow; E4M3 and D6 take the largest finite magnitude (02 R31). -/
def FpFmt.overflowCode (f : FpFmt) (r : Rnd) (neg : Bool) : Nat :=
  if f.hasInf && (match r with | .even => true | .away => true | .zero => false | .up => !neg | .down => neg)
  then f.infCode neg else f.maxCode neg

/-- round of 02 R31 on a finite value, with its flags. -/
def roundEx (f : FpFmt) (r : Rnd) (x : Ex) : Written :=
  if x.isZero then { code := f.code x.neg 0 f.emin, tail := 0, flags := 0 }
  else
    let t := f.grid x
    let tail := t % 4
    let m0 := t / 4
    let m1 := if r.inc x.neg (m0 % 2 == 1) tail then m0 + 1 else m0
    let e0 := f.expOf x
    let carry := m1 == 2 ^ f.q
    let m2 := if carry then 2 ^ f.fb else m1
    let e2 := if carry then e0 + 1 else e0
    if e2 > f.emax || (e2 == f.emax && m2 > f.topM) then
      { code := f.overflowCode r x.neg, tail := 0, flags := flagOF ||| flagNX }
    else
      { code := f.code x.neg m2 e2, tail := 0,
        flags := flagIf (tail != 0) flagNX ||| flagIf (tail != 0 && x.log < f.emin) flagUF }

/-- Where NaN fractions are aligned: the fraction width of WF72. -/
def nanTop : Nat := 61

/-- The operand value of a code with its tail (02 R21, R28). E4M3 has one NaN, D6 none; an element with tail stands for its
extended value. -/
def FpFmt.value (f : FpFmt) (code tail : Nat) : FVal :=
  let neg := code / 2 ^ (f.eb + f.fb) % 2 == 1
  let ef := code / 2 ^ f.fb % 2 ^ f.eb
  let fr := code % 2 ^ f.fb
  let top := 2 ^ f.eb - 1
  if f.hasInf && ef == top then
    if fr == 0 then .inf neg else .nan neg (fr * 2 ^ (nanTop - f.fb))
  else if !f.hasInf && f.hasNan && ef == top && fr == 2 ^ f.fb - 1 then .nan neg (fr * 2 ^ (nanTop - f.fb))
  else
    let m := if ef == 0 then fr else 2 ^ f.fb + fr
    let ee : Int := if ef == 0 then f.emin else (ef : Int) - f.bias
    .fin { neg := neg, m := 4 * m + tail, e := ee - (f.fb : Int) - 2, sticky := false }

/-- The quiet bit of a NaN fraction. -/
def nanQuiet (frac : Nat) : Bool := frac / 2 ^ (nanTop - 1) % 2 == 1

/-- A NaN quieted and cut to the format (02 R39). -/
def FpFmt.nanCode (f : FpFmt) (neg : Bool) (frac : Nat) : Nat :=
  let fr := if f.hasInf then (frac / 2 ^ (nanTop - f.fb)) ||| 2 ^ (f.fb - 1) else 2 ^ f.fb - 1
  (if neg then 2 ^ (f.eb + f.fb) else 0) + (2 ^ f.eb - 1) * 2 ^ f.fb + fr

/-- The vector-born canonical NaN (02 R40): sign 0, only the quiet bit. -/
def canonNan : FVal := .nan false (2 ^ (nanTop - 1))

/-- The matrix-born canonical NaN (02 R41): the quiet bit and the bit below it. -/
def matrixNan : FVal := .nan false (2 ^ (nanTop - 1) + 2 ^ (nanTop - 2))

/-- A settlement into a float format (02 R31, R38). A NaN keeps its sign and top payload; a NaN into D6 gives +0 with NV; a
signalling NaN sets NV; an infinity into E4M3 or D6 is an overflow. -/
def settle (f : FpFmt) (r : Rnd) (v : FVal) : Written :=
  match v with
  | .fin x => roundEx f r x
  | .inf neg =>
    if f.hasInf then { code := f.infCode neg, tail := 0, flags := 0 }
    else { code := f.maxCode neg, tail := 0, flags := flagOF ||| flagNX }
  | .nan neg fr =>
    if f.hasNan then { code := f.nanCode neg fr, tail := 0, flags := flagIf (!nanQuiet fr) flagNV }
    else { code := 0, tail := 0, flags := flagNV }

/-- The write of a tailed element in carry mode (02 R30). -/
def writeRto (f : FpFmt) (v : FVal) : Written :=
  match v with
  | .fin x => rto f x
  | .inf neg => { code := f.infCode neg, tail := 0, flags := 0 }
  | .nan neg fr => { code := f.nanCode neg fr, tail := 0, flags := flagIf (!nanQuiet fr) flagNV }

/-- The write of a tailed element under FPCTL (02 R30, R34): rto, or round in settle-every-write mode. -/
def writeTailed (f : FpFmt) (fpctl : Word) (v : FVal) : Written :=
  if fpctl.getLsbD 3 then settle f (Rnd.ofCode (fpctl.toNat % 8)) v else writeRto f v

/-- The rounding mode that FPCTL names. -/
def rndOf (fpctl : Word) : Rnd := Rnd.ofCode (fpctl.toNat % 8)

/-- The signed significand of a value brought to exponent e, not above its own. -/
def Ex.at (x : Ex) (e : Int) : Int :=
  let m : Int := (x.m * 2 ^ (x.e - e).toNat : Nat)
  if x.neg then -m else m

/-- The exact sum of two exact values; an exact zero takes the sign that 02 R36 gives, and a sum of two zeros keeps a sign they
share. -/
def Ex.add (down : Bool) (x y : Ex) : Ex :=
  if x.m == 0 && y.m == 0 then Ex.zero (if x.neg == y.neg then x.neg else down)
  else
    let e := min x.e y.e
    let z := x.at e + y.at e
    { neg := if z == 0 then down else z < 0, m := z.natAbs, e := e, sticky := false }

/-- The exact product. -/
def Ex.mul (x y : Ex) : Ex := { neg := x.neg != y.neg, m := x.m * y.m, e := x.e + y.e, sticky := false }

/-- The negated value. -/
def Ex.negate (x : Ex) : Ex := { x with neg := !x.neg }

/-- The quotient to 96 bits and a sticky bit; the divisor is not zero. -/
def Ex.div (x y : Ex) : Ex :=
  let k := 96 + y.m.log2
  let n := x.m * 2 ^ k
  { neg := x.neg != y.neg, m := n / y.m, e := x.e - y.e - (k : Int), sticky := n % y.m != 0 }

/-- The integer square root, bit by bit from the top: r with r² ≤ n, for n below 4^k. -/
def isqrtAux (n : Nat) : Nat → Nat → Nat
  | 0, r => r
  | k + 1, r =>
    let c := r + 2 ^ k
    isqrtAux n k (if c * c ≤ n then c else r)

/-- floor(sqrt n). -/
def isqrt (n : Nat) : Nat := isqrtAux n (n.log2 / 2 + 1) 0

/-- The square root to at least 80 bits and a sticky bit, of a value that is not negative. -/
def Ex.sqrt (x : Ex) : Ex :=
  let k : Nat := if (x.e - 160) % 2 == 0 then 160 else 161
  let n := x.m * 2 ^ k
  let r := isqrt n
  { neg := x.neg, m := r, e := (x.e - (k : Int)) / 2, sticky := r * r != n }

/-- Signed order of two exact values without sticky parts: negative, zero or positive as x is below, equal to or above y. -/
def Ex.cmp (x y : Ex) : Int :=
  let e := min x.e y.e
  x.at e - y.at e

/-- How two operands compare (02 R42). -/
inductive FOrd where
  | lt | eq | gt | un
  deriving DecidableEq, Repr

/-- Comparison of extended values (02 R42). The rule calls +0 and −0 with equal tails equal, and also orders an element with tail 0b01 over
±0 by its sign; where +0 and −0 have equal nonzero tails the two disagree, and the extended values decide (DESIGN CHOICE, log entry 90). -/
def fcompare (a b : FVal) : FOrd :=
  match a, b with
  | .nan _ _, _ => .un
  | _, .nan _ _ => .un
  | .inf n, .inf k => if n == k then .eq else if n then .lt else .gt
  | .inf n, .fin _ => if n then .lt else .gt
  | .fin _, .inf k => if k then .gt else .lt
  | .fin x, .fin y => let c := x.cmp y; if c < 0 then .lt else if c == 0 then .eq else .gt

/-- A result with the flags that the operation itself sets. -/
abbrev FRes := FVal × Flags

/-- The first NaN of the operands in order, quieted, with NV if any operand is a signalling NaN (02 R39). -/
def firstNan : List FVal → Option FRes
  | [] => none
  | v :: vs =>
    match v with
    | .nan n fr =>
      let sig := !nanQuiet fr || vs.any (fun w => match w with | .nan _ g => !nanQuiet g | _ => false)
      some (.nan n (fr ||| 2 ^ (nanTop - 1)), flagIf sig flagNV)
    | _ => firstNan vs

/-- The operation on operands none of which is a NaN, under the NaN rule of 02 R39. -/
def withNan (ops : List FVal) (r : FRes) : FRes :=
  match firstNan ops with
  | some x => x
  | none => r

/-- An invalid operation (02 R40). -/
def invalid : FRes := (canonNan, flagNV)

/-- Sum of operands that are no NaNs. -/
def addCore (down : Bool) (a b : FVal) : FRes :=
  match a, b with
  | .fin x, .fin y => (.fin (Ex.add down x y), 0)
  | .inf n, .inf k => if n == k then (.inf n, 0) else invalid
  | .inf n, _ => (.inf n, 0)
  | _, .inf k => (.inf k, 0)
  | x, _ => (x, 0)

/-- a + b. -/
def fAdd (down : Bool) (a b : FVal) : FRes := withNan [a, b] (addCore down a b)

/-- The operand with its sign turned; a NaN keeps its sign. -/
def fNeg (a : FVal) : FVal :=
  match a with
  | .fin x => .fin x.negate
  | .inf n => .inf (!n)
  | .nan n f => .nan n f

/-- a − b. -/
def fSub (down : Bool) (a b : FVal) : FRes := fAdd down a (fNeg b)

/-- Product of operands that are no NaNs. -/
def mulCore (a b : FVal) : FRes :=
  match a, b with
  | .fin x, .fin y => (.fin (x.mul y), 0)
  | .inf n, .inf k => (.inf (n != k), 0)
  | .inf n, .fin y => if y.m == 0 then invalid else (.inf (n != y.neg), 0)
  | .fin x, .inf k => if x.m == 0 then invalid else (.inf (x.neg != k), 0)
  | x, _ => (x, 0)

/-- a × b. -/
def fMul (a b : FVal) : FRes := withNan [a, b] (mulCore a b)

/-- a × b + c, the exact product added in one step (02 R43). An invalid product makes the result invalid. -/
def fMulAdd (down : Bool) (a b c : FVal) : FRes :=
  withNan [a, b, c]
    (match mulCore a b with
     | (.nan _ _, _) => invalid
     | (p, _) => addCore down p c)

/-- a / b: 0/0 and ∞/∞ are invalid; a finite nonzero value over zero is an infinity with DZ (02 R36, R40). An infinity over
zero is an infinity and raises no flag: 02 R36 says so, where the condition of 08 R167 (B = 0 and A not 0) would take it for DZ (DESIGN
CHOICE, log entry 110). -/
def fDiv (a b : FVal) : FRes :=
  withNan [a, b]
    (match a, b with
     | .fin x, .fin y =>
       if y.m == 0 then (if x.m == 0 then invalid else (.inf (x.neg != y.neg), flagDZ))
       else if x.m == 0 then (.fin (Ex.zero (x.neg != y.neg)), 0) else (.fin (x.div y), 0)
     | .inf _, .inf _ => invalid
     | .inf n, .fin y => (.inf (n != y.neg), 0)
     | .fin x, .inf k => (.fin (Ex.zero (x.neg != k)), 0)
     | x, _ => (x, 0))

/-- Square root: invalid below −0 (02 R40). -/
def fSqrt (a : FVal) : FRes :=
  withNan [a]
    (match a with
     | .fin x => if x.m == 0 then (.fin (Ex.zero x.neg), 0) else if x.neg then invalid else (.fin x.sqrt, 0)
     | .inf n => if n then invalid else (.inf false, 0)
     | x => (x, 0))

/-- The exact integer that rounding to an integer gives, with whether it differs from the source. -/
def roundInt (r : Rnd) (x : Ex) : Int × Bool :=
  let t := scaleNat x.m (x.e + 2)
  let t := if scaleLoss x.m (x.e + 2) || x.sticky then t ||| 1 else t
  let m := t / 4
  let m := if r.inc x.neg (m % 2 == 1) (t % 4) then m + 1 else m
  (if x.neg then -(m : Int) else m, t % 4 != 0)

/-- Float to an integer range (02 Table 02.7): NaN gives 0, what lies outside gives the nearest bound, each with NV alone. -/
def floatToInt (r : Rnd) (lo hi : Int) (v : FVal) : Int × Flags :=
  match v with
  | .nan _ _ => (0, flagNV)
  | .inf n => (if n then lo else hi, flagNV)
  | .fin x =>
    let (z, nx) := roundInt r x
    if z < lo then (lo, flagNV) else if z > hi then (hi, flagNV) else (z, flagIf nx flagNX)

/-- Float to T2's range (02 R20, Table 02.7): NaN gives 0 and infinities ±1 with NV; a finite integer outside clamps with SAT. -/
def floatToT2 (r : Rnd) (v : FVal) : Int × Flags :=
  match v with
  | .nan _ _ => (0, flagNV)
  | .inf n => (if n then -1 else 1, flagNV)
  | .fin x =>
    let (z, nx) := roundInt r x
    if z < -1 then (-1, flagSAT) else if z > 1 then (1, flagSAT) else (z, flagIf nx flagNX)

/-- An exact integer clamped to a range, with SAT (02 R19). -/
def saturate (lo hi : Int) (z : Int) : Int × Flags :=
  if z < lo then (lo, flagSAT) else if z > hi then (hi, flagSAT) else (z, 0)

end Sys2Proof.Machine
end

