-- ==== Sys2Proof/Machine/Operands.lean ====
section
/-! DEFINITION. Operand forms: fields of a shape (06 Table 06.3), formats (02 Table 02.1), vector containers and elements (06 R126,
R127), packed elements (02 R25), and the conversions between formats (02 Table 02.7, 05 Table 05.2). -/

namespace Sys2Proof.Machine

/-- Fields of a shape register (06 Table 06.3). -/
def shVL (sh : Word) : Nat := sh.toNat % 1024
def shRows (sh : Word) : Nat := sh.toNat / 2 ^ 10 % 8 + 1
def shFmt (sh : Word) : Nat := sh.toNat / 2 ^ 13 % 32
def shBlkCode (sh : Word) : Nat := sh.toNat / 2 ^ 18 % 8
def shPad (sh : Word) : Nat := sh.toNat / 2 ^ 21 % 1024
def shBofs (sh : Word) : Nat := sh.toNat / 2 ^ 31 % 4

/-- The block length of a shape. -/
def shBlk (sh : Word) : Nat := 16 * 2 ^ (shBlkCode sh % 4)

/-- A shape register from its fields. -/
def shapeOf (vl pad fmt blk rows1 bofs : Nat) : Word :=
  word (vl % 1024 + 2 ^ 10 * (rows1 % 8) + 2 ^ 13 * (fmt % 32) + 2 ^ 18 * (blk % 8) + 2 ^ 21 * (pad % 1024) + 2 ^ 31 * (bofs % 4))

/-- Element width in bits of a format code (02 Table 02.1). -/
def fmtWidth (f : Nat) : Nat :=
  [8, 16, 32, 64, 8, 16, 32, 64, 4, 2, 16, 16, 32, 64, 8, 8, 6, 8, 8, 6, 4, 8, 16, 2].getD f 8

/-- An integer format of Table 02.1, codes 0 to 7. -/
def fmtInt (f : Nat) : Bool := f < 8

/-- A format whose integers are signed. -/
def fmtSigned (f : Nat) : Bool := f < 4 || f == 8 || f == 9

/-- A format whose elements take two containers (06 R127). -/
def fmtTwo (f : Nat) : Bool := f == 3 || f == 7 || f == 13

/-- A format packed in registers (02 R25, 06 R127). -/
def fmtPacked (f : Nat) : Bool := f == 8 || f == 9 || f == 16

/-- FP16, BF16 or FP32. -/
def fmtFloat (f : Nat) : Bool := f == 10 || f == 11 || f == 12

/-- A format whose register elements carry tails. -/
def fmtTailed (f : Nat) : Bool := fmtFloat f || f == 13

/-- The floating-point parameters of a format code. -/
def fpOf (f : Nat) : FpFmt :=
  match f with
  | 10 => fFP16
  | 11 => fBF16
  | 14 => fE4M3
  | 15 => fE5M2
  | 16 => fD6
  | _ => fFP32

/-- The element format of a block-scaled code (02 Table 02.1). -/
def bsElem (f : Nat) : Nat := [14, 15, 16, 8, 0, 1, 9].getD (f - 17) 0

/-- Least and greatest value of an integer format (02 R19). -/
def intLo (f : Nat) : Int := if fmtSigned f then -(2 ^ (fmtWidth f - 1) : Nat) else 0
def intHi (f : Nat) : Int := if fmtSigned f then (2 ^ (fmtWidth f - 1) : Nat) - 1 else (2 ^ fmtWidth f : Nat) - 1

/-- Containers per row that an access of VL elements touches (06 R127, 07 R141). -/
def rowContainers (f vl : Nat) : Nat :=
  if fmtTwo f then 2 * vl else if fmtPacked f then (vl * fmtWidth f + 31) / 32 else vl

/-- A vector container from poison, tail and data (06 Table 06.2). -/
def mkC (psn : Bool) (tail data : Nat) : BitVec 36 :=
  BitVec.ofNat 36 ((if psn then 2 ^ 34 else 0) + tail % 4 * 2 ^ 32 + data % 2 ^ 32)

/-- Fields of a container. -/
def cData (c : BitVec 36) : Nat := c.toNat % 2 ^ 32
def cTail (c : BitVec 36) : Nat := c.toNat / 2 ^ 32 % 4
def cPsn (c : BitVec 36) : Bool := c.getLsbD 34

/-- The place of container c of register v in the map of a hart. -/
def cKey (v c : Nat) : Nat := v * 512 + c

/-- A container; a dead line reads as zero (06 R133). -/
def Hart.getC (x : Hart) (v c : Nat) : BitVec 36 := smGet 0 x.vreg (cKey v c)

/-- The hart with a container written. -/
def Hart.setC (x : Hart) (v c : Nat) (b : BitVec 36) : Hart := { x with vreg := smSet 0 x.vreg (cKey v c) b }

/-- An element as its containers hold it: its bits, the tails of its one or two containers, and its poison. -/
structure Elem where
  bits  : Nat
  tail  : Nat
  tail2 : Nat
  psn   : Bool
  deriving DecidableEq, Repr

/-- Zero. -/
def Elem.zero : Elem := { bits := 0, tail := 0, tail2 := 0, psn := false }

/-- A packed element: bits w·i onward of the row's bit string (02 R25). -/
def Hart.packedElem (x : Hart) (v w i : Nat) : Elem :=
  let j := w * i / 32
  let o := w * i % 32
  let c0 := x.getC v j
  let c1 := if o + w > 32 then x.getC v (j + 1) else 0
  { bits := (cData c0 + cData c1 * 2 ^ 32) / 2 ^ o % 2 ^ w, tail := 0, tail2 := 0, psn := cPsn c0 || cPsn c1 }

/-- Element i of a register under a format (06 R127): an untailed format ignores the stored tail. -/
def Hart.elem (x : Hart) (f v i : Nat) : Elem :=
  let t := fun (n : Nat) => if fmtTailed f then n else 0
  if fmtPacked f then x.packedElem v (fmtWidth f) i
  else if fmtTwo f then
    let lo := x.getC v (2 * i)
    let hi := x.getC v (2 * i + 1)
    { bits := cData lo + cData hi * 2 ^ 32, tail := t (cTail lo), tail2 := t (cTail hi), psn := cPsn lo || cPsn hi }
  else
    let c := x.getC v i
    { bits := cData c % 2 ^ fmtWidth f, tail := t (cTail c), tail2 := 0, psn := cPsn c }

/-- Container bits with w bits replaced from bit o on. -/
def putBits (old o w v : Nat) : Nat :=
  old % 2 ^ o + v % 2 ^ w * 2 ^ o + old / 2 ^ (o + w) * 2 ^ (o + w)

/-- The register with the bits of a packed element written. The containers' tails become 0. A container that is poisoned stays so (15 R334)
unless fills says that the instruction writes all of it: its first element then starts it afresh. -/
def Hart.setPacked (x : Hart) (v w i bits : Nat) (psn : Bool) (fills : Nat → Bool) : Hart :=
  let j := w * i / 32
  let o := w * i % 32
  let c0 := x.getC v j
  let c1 := x.getC v (j + 1)
  let n := putBits (cData c0 + cData c1 * 2 ^ 32) o w bits
  let old := fun (c : BitVec 36) (k : Nat) => cPsn c && !(fills k && 32 * k / w == i)
  let y := x.setC v j (mkC (psn || old c0 j) 0 n)
  if o + w > 32 then y.setC v (j + 1) (mkC (psn || old c1 (j + 1)) 0 (n / 2 ^ 32)) else y

/-- Element i of a register written under a format (06 R127): signed integers extend their sign over the container, and an untailed
format writes tail 0b00. -/
def Hart.setElemIn (x : Hart) (f v i : Nat) (e : Elem) (fills : Nat → Bool) : Hart :=
  if fmtPacked f then x.setPacked v (fmtWidth f) i e.bits e.psn fills
  else
    let t := fun n => if fmtTailed f then n else 0
    if fmtTwo f then
      (x.setC v (2 * i) (mkC e.psn (t e.tail) e.bits)).setC v (2 * i + 1) (mkC e.psn (t e.tail2) (e.bits / 2 ^ 32))
    else
      let w := fmtWidth f
      let d := if f < 4 && e.bits / 2 ^ (w - 1) % 2 == 1 then 2 ^ 32 - 2 ^ w + e.bits % 2 ^ w else e.bits % 2 ^ w
      x.setC v i (mkC e.psn (t e.tail) d)

/-- Element i of a register written by an instruction that may leave other parts of its container. -/
def Hart.setElem (x : Hart) (f v i : Nat) (e : Elem) : Hart := x.setElemIn f v i e (fun _ => false)

/-- Whether an instruction writes every element of container j of a row: elements of w bits, those that on names among the first n. -/
def fillsPacked (w n : Nat) (on : Nat → Bool) (j : Nat) : Bool :=
  32 * (j + 1) ≤ w * n && ((List.range ((31 + w) / w + 1)).map (fun k => 32 * j / w + k)).all (fun i => 32 * (j + 1) ≤ w * i || on i)

/-- The containers of an element moved as they are, with tails and poison (07 R150). -/
def Hart.moveElem (x : Hart) (f v i : Nat) (src : Hart) (u k : Nat) : Hart :=
  if fmtTwo f then (x.setC v (2 * i) (src.getC u (2 * k))).setC v (2 * i + 1) (src.getC u (2 * k + 1))
  else x.setC v i (src.getC u k)

/-- Element i written as zero, tail 0b00, poison clear. -/
def Hart.zeroElem (x : Hart) (f v i : Nat) : Hart := x.setElem f v i Elem.zero

/-- The exact integer of an element's bits under an integer format. -/
def intOf (f bits : Nat) : Int := if fmtSigned f then signedOf (fmtWidth f) bits else (bits % 2 ^ fmtWidth f : Nat)

/-- The low bits of an integer under a format. -/
def bitsOfInt (f : Nat) (z : Int) : Nat := (z % (2 ^ fmtWidth f : Nat)).toNat

/-- An integer element. -/
def intElem (f : Nat) (z : Int) : Elem := { bits := bitsOfInt f z, tail := 0, tail2 := 0, psn := false }

/-- A value that conversions pass on: an integer, or a floating-point value. -/
inductive EVal where
  | int (z : Int)
  | fp (v : FVal)
  deriving DecidableEq, Repr

/-- A floating-point view of a value. -/
def EVal.toF (v : EVal) : FVal :=
  match v with
  | .int z => .fin (Ex.ofInt z)
  | .fp x => x

/-- A T2 code's value; 0b10 reads as 0 and sets NV (02 R20). -/
def t2Val (c : Nat) : Int × Flags :=
  match c with
  | 1 => (1, 0)
  | 3 => (-1, 0)
  | 2 => (0, flagNV)
  | _ => (0, 0)

/-- The T2 code of −1, 0 or 1. -/
def t2Code (z : Int) : Nat := if z < 0 then 3 else if z > 0 then 1 else 0

/-- The exact value of element bits under a format, with the tail where the format has one, and the flags of reading it. -/
def elemVal (f bits tail : Nat) : EVal × Flags :=
  if fmtInt f || f == 8 then (.int (intOf f bits), 0)
  else if f == 9 then let (z, fl) := t2Val (bits % 4); (.int z, fl)
  else (.fp ((fpOf f).value bits tail), 0)

/-- A value settled into memory format m (02 R31, Table 02.7): bits and flags. -/
def settleTo (m : Nat) (r : Rnd) (v : EVal) : Nat × Flags :=
  if m == 9 then
    match v with
    | .int z => let (y, fl) := saturate (-1) 1 z; (t2Code y, fl)
    | .fp x => let (y, fl) := floatToT2 r x; (t2Code y, fl)
  else if fmtInt m || m == 8 then
    match v with
    | .int z => let (y, fl) := saturate (intLo m) (intHi m) z; (bitsOfInt m y, fl)
    | .fp x => let (y, fl) := floatToInt r (intLo m) (intHi m) x; (bitsOfInt m y, fl)
  else
    let w := settle (fpOf m) r v.toF
    (w.code, w.flags)

/-- A value written into register format f (02 R30, R31, R34): an element and flags. -/
def writeElem (f : Nat) (fpctl : Word) (v : EVal) : Elem × Flags :=
  if fmtFloat f then
    let w := writeTailed (fpOf f) fpctl v.toF
    ({ bits := w.code, tail := w.tail, tail2 := 0, psn := false }, w.flags)
  else
    let (b, fl) := settleTo f (rndOf fpctl) v
    ({ bits := b, tail := 0, tail2 := 0, psn := false }, fl)

/-- A memory element of format m converted into register format f (05 Table 05.2): M = F copies bits. A C64 element is copied
part by part. -/
def loadConv (f m : Nat) (fpctl : Word) (bits : Nat) : Elem × Flags :=
  if f == m then
    if f == 9 && bits == 2 then (Elem.zero, flagNV)
    else ({ bits := bits, tail := 0, tail2 := 0, psn := false }, 0)
  else
    let (v, fl) := elemVal m bits 0
    let (e, fl2) := writeElem f fpctl v
    (e, fl ||| fl2)

/-- A register element of format f converted into memory format m (05 Table 05.2): a settlement; M = F copies a NaN unchanged. -/
def storeConv (f m : Nat) (fpctl : Word) (e : Elem) : Nat × Flags :=
  let r := rndOf fpctl
  if f == 13 then
    let re := settle fFP32 r (fFP32.value (e.bits % 2 ^ 32) e.tail)
    let im := settle fFP32 r (fFP32.value (e.bits / 2 ^ 32) e.tail2)
    let part := fun (w : Written) (raw : Nat) =>
      match fFP32.value raw 0 with
      | .nan _ _ => (raw, (0 : Flags))
      | _ => (w.code, w.flags)
    let (a, fa) := part re (e.bits % 2 ^ 32)
    let (b, fb) := part im (e.bits / 2 ^ 32)
    (a + b * 2 ^ 32, fa ||| fb)
  else if f == m && !fmtFloat f then
    if f == 9 && e.bits == 2 then (0, flagNV) else (e.bits, 0)
  else
    let (v, fl) := elemVal f e.bits e.tail
    match v with
    | .fp (.nan _ _) => if f == m then (e.bits, 0) else let (b, fl2) := settleTo m r v; (b, fl ||| fl2)
    | _ => let (b, fl2) := settleTo m r v; (b, fl ||| fl2)

/-- A block-scaled element expanded into FP32 (02 R27): the exact product, with the vector-born canonical NaN for a NaN scale and
for an infinite scale times zero. -/
def expandBs (bs : Nat) (fpctl : Word) (bits scale : Nat) : Elem × Flags :=
  let (v, fl) := elemVal (bsElem bs) bits 0
  let r : FRes :=
    match fBF16.value scale 0 with
    | .nan _ _ => (canonNan, flagNV)
    | sc =>
      match v.toF with
      | .nan n p => withNan [.nan n p] (.nan n p, 0)
      | x => mulCore x sc
  let w := writeTailed fFP32 fpctl r.1
  ({ bits := w.code, tail := w.tail, tail2 := 0, psn := false }, fl ||| r.2 ||| w.flags)

/-- Memory formats that loads and stores accept for a captured format (05 Table 05.2); block-scaled codes apart. -/
def pairOk (f m : Nat) : Bool :=
  if fmtInt f then fmtInt m
  else if fmtFloat f then m < 13 || (14 ≤ m && m ≤ 16)
  else f == m

/-- Memory formats of whole bytes (05 R97). -/
def wholeByte (m : Nat) : Bool := m < 8 || (10 ≤ m && m ≤ 15)

/-- Element bytes of a whole-byte format. -/
def fmtBytes (m : Nat) : Nat := fmtWidth m / 8

/-- A captured shape is legal for a hart with n owned slices and a set of formats (06 R129, 02 R18). -/
def shapeOk (n : Nat) (sh : Word) (accept : Nat → Bool) : Bool :=
  let f := shFmt sh
  shBlkCode sh < 4 && shPad sh ≤ shVL sh && shVL sh ≤ (if fmtTwo f then 64 * n else 128 * n) && f < 17 && accept f

/-- The registers of a group of n from v on. -/
def groupRegs (v n : Nat) : List Nat := (List.range n).map (fun i => v + i)

/-- A group of n registers ends by v31 (03 R50). -/
def groupOk (v n : Nat) : Bool := v + n ≤ 32

/-- Two groups share no register. -/
def disjointGroups (a na b nb : Nat) : Bool := a + na ≤ b || b + nb ≤ a

/-- Two groups coincide at their first register or share none (07 Table 07.2). -/
def sameOrDisjoint (a b n : Nat) : Bool := a == b || disjointGroups a n b n

end Sys2Proof.Machine
end

