-- ==== Sys2Proof/Machine/VecCore.lean ====
section
/-! DEFINITION. The vector core: what a vector instruction is to the VIQ (07 R140 to R150), captures (03 R49), the sweep over positions
(04 R88), register lines (06 R131 to R134), high-water marks (R135) and streams inside a sweep (05 R111 to R113). -/

namespace Sys2Proof.Machine

/-- How an instruction runs. pos: position by position in sweep order. load: a position first fetches from memory, then lands in the
register. whole: all at once at completion (08 R179). sync: as whole, with a scalar result (07 R143). -/
inductive VRun where
  | pos (f : State → Nat → VEntry → Nat → Nat → Except Stop State)
  | load (fetch : State → Nat → VEntry → Nat → Nat → Except Stop (List LoadDatum × State))
      (land : Hart → VEntry → LoadDatum → Hart)
  | whole (f : State → Nat → VEntry → Except (Nat × Trap) State)
  | sync (f : Hart → VEntry → Except (Nat × Trap) (Word × Hart))

/-- The lines of some registers for rows of c containers. -/
def linesOf (regs : List Nat) (c : Nat) : List Nat :=
  regs.flatMap (fun v => (List.range ((c + 127) / 128)).map (fun j => 4 * v + j))

/-- A vector instruction as the VIQ sees it. legal: the checks at capture. reads, writes: its vector registers. mreads, mwrites: its
masks. sweep: the shape whose positions it visits. conts: containers per row. hwm: HVL and HREG that its first beat raises (06 R135).
perm: its sources are read out of position order. mem: it accesses memory. fin: what
completion adds after the last position. pre: the checks made at issue, at every VL (07 R149). ready: what issue waits for beyond the
order of the VIQ. quiet: its pops set no flag (10 R229). rconts, wconts: containers per row of its source and destination groups; rlines: the lines that it
reads (06 R133). -/
structure VOp where
  legal   : Hart → Capture → Bool
  reads   : Capture → List Nat
  writes  : Capture → List Nat
  mreads  : List Nat
  mwrites : List Nat
  sweep   : Capture → Word
  conts   : Capture → Nat
  hwm     : Capture → Option (Nat × Nat)
  perm    : Bool
  mem     : Bool
  fin     : Hart → VEntry → Hart
  run     : VRun
  pre     : State → Nat → VEntry → Option Trap := fun _ _ _ => none
  ready   : State → Nat → VEntry → Bool := fun _ _ _ => true
  quiet   : Bool := false
  wconts  : Capture → Nat := conts
  rlines  : Capture → List Nat := fun c => linesOf (reads c) (conts c)

/-- The scalar operands that an instruction captures (03 R49, 15 Table 15.6): s[a], s[b], and whether s(a+1). The exchange handle of
xsend stands in its d field. -/
def scalarFields (i : Instr) : Option (BitVec 5) × Option (BitVec 5) × Bool :=
  match i with
  | .vsplat _ a _ _ => (some a, none, false)
  | .vins _ a b _ => (some a, some b, false)
  | .vmovs _ _ b _ => (none, some b, false)
  | .vslideUp _ _ b _ _ => (none, some b, false)
  | .vslideDn _ _ b _ _ => (none, some b, false)
  | .vbcast _ _ b _ _ => (none, some b, false)
  | .xsend d _ _ _ _ => (some d, none, false)
  | .mext _ a _ _ _ => (some a, none, false)
  | .mplane _ a _ _ => (some a, none, false)
  | .vld _ a _ _ _ f => (some a, none, isBlockScaled f)
  | .vst _ a _ _ _ _ => (some a, none, false)
  | .vlds _ a b _ _ _ => (some a, some b, false)
  | .vsts _ a b _ _ _ => (some a, some b, false)
  | .vldx _ a _ _ _ _ => (some a, none, false)
  | .vstx _ a _ _ _ _ => (some a, none, false)
  | .vldw _ a _ _ _ _ => (some a, none, true)
  | .vldseg _ a _ _ _ _ => (some a, none, false)
  | .vstseg _ a _ _ _ _ => (some a, none, false)
  | .vredAdd _ a _ _ _ _ => (some a, none, false)
  | .vredMin _ a _ _ _ _ => (some a, none, false)
  | .vredMax _ a _ _ _ _ => (some a, none, false)
  | .vspill _ a _ => (some a, none, false)
  | .vfill _ a _ => (some a, none, false)
  | _ => (none, none, false)

/-- The captures that a hart makes for a vector instruction with shape register n (03 R49, 02 R35); k is the second shape register
of vreshape. -/
def captureOf (s : State) (h : Nat) (i : Instr) (n k : Nat) : Capture :=
  let x := getHart s h
  let f := scalarFields i
  let val := fun (o : Option (BitVec 5)) => match o with | some r => x.getS r | none => 0
  { shape := x.getSh n, shapeK := x.getSh k, fpctl := x.csr.fpctl, sa := val f.1, sb := val f.2.1,
    sa1 := if f.2.2 then (match f.1 with | some r => x.getS (r + 1) | none => 0) else 0, slices := slicesOf s h }

/-- Whether register v is a bound stream, with its direction. -/
def Hart.streamAt (x : Hart) (v : Nat) : Option Stream := smFind x.streams v

/-- A stream's format pairs with a captured format (05 R111, Table 05.2). -/
def streamPair (f : Nat) (t : Stream) : Bool := if 17 ≤ t.fmt then f == 12 else pairOk f t.fmt

/-- Uses of bound registers that capture admits (05 R111, R112): the ROWS that count are those of the group's own shape, which for the
destination of a vreshape is the second one. -/
def streamsOk (x : Hart) (op : VOp) (c : Capture) : Bool :=
  let one := fun (v : Nat) (wr : Bool) =>
    match x.streamAt v with
    | none => true
    | some t => shRows (if wr then op.sweep c else c.shape) == 1 && t.out == wr && streamPair (shFmt c.shape) t
  (op.reads c).all (fun v => one v false) && (op.writes c).all (fun v => one v true)

/-- Poison of a consumed vector element (07 R150, 15 Table 15.1): the register number, and 1. -/
def poisonReg (v : Nat) : Trap := { cause := .poison, tval := word v, tval2 := 1 }

/-- The number by which the poison record of a chunk tells one vector instruction's writes from another's. -/
def writerOf (h : Nat) (e : VEntry) : Nat := 1 + h * 65536 + e.seq.toNat

/-! Register lines. -/

/-- The address of a register line (06 R132). -/
def lineAddr (vback : Word) (line : Nat) : Word := vback + word (line * 576)

/-- An access of a backing area on a path: translated through PTROOT, with no protection against the context's own traffic (06 R132). -/
def backAccess (s : State) (a : Agent) (va : Word) (k : AKind) (p : Path) : Except Stop (Nat × State) :=
  match translate s a va k with
  | .error t => .error t
  | .ok (e, s1) =>
    match resolve s1 a.core va (e.paOf va) k with
    | .error t => .error { trap := t, state := s1 }
    | .ok key => .ok (key, cacheTouch s1 a.core key k p e)

/-- The agent of a context's register traffic. -/
def backAgent (core : Nat) (root : Word) (h : Nat) : Agent := { core := core, root := root, user := false, hart := h }

/-- Word k of a line's image (06 R131): 64 words of DATA pairs, then 8 words of nibbles. -/
def lineWord (x : Hart) (line k : Nat) : Nat :=
  let v := line / 4
  let c0 := 128 * (line % 4)
  if k < 64 then cData (x.getC v (c0 + 2 * k)) + cData (x.getC v (c0 + 2 * k + 1)) * 2 ^ 32
  else ((List.range 16).map (fun i =>
    let c := x.getC v (c0 + 16 * (k - 64) + i)
    (cTail c + if cPsn c then 4 else 0) * 16 ^ i)).sum

/-- The hart with the data of two containers of a line from an image word. -/
def setLineData (x : Hart) (line k w : Nat) : Hart :=
  let v := line / 4
  let c := 128 * (line % 4) + 2 * k
  let y := x.setC v c (mkC false 0 w)
  y.setC v (c + 1) (mkC false 0 (w / 2 ^ 32))

/-- The hart with the nibbles of 16 containers of a line from an image word. -/
def setLineNibbles (x : Hart) (line k w : Nat) : Hart :=
  let v := line / 4
  (List.range 16).foldl (fun y i =>
    let c := 128 * (line % 4) + 16 * k + i
    let n := w / 16 ^ i % 16
    y.setC v c (mkC (bitOf n 2) n (cData (y.getC v c)))) x

/-- Why a line cannot be brought or written back: its address, and the state that is left. -/
structure LineStop where
  addr  : Word
  state : State

/-- Reads the words of a line from its backing area into the hart: fails with the line's address where a word faults or is poisoned
(06 R132). -/
def fillWords (a : Agent) (h line : Nat) (base : Word) : List Nat → State → Except LineStop State
  | [], s => .ok s
  | k :: ks, s =>
    match backAccess s a (base + word (8 * k)) .load .scalar with
    | .error e => .error { addr := base, state := e.state }
    | .ok (key, s1) =>
      if isPoisoned s1 key then .error { addr := base, state := s1 }
      else
        let w := memNat s1 key 8
        let x := getHart s1 h
        fillWords a h line base ks (putHart s1 h (if k < 64 then setLineData x line k w else setLineNibbles x line (k - 64) w))

/-- Writes the words of a line to its backing area; a line covers whole chunks, so that no fill comes before them (04 R72). -/
def spillWords (a : Agent) (h line : Nat) (base : Word) : List Nat → State → Except LineStop State
  | [], s => .ok s
  | k :: ks, s =>
    match backAccess s a (base + word (8 * k)) .store .line with
    | .error e => .error { addr := base, state := e.state }
    | .ok (key, s1) => spillWords a h line base ks (putNat s1 (2 ^ 40 + line) key (lineWord (getHart s1 h) line k) 8)

/-- The write-back of a line to a backing area of a hart (06 R133). -/
def writeBackLine (s : State) (h line : Nat) (back : Word) : Except LineStop State :=
  let x := getHart s h
  spillWords (backAgent (coreOf h) x.csr.ptroot h) h line (lineAddr back line) (List.range 72) s

/-- The containers of a line dropped from the hart. -/
def dropLine (x : Hart) (line : Nat) : Hart :=
  let k := cKey (line / 4) (128 * (line % 4))
  { x with vreg := smClear x.vreg k (k + 128) }

/-- The state of a line. -/
def Hart.line (x : Hart) (line : Nat) : LineState := smGet .dead x.vlines line

/-- The hart with a line's state set. -/
def Hart.setLine (x : Hart) (line : Nat) (st : LineState) : Hart := { x with vlines := smSet .dead x.vlines line st }

/-- Whether an entry of a hart's VIQ references a line: an executing one, or any (06 R134). -/
def Hart.refers (x : Hart) (line : Nat) (executing : Bool) : Bool :=
  x.viq.any (fun e => (e.issued || !executing) && e.lines.contains line)

/-- Resident lines of a core: hart, line, last use, dirty. -/
def residentLines (s : State) (core : Nat) : List (Nat × Nat × Nat × Bool) :=
  [0, 1, 2, 3].flatMap (fun k =>
    let h := 4 * core + k
    (getHart s h).vlines.filterMap (fun p =>
      match p.2 with
      | .resident d u => some (h, p.1, u, d)
      | _ => none))

/-- The least recently used of some lines. All lines of one instruction are used at one time; among lines of one time the lowest hart and
then the lowest line goes first, which the manual leaves open (DESIGN CHOICE, log entry 87). -/
def oldestLine : List (Nat × Nat × Nat × Bool) → Option (Nat × Nat × Nat × Bool)
  | [] => none
  | l :: ls =>
    match oldestLine ls with
    | none => some l
    | some m => if m.2.2.1 < l.2.2.1 then some m else some l

/-- The line to evict for an entry of hart own that references mine (06 R134): the least recently used that no VIQ entry references, failing
that the least recently used that no executing entry references. -/
def lineVictim (s : State) (own core : Nat) (mine : List Nat) : Option (Nat × Nat × Nat × Bool) :=
  let ls := (residentLines s core).filter (fun l => !(l.1 == own && mine.contains l.2.1))
  match oldestLine (ls.filter (fun l => !(getHart s l.1).refers l.2.1 false)) with
  | some l => some l
  | none => oldestLine (ls.filter (fun l => !(getHart s l.1).refers l.2.1 true))

/-- Whether the lines that an entry references can all be resident beside those of executing entries (06 R134). -/
def canStart (s : State) (h : Nat) (mine : List Nat) : Bool :=
  let core := coreOf h
  let held := (residentLines s core).filter (fun l => (getHart s l.1).refers l.2.1 true && !(l.1 == h && mine.contains l.2.1))
  held.length + mine.eraseDups.length ≤ 7 * (getCore s core).poolReg.toNat

/-- Evicts one line of a full partition for hart own. A write-back that fails raises REGBACK at the line's own hart; where that is the hart
which needs the room, its instruction gets no further. -/
def makeRoom (s : State) (own core : Nat) (mine : List Nat) : Except LineStop State :=
  if (residentLines s core).length < 7 * (getCore s core).poolReg.toNat then .ok s
  else
    match lineVictim s own core mine with
    | none => .ok s
    | some (h, line, _, dirty) =>
      let gone := fun (t : State) => let y := dropLine (getHart t h) line; putHart t h (y.setLine line .away)
      if dirty then
        match writeBackLine s h line (getHart s h).back with
        | .error w =>
          if h = own then .error w
          else .ok (putHart w.state h ((getHart w.state h).takeRegback w.addr (getHart w.state h).pc))
        | .ok t => .ok (gone t)
      else .ok (gone s)

/-- A line brought to the partition for an instruction (06 R133): a dead line that is read stays dead, a dead line that is written is
allocated, a line elsewhere is filled unless the instruction writes all of it, which whole says of a state. -/
def ensureLine (s : State) (h line : Nat) (write : Bool) (whole : State → Nat → Bool) (mine : List Nat) : Except LineStop State :=
  let x := getHart s h
  match x.line line with
  | .dead =>
    if write then
      match makeRoom s h (coreOf h) mine with
      | .error w => .error w
      | .ok s1 => .ok (putHart s1 h ((getHart s1 h).setLine line (.resident true s.steps)))
    else .ok s
  | .resident d _ => .ok (putHart s h (x.setLine line (.resident (d || write) s.steps)))
  | .away =>
    match makeRoom s h (coreOf h) mine with
    | .error w => .error w
    | .ok s1 =>
      let y := getHart s1 h
      let filled := if write && whole s1 line then .ok s1
        else fillWords (backAgent (coreOf h) y.csr.ptroot h) h line (lineAddr y.back line) (List.range 72) s1
      match filled with
      | .error w => .error w
      | .ok s2 => .ok (putHart s2 h ((getHart s2 h).setLine line (.resident write s.steps)))

/-- Several lines in order; whole says which of them the instruction writes whole. -/
def ensureLines (h : Nat) (write : Bool) (whole : State → Nat → Bool) (mine : List Nat) : List Nat → State → Except LineStop State
  | [], s => .ok s
  | l :: ls, s =>
    match ensureLine s h l write whole mine with
    | .error w => .error w
    | .ok s1 => ensureLines h write whole mine ls s1

/-! High-water marks. -/

/-- HWM raised by a vector write of hvl containers per row up to register hreg (06 R135). -/
def raiseHwm (hwm : Word) (hvl hreg : Nat) : Word :=
  let n := hwm.toNat
  let lo := max (n % 1024) hvl
  let rg := max (n / 1024 % 32) hreg
  word (n / 65536 * 65536 + 32768 + rg % 32 * 1024 + lo % 1024)

/-- HWM raised by a matrix write of rows up to the given count in a tile (06 R135). -/
def raiseHacc (hwm : Word) (tile rows : Nat) : Word :=
  let n := hwm.toNat
  let a0 := n / 2 ^ 16 % 512
  let a1 := n / 2 ^ 25 % 512
  let b0 := if tile == 0 then max a0 rows else a0
  let b1 := if tile == 0 then a1 else max a1 rows
  word (n % 65536 + b0 % 512 * 2 ^ 16 + b1 % 512 * 2 ^ 25)

/-! Streams inside a sweep. -/

/-- Indices of stream element n, innermost first (05 R110). -/
def streamIndex (t : Stream) (n : Nat) : List Nat :=
  let c := fun k => t.cnt.getD k 1
  [n % c 0, n / c 0 % c 1, n / (c 0 * c 1) % c 2, n / (c 0 * c 1 * c 2)]

/-- Number of elements of a stream. -/
def streamLen (t : Stream) : Nat := t.cnt.foldl (· * ·) 1

/-- Where element n of a stream lies (05 R110): its address and, for packed formats, the first bit within the byte. -/
def streamPlace (t : Stream) (n : Nat) : Word × Nat :=
  let ix := streamIndex t n
  let m := if 17 ≤ t.fmt then bsElem t.fmt else t.fmt
  let outer := ((List.zip (ix.drop 1) (t.strides.drop 1)).map (fun p => (p.1 : Int) * p.2)).sum
  if fmtPacked m then
    let bit := (if m == 16 then 2 * t.bofs else 0) + fmtWidth m * ix.headD 0
    (addInt t.base (outer + (bit / 8 : Nat)), bit % 8)
  else if 17 ≤ t.fmt then (addInt t.base (outer + ((ix.headD 0 * fmtBytes m : Nat) : Int)), 0)
  else (addInt t.base (outer + (ix.headD 0 : Int) * t.strides.headD 0), 0)

/-- The scale address of element n of a block-scaled stream. -/
def streamScale (t : Stream) (n : Nat) : Word := t.scale + word (2 * (n / (16 * 2 ^ t.blk)))

/-- Bits read from memory at an address: w bits from bit o of the byte on, with the poison of their chunks. -/
def readBits (s : State) (a : Agent) (va : Word) (o w : Nat) (p : Path) : Except Stop (Nat × Bool × State) :=
  let n := (o + w + 7) / 8
  if n ≤ 1 || o == 0 then
    match access s a va n .load p with
    | .error t => .error t
    | .ok (key, s1) => .ok (memNat s1 key n / 2 ^ o % 2 ^ w, isPoisoned s1 key, s1)
  else
    match access s a va 1 .load p with
    | .error t => .error t
    | .ok (k0, s1) =>
      match access s1 a (va + 1) 1 .load p with
      | .error t => .error t
      | .ok (k1, s2) =>
        .ok (((memByte s2 k0).toNat + (memByte s2 k1).toNat * 256) / 2 ^ o % 2 ^ w,
             isPoisoned s2 k0 || isPoisoned s2 k1, s2)

/-- Bits of a value as masked bytes from bit o of the byte at a key. -/
def maskedBits (key o w v : Nat) : MaskedByte :=
  { key := key, mask := BitVec.ofNat 8 ((2 ^ w - 1) * 2 ^ o), val := BitVec.ofNat 8 (v % 2 ^ w * 2 ^ o) }

/-- The writes that put w bits at an address, checked and translated (05 R100). -/
def writeBits (s : State) (a : Agent) (va : Word) (o w v : Nat) (p : Path) : Except Stop (List MaskedByte × State) :=
  if o + w ≤ 8 && (o != 0 || w < 8) then
    match access s a va 1 .store p with
    | .error t => .error t
    | .ok (key, s1) => .ok ([maskedBits key o w v], s1)
  else if o == 0 && w % 8 == 0 then
    match access s a va (w / 8) .store p with
    | .error t => .error t
    | .ok (key, s1) => .ok (bytesAt key v (w / 8), s1)
  else
    match access s a va 1 .store p with
    | .error t => .error t
    | .ok (k0, s1) =>
      match access s1 a (va + 1) 1 .store p with
      | .error t => .error t
      | .ok (k1, s2) => .ok ([maskedBits k0 o (8 - o) v, maskedBits k1 0 (o + w - 8) (v / 2 ^ (8 - o))], s2)

/-- Reads element n of an in-stream from memory. An element whose address is not a multiple of its size raises ALIGN, as at a vector access
(05 R99): no stream rule names the check (DESIGN CHOICE, log entry 88). -/
def streamRead (s : State) (a : Agent) (t : Stream) (n : Nat) : Except Stop (StreamDatum × State) :=
  let m := if 17 ≤ t.fmt then bsElem t.fmt else t.fmt
  let (va, o) := streamPlace t n
  if !fmtPacked m && va.toNat % fmtBytes m != 0 then .error { trap := alignTrap va, state := s }
  else if 17 ≤ t.fmt && t.scale.toNat % 2 != 0 then .error { trap := alignTrap t.scale, state := s }
  else
    match readBits s a va o (fmtWidth m) .engine with
    | .error e => .error e
    | .ok (b, psn, s1) =>
      if 17 ≤ t.fmt then
        match readBits s1 a (streamScale t n) 0 16 .engine with
        | .error e => .error e
        | .ok (sc, psn2, s2) => .ok ({ n := n, bits := b, scale := sc, psn := psn || psn2 }, s2)
      else .ok ({ n := n, bits := b, scale := 0, psn := psn }, s1)

/-- The addresses that element n of a stream takes its bits and its scale from. -/
def streamAddrs (t : Stream) (n : Nat) : List Word :=
  let (va, o) := streamPlace t n
  let f := if 17 ≤ t.fmt then bsElem t.fmt else t.fmt
  va :: (if fmtPacked f && 8 < o + fmtWidth f then [va + 1] else []) ++ (if 17 ≤ t.fmt then [streamScale t n] else [])

/-- Addresses translated and checked for a load that reads nothing. -/
def reach (a : Agent) : List Word → State → Except Stop State
  | [], s => .ok s
  | va :: vas, s =>
    match translate s a va .load with
    | .error e => .error e
    | .ok (e, s1) =>
      match resolve s1 a.core va (e.paOf va) .load with
      | .error t => .error { trap := t, state := s1 }
      | .ok _ => reach a vas s1

/-- The next element of an in-stream: the one in its buffer, translated and checked now that it is popped, else read now (05 R113, R116). -/
def streamNext (s : State) (h : Nat) (t : Stream) : Except Stop (StreamDatum × State) :=
  match t.fetched.find? (fun d => d.n == t.pos) with
  | some d =>
    (match reach (agentOf s h) (streamAddrs t t.pos) s with
     | .error e => .error e
     | .ok s1 => .ok (d, s1))
  | none => streamRead s (agentOf s h) t t.pos

/-- A datum of an in-stream as an element of format f, with the flags of its conversion. -/
def streamConv (t : Stream) (f : Nat) (fpctl : Word) (d : StreamDatum) : Elem × Flags :=
  if 17 ≤ t.fmt then expandBs t.fmt fpctl d.bits d.scale else loadConv f t.fmt fpctl d.bits

/-- The same without its flags. -/
def streamElem (t : Stream) (f : Nat) (fpctl : Word) (d : StreamDatum) : Elem := (streamConv t f fpctl d).1

/-- The state with the in-stream t of register v past its current element; past its end the pops are counted. -/
def streamPast (s : State) (h v : Nat) (t : Stream) : State :=
  let x := getHart s h
  let t1 := { t with
    pos := t.pos + 1, fetched := t.fetched.filter (fun d => d.n != t.pos)
    overrun := if streamLen t ≤ t.pos then min 65535 (t.overrun + 1) else t.overrun }
  putHart s h { x with streams := smPut x.streams v t1 }

/-- Pops one element of the in-stream at register v into position i of n under format f (05 R111, R113). Only an active position sets the
flags of the conversion (02 R37); an element beyond the end reads as zero. -/
def streamPop (s : State) (h v f i n : Nat) (fpctl : Word) (active : Bool) : Except Stop State :=
  let x := getHart s h
  let fills := fillsPacked (fmtWidth f) n (fun _ => true)
  match x.streamAt v with
  | none => .ok s
  | some t =>
    if t.out then .ok s
    else if streamLen t ≤ t.pos then
      .ok (streamPast (putHart s h (x.setElemIn f v i Elem.zero fills)) h v t)
    else
      match streamNext s h t with
      | .error e => .error e
      | .ok (d, s1) =>
        let (e, fl) := streamConv t f fpctl d
        let z := (getHart s1 h).setElemIn f v i { e with psn := d.psn } fills
        .ok (streamPast (putHart s1 h (if active then z.addFlags fl else z)) h v t)

/-- Bytes of memory-format data that a stream's buffer holds (05 R113). -/
def streamRoom : Nat := 4096

/-- The oldest pushed element of an out-stream leaves its buffer. It becomes a write of the hart when the stream is freed (12 R271), so
until then no access of the hart meets it. -/
def streamDrainOne (s : State) (h v : Nat) : State :=
  let x := getHart s h
  match x.streamAt v with
  | none => s
  | some t =>
    match t.pushed with
    | [] => s
    | b :: bs => putHart s h { x with streams := smPut x.streams v { t with pushed := bs, drained := t.drained ++ [b] } }

/-- Writes every element pushed to an out-stream, after the older stores of the hart (05 R114, 12 R264, R271). -/
def streamDrainAll (s : State) (h v : Nat) : State :=
  match (getHart s h).streamAt v with
  | none => s
  | some t =>
    let s0 := if (getHart s h).storeQ.isEmpty then s else drainAll s h
    let s1 := writeAll s0 (2 ^ 63 + 4 * h + v % 4) ((t.drained ++ t.pushed).flatten)
    let y := getHart s1 h
    putHart s1 h { y with streams := smPut y.streams v { t with pushed := [], drained := [] } }

/-- Pushes position i of the out-stream register v (05 R111, R113): an inactive position advances the stream and changes no memory; a
push beyond the end is discarded and counted. -/
def streamPush (s : State) (h v f i : Nat) (fpctl : Word) (active : Bool) : Except Stop State :=
  let x := getHart s h
  match x.streamAt v with
  | none => .ok s
  | some t =>
    if !t.out then .ok s
    else
      let on := fun (s : State) (t : Stream) => let y := getHart s h; putHart s h { y with streams := smPut y.streams v t }
      if streamLen t ≤ t.pos then
        .ok (on s { t with pos := t.pos + 1, overrun := min 65535 (t.overrun + 1) })
      else if !active then .ok (on s { t with pos := t.pos + 1 })
      else
        let e := x.elem f v i
        if e.psn then .error { trap := poisonReg v, state := s }
        else
          let (b, fl) := storeConv f t.fmt fpctl e
          let (va, o) := streamPlace t t.pos
          if !fmtPacked t.fmt && va.toNat % fmtBytes t.fmt != 0 then .error { trap := alignTrap va, state := s }
          else
            match writeBits s (agentOf s h) va o (fmtWidth t.fmt) b .engine with
            | .error e => .error e
            | .ok (bs, s1) =>
              let s2 := if streamRoom ≤ t.pushed.length * ((fmtWidth t.fmt + 7) / 8) then streamDrainOne s1 h v else s1
              let t2 := match (getHart s2 h).streamAt v with | some t => t | none => t
              let s3 := on s2 { t2 with pos := t2.pos + 1, pushed := t2.pushed ++ [bs] }
              .ok (putHart s3 h ((getHart s3 h).addFlags fl))

/-- Applies a check or change for each of some registers in order. -/
def eachReg (f : State → Nat → Except Stop State) : List Nat → State → Except Stop State
  | [], s => .ok s
  | v :: vs, s =>
    match f s v with
    | .error t => .error t
    | .ok s1 => eachReg f vs s1

/-- Bound registers among some, each once. -/
def boundAmong (x : Hart) (vs : List Nat) : List Nat := [28, 29, 30, 31].filter (fun v => vs.contains v && (x.streamAt v).isSome)

/-! The sweep. -/

/-- The elements that a position works on. -/
def realLen (sh : Word) : Nat := shVL sh - shPad sh

/-- A step over positions in order, up to the first that faults (04 R88): the state that it stops at, with the harts as the positions before
it left them. -/
def sweepOver (f : State → Nat → Except Stop State) : List Nat → State → State × Option (Nat × Trap)
  | [], s => (s, none)
  | p :: ps, s =>
    match f s p with
    | .error e => ((e.keep s).state, some (p, e.trap))
    | .ok s1 => sweepOver f ps s1

/-- Lands data in order. -/
def landAll (land : Hart → VEntry → LoadDatum → Hart) (x : Hart) (e : VEntry) (ds : List LoadDatum) : Hart :=
  ds.foldl (fun x d => land x e d) x

/-- The mask of an instruction's m field. -/
def maskField (i : Instr) : Nat :=
  match i with
  | .vldw _ _ _ _ m _ => m.toNat
  | .vld _ _ _ _ m _ => m.toNat
  | .vlds _ _ _ _ m _ => m.toNat
  | .vldx _ _ _ _ m _ => m.toNat
  | .vldseg _ _ _ _ m _ => m.toNat
  | .vadd _ _ _ _ m => m.toNat
  | .vsub _ _ _ _ m => m.toNat
  | .vmul _ _ _ _ m => m.toNat
  | .vmulh _ _ _ _ m => m.toNat
  | .vmacc _ _ _ _ m => m.toNat
  | .vsadd _ _ _ _ m => m.toNat
  | .vssub _ _ _ _ m => m.toNat
  | .vmin _ _ _ _ m => m.toNat
  | .vmax _ _ _ _ m => m.toNat
  | .vand _ _ _ _ m => m.toNat
  | .vor _ _ _ _ m => m.toNat
  | .vxor _ _ _ _ m => m.toNat
  | .vsll _ _ _ _ m => m.toNat
  | .vsrl _ _ _ _ m => m.toNat
  | .vsra _ _ _ _ m => m.toNat
  | .vnshrTz _ _ _ _ m => m.toNat
  | .vnshrHu _ _ _ _ m => m.toNat
  | .vnshrHe _ _ _ _ m => m.toNat
  | .vnshrOd _ _ _ _ m => m.toNat
  | .vmv _ _ _ m => m.toNat
  | .vsplat _ _ _ m => m.toNat
  | .vid _ _ m => m.toNat
  | .viota _ _ _ m => m.toNat
  | .vperm _ _ _ _ m => m.toNat
  | .vslideUp _ _ _ _ m => m.toNat
  | .vslideDn _ _ _ _ m => m.toNat
  | .vreshape _ _ _ _ m => m.toNat
  | .vbcast _ _ _ _ m => m.toNat
  | .vunpack _ _ _ m => m.toNat
  | .vlut _ _ _ _ m => m.toNat
  | .vexpand _ _ _ m => m.toNat
  | .vfadd _ _ _ _ m => m.toNat
  | .vfsub _ _ _ _ m => m.toNat
  | .vfmul _ _ _ _ m => m.toNat
  | .vfma _ _ _ _ m => m.toNat
  | .vfms _ _ _ _ m => m.toNat
  | .vfnma _ _ _ _ m => m.toNat
  | .vfdiv _ _ _ _ m => m.toNat
  | .vfsqrt _ _ _ m => m.toNat
  | .vfmin _ _ _ _ m => m.toNat
  | .vfmax _ _ _ _ m => m.toNat
  | .vfsgnJ _ _ _ _ m => m.toNat
  | .vfsgnJn _ _ _ _ m => m.toNat
  | .vfsgnJx _ _ _ _ m => m.toNat
  | .vfclass _ _ _ m => m.toNat
  | .vfrcp _ _ _ m => m.toNat
  | .vfrsq _ _ _ m => m.toNat
  | .vfexp2 _ _ _ m => m.toNat
  | .vflog2 _ _ _ m => m.toNat
  | .vsettle _ _ _ m => m.toNat
  | .vtail _ _ _ m => m.toNat
  | .vcvt _ _ _ _ m => m.toNat
  | .vscanAdd _ _ _ m => m.toNat
  | .vscanMax _ _ _ m => m.toNat
  | .vtopk _ _ _ _ m => m.toNat
  | .mext _ _ _ _ m => m.toNat
  | .vredmin _ _ _ m => m.toNat
  | .vredmax _ _ _ m => m.toNat
  | .vredsumTree _ _ _ m => m.toNat
  | .vredsumOrd _ _ _ _ m => m.toNat
  | .rgenTop _ _ _ _ m => m.toNat
  | .rgen _ _ _ _ m => m.toNat
  | _ => 0

/-- The gating mask of a comparison or of a mask read. -/
def maskOfCmp (i : Instr) : Nat :=
  match i with
  | .vcmpEq _ _ _ _ m => m.toNat
  | .vcmpNe _ _ _ _ m => m.toNat
  | .vcmpLt _ _ _ _ m => m.toNat
  | .vcmpLe _ _ _ _ m => m.toNat
  | .vcmpGt _ _ _ _ m => m.toNat
  | .vcmpGe _ _ _ _ m => m.toNat
  | .vfcmpEq _ _ _ _ m => m.toNat
  | .vfcmpNe _ _ _ _ m => m.toNat
  | .vfcmpLt _ _ _ _ m => m.toNat
  | .vfcmpLe _ _ _ _ m => m.toNat
  | .vfcmpGt _ _ _ _ m => m.toNat
  | .vfcmpGe _ _ _ _ m => m.toNat
  | .vfcmpUn _ _ _ _ m => m.toNat
  | _ => 0

/-- The mask that makes a position of an instruction active: where a mask only selects between results, m0 (07 R147). So every pop of a vmerge, a
vcompress or a vexpand may set flags, and a vexpand pushes at every position; 02 R37 does not say which pops of such an instruction set flags
(DESIGN CHOICE, log entry 107). -/
def gateField (i : Instr) : Nat :=
  match i with
  | .vst _ _ _ _ m _ => m.toNat
  | .vsts _ _ _ _ m _ => m.toNat
  | .vstx _ _ _ _ m _ => m.toNat
  | .vstseg _ _ _ _ m _ => m.toNat
  | .vredAdd _ _ _ _ m _ => m.toNat
  | .vredMin _ _ _ _ m _ => m.toNat
  | .vredMax _ _ _ _ m _ => m.toNat
  | .vargmax _ _ _ m => m.toNat
  | .mplane _ _ _ m => m.toNat
  | .xsend _ _ _ _ m => m.toNat
  | .vexpand .. => 0
  | i => if maskOfCmp i = 0 then maskField i else maskOfCmp i

/-- Whether an instruction's mask makes position i active; the real length of its sweep bounds it. -/
def gateOn (x : Hart) (i : Instr) (p : Nat) : Bool := x.maskBit (gateField i) p

/-- Whether the pop at position p of an instruction out of position order is an active one: the element of a vreshape goes to the p-th position of
its second shape (07 R160). -/
def popGate (x : Hart) (e : VEntry) (p : Nat) : Bool :=
  match e.instr with
  | .vreshape .. => let n := realLen e.cap.shapeK; p < shRows e.cap.shapeK * n && gateOn x e.instr (p % n)
  | i => gateOn x i p

/-- One position of an instruction, with the pops before it and the pushes after it (05 R111). Instructions of the permute class have
popped all their elements before. -/
def onePos (op : VOp) (h : Nat) (e : VEntry) (s : State) (p : Nat) : Except Stop State :=
  let sh := op.sweep e.cap
  let r := p / shVL sh
  let i := p % shVL sh
  let f := shFmt e.cap.shape
  let x := getHart s h
  let real := i < realLen sh
  let act := gateOn x e.instr i && !op.quiet
  let pops := if real && !op.perm then boundAmong x (op.reads e.cap) else []
  match eachReg (fun s v => streamPop s h v f i (realLen sh) e.cap.fpctl act) pops s with
  | .error t => .error t
  | .ok s1 =>
    let body := match op.run with
      | .pos g => g s1 h e r i
      | .load fetch land =>
        (match fetch s1 h e r i with
         | .error t => .error t
         | .ok (ds, s2) => .ok (putHart s2 h (landAll land (getHart s2 h) e ds)))
      | _ => .ok s1
    match body with
    | .error t => .error t
    | .ok s2 =>
      if real then eachReg (fun s v => streamPush s h v f i e.cap.fpctl act) (boundAmong x (op.writes e.cap)) s2
      else .ok s2

/-- The state with the oldest VIQ entry of a hart changed. -/
def setHead (s : State) (h : Nat) (f : VEntry → VEntry) : State :=
  let x := getHart s h
  match x.viq with
  | [] => s
  | e :: es => putHart s h { x with viq := f e :: es }

/-- A register's padding positions zero: so they read where it is an in-stream (05 R111). -/
def padZero (f vl n : Nat) (x : Hart) (v : Nat) : Hart :=
  ((List.range vl).drop n).foldl (fun x i => x.setElemIn f v i Elem.zero (fillsPacked (fmtWidth f) vl (fun _ => true))) x

/-- Pops of every element that an instruction out of position order reads and has not popped yet (05 R111); a fault leaves the elements
before it popped and the streams at the faulting one (R113). -/
def popAhead (op : VOp) (h : Nat) (e : VEntry) (s : State) : State × Option (Nat × Trap) :=
  let sh := e.cap.shape
  let x := getHart s h
  let vs := boundAmong x (op.reads e.cap)
  if vs.isEmpty then (s, none)
  else
    let one := fun (s : State) (p : Nat) =>
      match eachReg (fun s v => streamPop s h v (shFmt sh) p (realLen sh) e.cap.fpctl (popGate x e p)) vs s with
      | .error t => .error t
      | .ok s1 => .ok (setHead s1 h (fun q => { q with popped := p + 1 }))
    sweepOver one ((List.range (realLen sh)).drop e.popped)
      (putHart s h (vs.foldl (padZero (shFmt sh) (shVL sh) (realLen sh)) x))

/-- Pushes of every element of the out-streams that an instruction out of position order writes and has not pushed yet (05 R111, R113). -/
def pushBehind (op : VOp) (h : Nat) (e : VEntry) (s : State) : State × Option (Nat × Trap) :=
  let sh := e.cap.shape
  let x := getHart s h
  let vs := boundAmong x (op.writes e.cap)
  if vs.isEmpty then (s, none)
  else
    let one := fun (s : State) (p : Nat) =>
      match eachReg (fun s v => streamPush s h v (shFmt sh) p e.cap.fpctl (gateOn x e.instr p)) vs s with
      | .error t => .error t
      | .ok s1 => .ok (setHead s1 h (fun q => { q with pushes := p + 1 }))
    sweepOver one ((List.range (realLen sh)).drop e.pushes) s

/-- Number of beats of an entry (07 R141). -/
def beatsPerRow (op : VOp) (e : VEntry) : Nat := (min (op.conts e.cap) 128 + 15) / 16

/-- The beat in which a position is processed (07 R140). -/
def beatOfPos (op : VOp) (e : VEntry) (p : Nat) : Nat :=
  let sh := op.sweep e.cap
  let f := shFmt sh
  let i := p % shVL sh
  let c := if fmtTwo f then 2 * i else if fmtPacked f then i * fmtWidth f / 32 else i
  p / shVL sh * beatsPerRow op e + c % 128 / 16

/-- Whether an entry has nothing to sweep (07 R149): the captured VL is 0. For vreshape either of its two captured shapes may have VL = 0, and
the manual does not say which one counts: either makes the instruction do nothing (DESIGN CHOICE, log entry 89). -/
def emptySweep (op : VOp) (e : VEntry) : Bool := shVL e.cap.shape == 0 || shVL (op.sweep e.cap) == 0

/-- Every position of an entry's sweep. -/
def allPositions (op : VOp) (e : VEntry) : List Nat :=
  let sh := op.sweep e.cap
  if emptySweep op e then [] else List.range (shRows sh * shVL sh)

/-- The positions that an entry has still to process (15 R328). -/
def positionsLeft (op : VOp) (e : VEntry) : List Nat :=
  match e.prog with
  | .sweep p => (allPositions op e).drop p
  | .beats n => (allPositions op e).filter (fun p => n ≤ beatOfPos op e p)

/-- The lines that an instruction writes: no line beyond its destination's containers (06 R135). -/
def VOp.wlines (op : VOp) (c : Capture) : List Nat := linesOf (op.writes c) (op.wconts c)

/-- The lines that an instruction reads and writes. -/
def opLines (op : VOp) (c : Capture) : List Nat := op.rlines c ++ op.wlines c

/-- The positions that an instruction out of position order has still to process once it has popped its elements: all of them where a fault
had cut the pops short, since none could be processed before. -/
def permLeft (op : VOp) (x : Hart) (e : VEntry) : List Nat :=
  if !(boundAmong x (op.reads e.cap)).isEmpty && e.popped < realLen e.cap.shape then allPositions op e else positionsLeft op e

/-- The hart with its FPFLAGS as given. -/
def Hart.withFlags (x : Hart) (w : Word) : Hart := { x with csr := { x.csr with fpflags := w } }

/-- The work of an instruction that runs as a whole (08 R179): its pops, its rows, its pushes. Where a pop or a push faults, the streams keep
what has been popped and pushed, and nothing else of it is done; its own flags count when it completes (02 R37). -/
def wholeBody (op : VOp) (g : State → Nat → VEntry → Except (Nat × Trap) State) (s : State) (h : Nat) (e : VEntry) :
    State × Option (Nat × Trap) :=
  match popAhead op h e s with
  | (s1, some f) => (s1, some f)
  | (s1, none) =>
    match g s1 h e with
    | .error f => (s1, some f)
    | .ok s2 =>
      let x := getHart s1 h
      let z := getHart s2 h
      match pushBehind op h e (putHart s2 h (z.withFlags x.csr.fpflags)) with
      | (s3, some f) =>
        let y := getHart s3 h
        (putHart s3 h { x.withFlags y.csr.fpflags with streams := y.streams, viq := y.viq }, some f)
      | (s3, none) =>
        let y := getHart s3 h
        (putHart s3 h (y.withFlags (y.csr.fpflags ||| z.csr.fpflags)), none)

/-- The older scalar stores of a hart performed before an instruction that accesses memory, by itself or through a bound stream (12 R263,
R264). -/
def drainBefore (op : VOp) (s : State) (h : Nat) (e : VEntry) : State :=
  let x := getHart s h
  if (!op.mem && (boundAmong x (op.reads e.cap ++ op.writes e.cap)).isEmpty) || x.storeQ.isEmpty then s else drainAll s h

/-- What is left of an entry's work, to its end or to its first fault (04 R88), with the position and the trap of that. A synchronising read
leaves its result. -/
def runBody (op : VOp) (st : State) (h : Nat) (e : VEntry) : State × Option (Nat × Trap) :=
  let s := drainBefore op st h e
  let swept := fun (ps : List Nat) (s : State) =>
    match sweepOver (onePos op h e) ps s with
    | (s2, none) => (putHart s2 h (op.fin (getHart s2 h) e), none)
    | r => r
  match op.run with
  | .whole g => wholeBody op g s h e
  | .sync g =>
    (match popAhead op h e s with
     | (s1, some f) => (s1, some f)
     | (s1, none) =>
       match g (getHart s1 h) e with
       | .error f => (s1, some f)
       | .ok (w, x) => (putHart s1 h { x with sync := some w }, none))
  | _ =>
    if op.perm then
      match popAhead op h e s with
      | (s1, some f) => (s1, some f)
      | (s1, none) => swept (permLeft op (getHart s h) e) s1
    else swept (positionsLeft op e) s

/-- The 128 containers of a line. -/
def lineConts (x : Hart) (line : Nat) : List (BitVec 36) := (List.range 128).map (fun i => x.getC (line / 4) (128 * (line % 4) + i))

/-- The hart with every container of a line as given. -/
def fillLine (x : Hart) (line : Nat) (c : BitVec 36) : Hart :=
  (List.range 128).foldl (fun x i => x.setC (line / 4) (128 * (line % 4) + i) c) x

/-- Whether what is left of the oldest entry writes all 128 containers of a line (06 R133): it runs to its end without a fault, and what it leaves
there does not depend on what was there. -/
def writesWhole (op : VOp) (h : Nat) (e : VEntry) (s : State) (line : Nat) : Bool :=
  let first := match (getHart s h).viq with | q :: _ => q.seq == e.seq | [] => false
  let left := fun (c : BitVec 36) =>
    match runBody op (putHart s h (fillLine (getHart s h) line c)) h e with
    | (t, none) => some (lineConts (getHart t h) line)
    | _ => none
  first && (match left 0, left (BitVec.allOnes 36) with | some a, some b => a == b | _, _ => false)

/-- Issue of an entry (06 R133 to R135): its lines are brought to the partition and HWM is raised. Nothing happens at VL = 0. -/
def issueEntry (op : VOp) (s : State) (h : Nat) (e : VEntry) : Except LineStop State :=
  if emptySweep op e then .ok s
  else
    let free := fun (ls : List Nat) => ls.filter (fun l => ((getHart s h).streamAt (l / 4)).isNone)
    let mine := opLines op e.cap
    match ensureLines h false (fun _ _ => false) mine (free (op.rlines e.cap)) s with
    | .error w => .error w
    | .ok s1 =>
      match ensureLines h true (writesWhole op h e) mine (free (op.wlines e.cap)) s1 with
      | .error w => .error w
      | .ok s2 =>
        let x := getHart s2 h
        match op.hwm e.cap with
        | none => .ok s2
        | some (hvl, hreg) =>
          .ok (putHart s2 h { x with csr := { x.csr with hwm := raiseHwm x.csr.hwm hvl hreg } })

/-- The state with the oldest VIQ entry of a hart freed (07 R142). -/
def popHead (s : State) (h : Nat) : State :=
  let x := getHart s h
  putHart s h { x with viq := x.viq.drop 1 }

/-- The trap of the oldest entry, at a position (15 R322). -/
def vectorTrap (s : State) (h : Nat) (p : Nat) (t : Trap) : State := deliverVector s h t p

/-- Whether an operation loads. -/
def VOp.isLoad (op : VOp) : Bool := match op.run with | .load .. => true | _ => false

/-- Runs what is left of the oldest entry to its end or to its first fault. -/
def runHead (op : VOp) (s : State) (h : Nat) (e : VEntry) : State :=
  match runBody op s h e with
  | (s1, some (p, t)) => vectorTrap s1 h p t
  | (s1, none) => match op.run with | .sync _ => s1 | _ => popHead s1 h

/-- The result of a synchronising read reaches the front end (07 R143, 13 R282): the destination is written or the branch decided, and
the entry is freed. -/
def syncReturn (s : State) (h : Nat) : State :=
  let x := getHart s h
  match x.viq, x.sync with
  | e :: es, some w =>
    let y := { x with viq := es, sync := none }
    let branch := fun (taken : Bool) (o : BitVec 16) =>
      if taken then { y with pc := e.pc + (o.signExtend 64 <<< 2) } else { y with pc := e.pc + 4 }
    let write := fun (d : BitVec 5) => { y.setS d w with pc := e.pc + 4 }
    putHart s h
      (match e.instr with
       | .bvany _ _ o => branch (w != 0) o
       | .bvnone _ _ o => branch (w == 0) o
       | .vmovs d .. => write d
       | .mpop d .. => write d
       | .mfirst d .. => write d
       | .vargmax d .. => write d
       | _ => y)
  | _, _ => s

/-- Issues and runs the oldest entry of a hart's VIQ to its end (eager runs; log entry 12). -/
def runEager (op : VOp) (s : State) (h : Nat) : State :=
  match (getHart s h).viq with
  | [] => s
  | e :: _ =>
    if !op.ready s h e || !canStart s h e.lines then s
    else
      match op.pre s h e with
      | some t => vectorTrap s h 0 t
      | none =>
        match issueEntry op s h e with
        | .error w => putHart w.state h ((getHart w.state h).takeRegback w.addr e.pc)
        | .ok s1 => syncReturn (runHead op s1 h e) h

/-- Owed writes of a context that have not landed (15 R331). -/
def owedFor (s : State) (ctx : Nat) : Bool := s.owed.any (fun o => o.ctx == ctx)

/-- A vector instruction at the front end (07 R142, 03 R49 to R51, 15 R324): ILLEGAL while a VIQ image is held or where a check at
capture fails; the front end stalls at a full VIQ; else the instruction enters the VIQ with its captures. It runs to its end at once
unless the model runs relaxed or older entries are left. -/
def commitVector (i : Instr) (n k : Nat) (op : VOp) (s : State) : State :=
  let x := curHart s
  let cap := captureOf s s.cur i n k
  if x.vq || !op.legal x cap || !streamsOk x op cap then illegal s i
  else if 32 ≤ x.viq.length || owedFor s x.ctx then s
  else
    let e : VEntry :=
      { instr := i, pc := x.pc, cap := cap, seq := x.vseq, prog := .sweep 0, issued := false, inflight := [],
        flags := 0, lines := opLines op cap, popped := 0, pushes := 0, entered := s.steps, cmds := x.eng.stamp }
    let s1 := putCur s { x with
      viq := x.viq ++ [e], vseq := x.vseq + 1, pc := if isSync i then x.pc else x.pc + 4 }
    if s.relaxed || !x.viq.isEmpty then s1 else runEager op s1 s.cur

end Sys2Proof.Machine
end

