-- ==== Sys2Proof/Machine/Scalar.lean ====
section
/-! DEFINITION. Scalar integer instructions, branches and jumps (13 R278 to R283). They change no state but the pc and the registers
that the tables name. -/

namespace Sys2Proof.Machine

/-- A register-register result. -/
def salu (d a b : BitVec 5) (g : Word → Word → Word) (st : State) : Out :=
  live st (fun s => let x := curHart s; retireS s d (g (x.getS a) (x.getS b)))

/-- A register-immediate result. -/
def salui (d a : BitVec 5) (g : Word → Word) (st : State) : Out :=
  live st (fun s => retireS s d (g ((curHart s).getS a)))

/-- A truth value as a scalar result. -/
def boolWord (b : Bool) : Word := if b then 1 else 0

/-- Quotient toward zero, signed (13 R279): −1 for a zero divisor; −2^63 / −1 wraps to −2^63. -/
def sdivWord (a b : Word) : Word := if b = 0 then BitVec.allOnes 64 else wordOfInt (a.toInt.tdiv b.toInt)

/-- Remainder with the dividend's sign (13 R279). -/
def sremWord (a b : Word) : Word := if b = 0 then a else wordOfInt (a.toInt.tmod b.toInt)

/-- Unsigned quotient (13 R279). -/
def udivWord (a b : Word) : Word := if b = 0 then BitVec.allOnes 64 else word (a.toNat / b.toNat)

/-- Unsigned remainder (13 R279). -/
def uremWord (a b : Word) : Word := if b = 0 then a else word (a.toNat % b.toNat)

/-- The zero bits from the top of n remaining bits down. -/
def leadZeros (a : Word) : Nat → Nat
  | 0 => 0
  | n + 1 => if a.getLsbD n then 0 else leadZeros a n + 1

/-- The zero bits from bit i up, over n bits. -/
def trailZeros (a : Word) : Nat → Nat → Nat
  | 0, _ => 0
  | n + 1, i => if a.getLsbD i then 0 else trailZeros a n (i + 1) + 1

/-- The 1 bits among the lowest n. -/
def onesCount (a : Word) : Nat → Nat
  | 0 => 0
  | n + 1 => onesCount a n + (if a.getLsbD n then 1 else 0)

/-- Conditions of Table 03.5. -/
def condHolds (c : Nat) (a b : Word) : Bool :=
  match c with
  | 0 => a == b
  | 1 => a != b
  | 2 => a.toInt < b.toInt
  | 3 => b.toInt ≤ a.toInt
  | 4 => a.toNat < b.toNat
  | 5 => b.toNat ≤ a.toNat
  | _ => false

/-- add (13 Table 13.1): a + b. -/
def execAdd (d a b : BitVec 5) (st : State) : Out := salu d a b (fun a b => a + b) st

/-- sub (13 Table 13.1): a − b. -/
def execSub (d a b : BitVec 5) (st : State) : Out := salu d a b (fun a b => a - b) st

/-- mul (13 Table 13.1): low 64 bits of a × b. -/
def execMul (d a b : BitVec 5) (st : State) : Out := salu d a b (fun a b => a * b) st

/-- mulh (13 Table 13.1): bits 127:64 of the signed product. -/
def execMulh (d a b : BitVec 5) (st : State) : Out := salu d a b (fun a b => wordOfInt (a.toInt * b.toInt / (2 ^ 64 : Nat))) st

/-- mulhn (13 Table 13.1): bits 127:64 of the unsigned product. -/
def execMulhn (d a b : BitVec 5) (st : State) : Out := salu d a b (fun a b => word (a.toNat * b.toNat / 2 ^ 64)) st

/-- div (13 Table 13.1): signed quotient. -/
def execDiv (d a b : BitVec 5) (st : State) : Out := salu d a b (fun a b => sdivWord a b) st

/-- divn (13 Table 13.1): unsigned quotient. -/
def execDivn (d a b : BitVec 5) (st : State) : Out := salu d a b (fun a b => udivWord a b) st

/-- rem (13 Table 13.1): signed remainder. -/
def execRem (d a b : BitVec 5) (st : State) : Out := salu d a b (fun a b => sremWord a b) st

/-- remn (13 Table 13.1): unsigned remainder. -/
def execRemn (d a b : BitVec 5) (st : State) : Out := salu d a b (fun a b => uremWord a b) st

/-- and (13 Table 13.1): bitwise and. -/
def execAnd (d a b : BitVec 5) (st : State) : Out := salu d a b (fun a b => a &&& b) st

/-- or (13 Table 13.1): bitwise or. -/
def execOr (d a b : BitVec 5) (st : State) : Out := salu d a b (fun a b => a ||| b) st

/-- xor (13 Table 13.1): bitwise exclusive or. -/
def execXor (d a b : BitVec 5) (st : State) : Out := salu d a b (fun a b => a ^^^ b) st

/-- sll (13 Table 13.1): a shifted left by b[5:0]. -/
def execSll (d a b : BitVec 5) (st : State) : Out := salu d a b (fun a b => a <<< (b.toNat % 64)) st

/-- srl (13 Table 13.1): a shifted right by b[5:0], zeros in. -/
def execSrl (d a b : BitVec 5) (st : State) : Out := salu d a b (fun a b => a >>> (b.toNat % 64)) st

/-- sra (13 Table 13.1): a shifted right by b[5:0], copies of bit 63 in. -/
def execSra (d a b : BitVec 5) (st : State) : Out := salu d a b (fun a b => a.sshiftRight (b.toNat % 64)) st

/-- min (13 Table 13.1): lesser, signed. -/
def execMin (d a b : BitVec 5) (st : State) : Out := salu d a b (fun a b => if b.toInt < a.toInt then b else a) st

/-- max (13 Table 13.1): greater, signed. -/
def execMax (d a b : BitVec 5) (st : State) : Out := salu d a b (fun a b => if a.toInt < b.toInt then b else a) st

/-- minn (13 Table 13.1): lesser, unsigned. -/
def execMinn (d a b : BitVec 5) (st : State) : Out := salu d a b (fun a b => if b.toNat < a.toNat then b else a) st

/-- maxn (13 Table 13.1): greater, unsigned. -/
def execMaxn (d a b : BitVec 5) (st : State) : Out := salu d a b (fun a b => if a.toNat < b.toNat then b else a) st

/-- clz (13 Table 13.1): leading zero bits. -/
def execClz (d a : BitVec 5) (st : State) : Out := salui d a (fun a => word (leadZeros a 64)) st

/-- ctz (13 Table 13.1): trailing zero bits. -/
def execCtz (d a : BitVec 5) (st : State) : Out := salui d a (fun a => word (trailZeros a 64 0)) st

/-- popc (13 Table 13.1): number of 1 bits. -/
def execPopc (d a : BitVec 5) (st : State) : Out := salui d a (fun a => word (onesCount a 64)) st

/-- cmp (13 Table 13.1): 1 when the condition holds, else 0. -/
def execCmp (d a b : BitVec 5) (c : BitVec 3) (st : State) : Out := salu d a b (fun a b => boolWord (condHolds c.toNat a b)) st

/-- csel (13 Table 13.1): a when s[c] is not 0, else b. -/
def execCsel (d a b c : BitVec 5) (st : State) : Out :=
  live st (fun s => let x := curHart s; retireS s d (if x.getS c = 0 then x.getS b else x.getS a))

/-- lea (13 Table 13.1): a + b × 2^sc. -/
def execLea (d a b : BitVec 5) (s : BitVec 2) (st : State) : Out := salu d a b (fun a b => a + (b <<< s.toNat)) st

/-- addi (13 R280). -/
def execAddi (d a : BitVec 5) (i : BitVec 16) (st : State) : Out := salui d a (fun a => a + i.signExtend 64) st

/-- andi (13 R280): the immediate is zero-extended. -/
def execAndi (d a : BitVec 5) (i : BitVec 16) (st : State) : Out := salui d a (fun a => a &&& i.zeroExtend 64) st

/-- ori (13 R280). -/
def execOri (d a : BitVec 5) (i : BitVec 16) (st : State) : Out := salui d a (fun a => a ||| i.zeroExtend 64) st

/-- xori (13 R280). -/
def execXori (d a : BitVec 5) (i : BitVec 16) (st : State) : Out := salui d a (fun a => a ^^^ i.zeroExtend 64) st

/-- lhi (13 R280, 03 R46): a + sext(imm16) × 65,536. -/
def execLhi (d a : BitVec 5) (i : BitVec 16) (st : State) : Out := salui d a (fun a => a + (i.signExtend 64 <<< 16)) st

/-- cmpi (13 R280): the condition on a and sext(imm13). -/
def execCmpi (d a : BitVec 5) (c : BitVec 3) (i : BitVec 13) (st : State) : Out :=
  salui d a (fun a => boolWord (condHolds c.toNat a (i.signExtend 64))) st

/-- slli (13 R280). -/
def execSlli (d a : BitVec 5) (s : BitVec 6) (st : State) : Out := salui d a (fun a => a <<< s.toNat) st

/-- srli (13 R280). -/
def execSrli (d a : BitVec 5) (s : BitVec 6) (st : State) : Out := salui d a (fun a => a >>> s.toNat) st

/-- srai (13 R280). -/
def execSrai (d a : BitVec 5) (s : BitVec 6) (st : State) : Out := salui d a (fun a => a.sshiftRight s.toNat) st

/-- A B-format target: PC + 4 × sext(off16) (03 R46). -/
def branchTarget (pc : Word) (o : BitVec 16) : Word := pc + (o.signExtend 64 <<< 2)

/-- A conditional branch (13 Table 13.4). -/
def branch (c : Nat) (a b : BitVec 5) (o : BitVec 16) (st : State) : Out :=
  live st (fun s =>
    let x := curHart s
    putCur s (if condHolds c (x.getS a) (x.getS b) then { x with pc := branchTarget x.pc o } else x.past))

/-- beq (13 Table 13.4): taken when a = b. -/
def execBeq (a b : BitVec 5) (o : BitVec 16) (st : State) : Out := branch 0 a b o st

/-- bne (13 Table 13.4): taken when a ≠ b. -/
def execBne (a b : BitVec 5) (o : BitVec 16) (st : State) : Out := branch 1 a b o st

/-- blt (13 Table 13.4): taken when a < b, signed. -/
def execBlt (a b : BitVec 5) (o : BitVec 16) (st : State) : Out := branch 2 a b o st

/-- bge (13 Table 13.4): taken when a ≥ b, signed. -/
def execBge (a b : BitVec 5) (o : BitVec 16) (st : State) : Out := branch 3 a b o st

/-- bltn (13 Table 13.4): taken when a < b, unsigned. -/
def execBltn (a b : BitVec 5) (o : BitVec 16) (st : State) : Out := branch 4 a b o st

/-- bgen (13 Table 13.4): taken when a ≥ b, unsigned. -/
def execBgen (a b : BitVec 5) (o : BitVec 16) (st : State) : Out := branch 5 a b o st

/-- jmp (13 Table 13.4). -/
def execJmp (o : BitVec 26) (st : State) : Out :=
  live st (fun s => let x := curHart s; putCur s { x with pc := x.pc + (o.signExtend 64 <<< 2) })

/-- jal (13 Table 13.4): the link goes to s31. -/
def execJal (o : BitVec 26) (st : State) : Out :=
  live st (fun s =>
    let x := curHart s
    putCur s { x.setS 31 (x.pc + 4) with pc := x.pc + (o.signExtend 64 <<< 2) })

/-- jalr (13 Table 13.4, R281): the target is formed before d is written; a target with bits 1:0 nonzero raises ALIGN and writes
nothing. -/
def execJalr (d a : BitVec 5) (i : BitVec 16) (st : State) : Out :=
  live st (fun s =>
    let x := curHart s
    let t := x.getS a + i.signExtend 64
    if t &&& 3 = 0 then putCur s { x.setS d (x.pc + 4) with pc := t } else trapHere s (alignTrap t))

/-- bstrip (13 R283). -/
def execBstrip (a b : BitVec 5) (o : BitVec 16) (st : State) : Out :=
  live st (fun s =>
    let x := curHart s
    let rest := (x.getS a).toNat
    let g := (x.getS b).toNat
    let new := rest - g
    if new = 0 then putCur s ({ x with strip := { addr := 0, count := 0, strikes := 0 } }.setS a 0).past
    else
      let strikes := if x.strip.addr == x.pc && x.strip.count.toNat ≤ new then x.strip.strikes + 1 else 0
      if strikes = 2 then trapHere s { cause := .noprog, tval := x.pc, tval2 := x.getS b }
      else
        putCur s { x.setS a (word new) with
          strip := { addr := x.pc, count := word new, strikes := strikes }, pc := branchTarget x.pc o })

/-- Whether some bit of a mask below VL − PAD is 1 (13 R282). -/
def maskAny (x : Hart) (m n : Nat) : Bool := (List.range n).any (fun i => x.maskBit m i)

/-- bvany and bvnone as VIQ entries (13 R282): the result is 1 when some bit is 1. -/
def bvOp (m : Nat) : VOp :=
  { legal := fun _ c => shapeOk c.slices c.shape (fun f => f < 17)
    reads := fun _ => [], writes := fun _ => [], mreads := [m], mwrites := []
    sweep := fun c => c.shape, conts := fun c => shVL c.shape, hwm := fun _ => none
    perm := true, mem := false, fin := fun x _ => x
    run := .sync (fun x e => .ok (boolWord (maskAny x m (realLen e.cap.shape)), x)) }

/-- bvany (13 R282): taken when some bit of the mask below VL − PAD is 1. -/
def execBvany (m sh : BitVec 5) (o : BitVec 16) (st : State) : Out :=
  live st (commitVector (.bvany m sh o) sh.toNat 0 (bvOp m.toNat))

/-- bvnone (13 R282): taken when no such bit is 1. -/
def execBvnone (m sh : BitVec 5) (o : BitVec 16) (st : State) : Out :=
  live st (commitVector (.bvnone m sh o) sh.toNat 0 (bvOp m.toNat))

end Sys2Proof.Machine
end

