-- ==== Sys2Proof/Machine/ScalarMem.lean ====
section
/-! DEFINITION. Scalar loads, stores and atomics (05 R89 to R95). -/

namespace Sys2Proof.Machine

/-- Whether an instruction accesses memory from the VIQ. -/
def isVMem (i : Instr) : Bool :=
  match i with
  | .vld .. => true
  | .vst .. => true
  | .vlds .. => true
  | .vsts .. => true
  | .vldx .. => true
  | .vstx .. => true
  | .vldw .. => true
  | .vldseg .. => true
  | .vstseg .. => true
  | .vredAdd .. => true
  | .vredMin .. => true
  | .vredMax .. => true
  | .vspill .. => true
  | .vfill .. => true
  | .mplane .. => true
  | _ => false

/-- The hart holds a VIQ entry that accesses memory, or one that may pop or push a bound stream; a scalar access to the same chunk
follows it (12 R262, R264), and so does an atomic that releases (R267). The model lets every scalar access wait for it (log entry 18). -/
def vmemPending (x : Hart) : Bool := x.viq.any (fun e => isVMem e.instr || !x.streams.isEmpty)

/-- A scalar load of n bytes (05 R89, R91): ALIGN, translation and poison first; then d receives the extended value. -/
def loadScalar (d a : BitVec 5) (i : BitVec 16) (n : Nat) (signed : Bool) (st : State) : Out :=
  live st (fun s =>
    let x := curHart s
    let va := x.getS a + i.signExtend 64
    if vmemPending x then s
    else if va.toNat % n != 0 then trapHere s (alignTrap va)
    else
      match loadNat s (agentOf s s.cur) va n with
      | .error e => trapHere e.state e.trap
      | .ok (v, s1) => retireS s1 d (if signed then wordOfInt (signedOf (8 * n) v) else word v))

/-- A scalar store of the low n bytes of d (05 R90, R91). -/
def storeScalar (d a : BitVec 5) (i : BitVec 16) (n : Nat) (st : State) : Out :=
  live st (fun s =>
    let x := curHart s
    let va := x.getS a + i.signExtend 64
    if vmemPending x then s
    else if va.toNat % n != 0 then trapHere s (alignTrap va)
    else
      match storeNat s (agentOf s s.cur) va (x.getS d).toNat n with
      | .error e => trapHere e.state e.trap
      | .ok s1 => retire s1 (fun x => x))

/-- ldI8 (05 R89). -/
def execLdI8 (d a : BitVec 5) (i : BitVec 16) (st : State) : Out := loadScalar d a i 1 true st

/-- ldN8 (05 R89). -/
def execLdN8 (d a : BitVec 5) (i : BitVec 16) (st : State) : Out := loadScalar d a i 1 false st

/-- ldI16 (05 R89). -/
def execLdI16 (d a : BitVec 5) (i : BitVec 16) (st : State) : Out := loadScalar d a i 2 true st

/-- ldN16 (05 R89). -/
def execLdN16 (d a : BitVec 5) (i : BitVec 16) (st : State) : Out := loadScalar d a i 2 false st

/-- ldI32 (05 R89). -/
def execLdI32 (d a : BitVec 5) (i : BitVec 16) (st : State) : Out := loadScalar d a i 4 true st

/-- ldN32 (05 R89). -/
def execLdN32 (d a : BitVec 5) (i : BitVec 16) (st : State) : Out := loadScalar d a i 4 false st

/-- ldI64 (05 R89). -/
def execLdI64 (d a : BitVec 5) (i : BitVec 16) (st : State) : Out := loadScalar d a i 8 true st

/-- st8 (05 R90). -/
def execSt8 (d a : BitVec 5) (i : BitVec 16) (st : State) : Out := storeScalar d a i 1 st

/-- st16 (05 R90). -/
def execSt16 (d a : BitVec 5) (i : BitVec 16) (st : State) : Out := storeScalar d a i 2 st

/-- st32 (05 R90). -/
def execSt32 (d a : BitVec 5) (i : BitVec 16) (st : State) : Out := storeScalar d a i 4 st

/-- st64 (05 R90). -/
def execSt64 (d a : BitVec 5) (i : BitVec 16) (st : State) : Out := storeScalar d a i 8 st

/-- The new value of an atomic (05 R92) on w-bit operands; none where a cas does not match its comparand. -/
def atomicNew (op w old x cmp : Nat) : Option Nat :=
  let so := signedOf w old
  let sx := signedOf w x
  match op with
  | 0 => some ((old + x) % 2 ^ w)
  | 1 => some (old &&& x)
  | 2 => some (old ||| x)
  | 3 => some (old ^^^ x)
  | 4 => some (if sx < so then x else old)
  | 5 => some (if so < sx then x else old)
  | 6 => some (min old x)
  | 7 => some (max old x)
  | 8 => some x
  | _ => if old == cmp then some x else none

/-- An atomic at the front end (05 R92 to R95): the pending stores of the scalar path are performed before it; every refusal comes before
the location is read; ret says whether d receives the sign-extended old value, which the host window asks for (04 Table 04.3: amo.add,
amo.swap and cas alone). -/
def atomicScalar (op : Nat) (d a b : BitVec 5) (wide ret : Bool) (st : State) : Out :=
  live st (fun s =>
    let x := curHart s
    let va := x.getS a
    let n := if wide then 8 else 4
    let w := 8 * n
    if vmemPending x then s
    else if va.toNat % n != 0 then trapHere s (alignTrap va)
    else
      let s0 := if x.storeQ.isEmpty then s else drainAll s s.cur
      match access s0 (agentOf s0 s.cur) va n (.atomic (ret && (op == 0 || op == 8 || op == 9))) .scalar with
      | .error e => trapHere e.state e.trap
      | .ok (key, s0) =>
        if isPoisoned s0 key then trapHere s0 (poisonTrap va)
        else if (match pkgOfKey key with | some p => linkStalled s0 p 2 n | none => false) then s
        else
          let s1 := match pkgOfKey key with | some p => linkSend s0 p 2 (plainRecord s0 n) (.atomic x.ctx va) | none => s0
          let old := memNat s1 key n
          let s2 := match atomicNew op w old ((x.getS b).toNat % 2 ^ w) ((x.getS d).toNat % 2 ^ w) with
            | some v => writeNat s1 0 key v n
            | none => s1
          if ret then retireS s2 d (wordOfInt (signedOf w old)) else retire s2 (fun x => x))

/-- amo (05 R92). Scope and order bind the outcomes of several agents (12 R267); performed at its point, the atomic meets every one of
them. -/
def execAmo (d a b : BitVec 5) (_s : BitVec 3) (_o : BitVec 2) (w : BitVec 1) (p : BitVec 4) (st : State) : Out :=
  atomicScalar p.toNat d a b (w == 1) true st

/-- cas (05 R92): compares memory with d and writes b on equality. -/
def execCas (d a b : BitVec 5) (_s : BitVec 3) (_o : BitVec 2) (w : BitVec 1) (st : State) : Out :=
  atomicScalar 9 d a b (w == 1) true st

/-- red (05 R92, R93): returns nothing. -/
def execRed (a b : BitVec 5) (_s : BitVec 3) (_o : BitVec 2) (w : BitVec 1) (p : BitVec 4) (st : State) : Out :=
  atomicScalar p.toNat 0 a b (w == 1) false st

end Sys2Proof.Machine
end

