-- ==== Sys2Proof/Machine/Csr.lean ====
section
/-! DEFINITION. System registers (06 R136 to R138, 13 R293): reads, writes, privilege, and the fields that a write keeps. -/

namespace Sys2Proof.Machine

/-- LPART of a core (06 Table 06.6). -/
def lpartOf (c : Core) : Word :=
  word (([0, 1, 2, 3].map (fun j =>
    let x := c.slice j
    (x.owner.toNat + (if x.held then 4 else 0) + 8 * x.req.toNat + (if x.pend then 32 else 0)) * 256 ^ j)).sum)

/-- HARTID of a hart (06 Table 06.5). -/
def hartIdOf (h : Nat) : Word := word (Config.pkg.toNat * 4096 + h % 4096)

/-- The value that a system register number reads, for a hart (06 Table 06.4). -/
def csrValue (s : State) (h n : Nat) : Word :=
  let x := getHart s h
  let c := getCore s (coreOf h)
  match n with
  | 0x000 => x.csr.fpctl
  | 0x001 => x.csr.fpflags
  | 0x008 => x.getSh 0
  | 0x009 => x.getSh 1
  | 0x00A => x.getSh 2
  | 0x00B => x.getSh 3
  | 0x00C => x.getSh 4
  | 0x00D => x.getSh 5
  | 0x00E => x.getSh 6
  | 0x00F => x.getSh 7
  | 0x010 => hartIdOf h
  | 0x011 => x.csr.nestid
  | 0x012 => s.time
  | 0x013 => x.csr.deadline
  | 0x014 => lpartOf c
  | 0x100 => x.csr.tvec
  | 0x101 => x.csr.tcause
  | 0x102 => x.csr.tpc
  | 0x103 => x.csr.tval
  | 0x104 => x.csr.tval2
  | 0x105 => x.csr.tstatus
  | 0x106 => x.csr.residx
  | 0x107 => x.csr.viqpos
  | 0x108 => x.csr.hwm
  | 0x109 => x.csr.vback
  | 0x10A => x.csr.ptroot
  | 0x10B => x.csr.cpyerr
  | 0x10C => x.csr.resthr
  | 0x200 => c.poolReg
  | 0x201 => c.poolScr
  | 0x202 => c.poolL1
  | 0x203 => c.lpwait
  | 0x300 => s.hotidle
  | _ => 0

/-- A write of FPCTL: bits 63:4 are reserved, and RND 5 to 7 stores 0 (02 Table 02.5). -/
def fpctlWritten (v : Word) : Word := (v &&& 8) ||| (if v.toNat % 8 < 5 then v &&& 7 else 0)

/-- A write of VBACK: bits 55:12, with bits 63:56 copies of bit 55 (06 Table 06.5). -/
def vbackWritten (v : Word) : Word :=
  (v &&& 0x00FFFFFFFFFFF000#64) ||| (if v.getLsbD 55 then 0xFF00000000000000#64 else 0)

/-- CPYERR with V cleared if the written V is 0; its other fields are read-only (05 Table 05.6). -/
def cpyerrWritten (old v : Word) : Word := if v.getLsbD 63 then old else old &&& 0x7FFFFFFFFFFFFFFF#64

/-- The state with a system register of a hart written: only the fields that Table 06.5 and its neighbours make writable change. A write
that clears TSTATUS.VQ discards the held image (15 R324). -/
def csrPut (s : State) (h n : Nat) (v : Word) : State :=
  let x := getHart s h
  let c := getCore s (coreOf h)
  let set := fun (r : Csrs) => putHart s h { x with csr := r }
  match n with
  | 0x000 => set { x.csr with fpctl := fpctlWritten v }
  | 0x001 => set { x.csr with fpflags := v &&& 0x3F }
  | 0x008 => putHart s h (x.setSh 0 v)
  | 0x009 => putHart s h (x.setSh 1 v)
  | 0x00A => putHart s h (x.setSh 2 v)
  | 0x00B => putHart s h (x.setSh 3 v)
  | 0x00C => putHart s h (x.setSh 4 v)
  | 0x00D => putHart s h (x.setSh 5 v)
  | 0x00E => putHart s h (x.setSh 6 v)
  | 0x00F => putHart s h (x.setSh 7 v)
  | 0x100 => set { x.csr with tvec := v &&& ~~~3#64 }
  | 0x101 => set { x.csr with tcause := v &&& 0x800000000000003F#64 }
  | 0x102 => set { x.csr with tpc := v &&& ~~~3#64 }
  | 0x103 => set { x.csr with tval := v }
  | 0x104 => set { x.csr with tval2 := v }
  | 0x105 =>
    putHart s h { x with csr := { x.csr with tstatus := v &&& 7 }, held := if v.getLsbD 2 then x.held else [] }
  | 0x106 => set { x.csr with residx := v &&& 0xFFF }
  | 0x107 => set { x.csr with viqpos := v &&& 0x1FFFFF }
  | 0x108 => set { x.csr with hwm := v &&& 0x3FFFFFFFF#64 }
  | 0x109 => set { x.csr with vback := vbackWritten v }
  | 0x10A => set { x.csr with ptroot := v &&& 0x000FFFFFFFFFFFFF#64 }
  | 0x10B => set { x.csr with cpyerr := cpyerrWritten x.csr.cpyerr v }
  | 0x10C => set { x.csr with resthr := v &&& 0xFFFFFFFF#64 }
  | 0x203 => putCore s (coreOf h) { c with lpwait := v &&& 0xFFFF }
  | 0x300 => { s with hotidle := v &&& 0xFFFFFFFF#64 }
  | _ => s

/-- Registers whose every field is read-only to harts (06 R136, 04 R80). -/
def csrReadOnly (n : Nat) : Bool :=
  n == 0x010 || n == 0x011 || n == 0x012 || n == 0x013 || n == 0x014 || n == 0x200 || n == 0x201 || n == 0x202

/-- A hart in user mode may name only the numbers below 0x100 (06 Table 06.4). -/
def csrPriv (x : Hart) (n : Nat) : Bool := x.user && 0x100 ≤ n

/-- Accesses of FPFLAGS wait for the hart's older vector instructions (02 R37, 13 R293). -/
def csrWaits (x : Hart) (n : Nat) : Bool := n == 0x001 && !x.viq.isEmpty

/-- csrr (13 R293). -/
def execCsrr (d : BitVec 5) (c : BitVec 12) (st : State) : Out :=
  live st (fun s =>
    let x := curHart s
    if csrPriv x c.toNat then privTrap s (.csrr d c)
    else if csrWaits x c.toNat then s
    else retireS s d (csrValue s s.cur c.toNat))

/-- A read-modify-write of a system register (13 R293): the old value returns in d. -/
def csrModify (i : Instr) (d : BitVec 5) (n : Nat) (g : Word → Word) (s : State) : State :=
  let x := curHart s
  if csrPriv x n || csrReadOnly n then privTrap s i
  else if csrWaits x n then s
  else
    let old := csrValue s s.cur n
    retireS (csrPut s s.cur n (g old)) d old

/-- csrw (13 R293). -/
def execCsrw (d a : BitVec 5) (c : BitVec 12) (st : State) : Out :=
  live st (fun s => let v := (curHart s).getS a; csrModify (.csrw d a c) d c.toNat (fun _ => v) s)

/-- csrs (13 R293): old OR a. -/
def execCsrs (d a : BitVec 5) (c : BitVec 12) (st : State) : Out :=
  live st (fun s => let v := (curHart s).getS a; csrModify (.csrs d a c) d c.toNat (fun o => o ||| v) s)

/-- csrc (13 R293): old AND NOT a. -/
def execCsrc (d a : BitVec 5) (c : BitVec 12) (st : State) : Out :=
  live st (fun s => let v := (curHart s).getS a; csrModify (.csrc d a c) d c.toNat (fun o => o &&& ~~~v) s)

/-- CPYERR_CLEAR (05 R123): V of a hart's CPYERR becomes 0, and its copy context resumes the command at BYTE. -/
def execCpyerrClear (h : Nat) (st : State) : Out := live st (fun s => csrPut s h 0x10B 0)

end Sys2Proof.Machine
end

