-- ==== Sys2Proof/Machine/Engine.lean ====
section
/-! DEFINITION. Engine contexts (05 R117 to R119): timelines, where a context's engines are held (15 R332), and the range checker that
the copy and matrix contexts share (R124). -/

namespace Sys2Proof.Machine

/-- Where the engines of a context are: a hart slot, or a saved context. -/
inductive Holder where
  | hart (h : Nat)
  | saved (ctx : Nat)
  deriving DecidableEq, Repr

/-- The holder that an event names: hart slots by their number, saved contexts by 4096 and their identity (log entry 21). -/
def holderOf (n : Nat) : Holder := if n < 4096 then .hart n else .saved (n - 4096)

/-- Numbers of shared units (01 Table 01.5): the matrix array of a core, the copy engine and the Lens engine of a cluster. -/
def arrayUnit (core : Nat) : Nat := core
def copyUnit (cluster : Nat) : Nat := 1000 + cluster
def lensUnit (cluster : Nat) : Nat := 2000 + cluster

/-- A shared unit has served a hart: the turn passes to the next number (01 Table 01.5). -/
def served (s : State) (unit h : Nat) : State := { s with turns := smPut s.turns unit (h + 1) }

/-- The saved context with an identity. -/
def savedCtx (s : State) (ctx : Nat) : Option Saved := s.saved.find? (fun v => v.ctx == ctx)

/-- The engines of a holder. -/
def getEng (s : State) (w : Holder) : Engines :=
  match w with
  | .hart h => (getHart s h).eng
  | .saved ctx => match savedCtx s ctx with | some v => v.eng | none => Engines.zero

/-- The package number of the hart that a holder's commands were issued from. -/
def holderHart (s : State) (w : Holder) : Nat :=
  match w with
  | .hart h => h
  | .saved ctx => match savedCtx s ctx with | some v => v.hart | none => 0

/-- Writes 8 bytes of a saved context's slot, if they translate (15 R332). -/
def slotWrite (s : State) (v : Saved) (off : Nat) (x : Word) : State :=
  let a : Agent := { core := v.core, root := v.root, user := false, hart := 4096 }
  match access s a (v.slot + word off) 8 .store .engine with
  | .error e => e.state
  | .ok (key, s1) => writeNat s1 0 key x.toNat 8

/-- The state with the engines of a holder changed. Each completion of a detached context updates the count in its slot's engine
record (15 R332). -/
def putEng (s : State) (w : Holder) (g : Engines) : State :=
  match w with
  | .hart h => putHart s h { getHart s h with eng := g }
  | .saved ctx =>
    match savedCtx s ctx with
    | none => s
    | some v =>
      let s1 := { s with saved := s.saved.map (fun u => if u.ctx == ctx then { u with eng := g } else u) }
      let s2 := if g.copy.done == v.eng.copy.done then s1 else slotWrite s1 v 0x408 g.copy.done
      let s3 := if g.lens.done == v.eng.lens.done then s2 else slotWrite s2 v 0x448 g.lens.done
      if g.xch.done == v.eng.xch.done then s3 else slotWrite s3 v 0x468 g.xch.done

/-- The engine contexts by the code of tread and twait (05 R118). -/
inductive EngX where
  | copy | mtx | lens | xch
  deriving DecidableEq, Repr

/-- The context of a code. -/
def EngX.ofCode (x : BitVec 2) : EngX :=
  match x.toNat with
  | 0 => .copy
  | 1 => .mtx
  | 2 => .lens
  | _ => .xch

/-- A context's timeline. -/
def Engines.line (g : Engines) (x : EngX) : Timeline :=
  match x with
  | .copy => g.copy
  | .mtx => g.mtx
  | .lens => g.lens
  | .xch => g.xch

/-- The engines with a context's timeline changed. -/
def Engines.setLine (g : Engines) (x : EngX) (t : Timeline) : Engines :=
  match x with
  | .copy => { g with copy := t }
  | .mtx => { g with mtx := t }
  | .lens => { g with lens := t }
  | .xch => { g with xch := t }

/-- The timeline with one more command issued; the command's number is the new count (05 R117). -/
def Timeline.issue (t : Timeline) : Timeline := { t with issued := t.issued + 1 }

/-- The timeline with its next command completed, its flags and its report kept for the twait that covers it (02 R37, 05 R119). -/
def Timeline.complete (t : Timeline) (flags : Word) (report : Option Trap) : Timeline :=
  let n := t.done + 1
  { t with
    done := n
    flags := if flags = 0 then t.flags else t.flags ++ [(n, flags)]
    reports := match report with | some r => t.reports ++ [{ num := n, trap := r }] | none => t.reports }

/-- An instruction that gives an engine a command runs behind every older access of its hart (12 R270, R263): it waits for the vector
accesses, and the pending stores of the scalar path are performed first. -/
def orderedIssue (g : State → State) (s : State) : State :=
  let x := curHart s
  if vmemPending x then s else g (if x.storeQ.isEmpty then s else drainAll s s.cur)

/-- A range of bytes of a core's scratchpad, lowest and highest, and whether it is written (05 R124). -/
structure ScrRange where
  core  : Nat
  lo    : Nat
  hi    : Nat
  write : Bool
  deriving DecidableEq, Repr

/-- Two ranges that must keep their order: they overlap, and one is written. -/
def ScrRange.clash (p q : ScrRange) : Bool := p.core == q.core && p.lo ≤ q.hi && q.lo ≤ p.hi && (p.write || q.write)

/-- Some range of one list clashes with some range of the other. -/
def rangesClash (ps qs : List ScrRange) : Bool := ps.any (fun p => qs.any (fun q => p.clash q))

/-- The part of a virtual byte range that kept translations map to a core's own scratchpad, page by page. -/
def pagesScr (core : Nat) (pages : PageMap) (lo hi : Nat) (write : Bool) : List ScrRange :=
  pages.filterMap (fun p =>
    match paTarget core p.pa with
    | .scr c off _ =>
      if c == core then
        let a := max lo (p.page * 65536)
        let b := min hi (p.page * 65536 + 65535)
        if a ≤ b then some { core := core, lo := off + (a - p.page * 65536), hi := off + (b - p.page * 65536), write := write }
        else none
      else none
    | _ => none)

/-- One range from the lowest to the highest byte of several (05 R124). -/
def joinRanges (core : Nat) (write : Bool) (rs : List ScrRange) : List ScrRange :=
  match rs with
  | [] => []
  | r :: rest =>
    [{ core := core, lo := rest.foldl (fun m q => min m q.lo) r.lo, hi := rest.foldl (fun m q => max m q.hi) r.hi,
       write := write }]

/-- The virtual pages, of 64 KiB, of a byte range. -/
def pageList (va n : Nat) : List Nat :=
  if n = 0 then [] else (List.range ((va + n - 1) / 65536 - va / 65536 + 1)).map (fun i => va / 65536 + i)

/-- The first refusal of R69, R70 and, of a write, of 06 R132 among the 4 KiB pieces of one translated page that lie in the range
[lo, lo + n). A backing area is made of whole pieces. -/
def resolvePieces (s : State) (core : Nat) (lo n page pa : Nat) (k : AKind) : Option Trap :=
  (List.range 16).findSome? (fun i =>
    let a := max lo (page * 65536 + 4096 * i)
    if a < page * 65536 + 4096 * (i + 1) && a < lo + n then
      match resolve s core (word a) (pa + a % 65536) k with
      | .error t => some t
      | .ok key => if k.writes && inAnyBacking s key then some { cause := .storepf, tval := word a, tval2 := 1 } else none
    else none)

/-- Every page of a byte range translated for an agent (09 R203, 11 R244): the kept translations, or the fault at the first address
that faults. -/
def translatePages (s : State) (a : Agent) (va : Word) (n : Nat) (k : AKind) : List Nat → Except Stop (PageMap × State)
  | [] => .ok ([], s)
  | p :: ps =>
    let first := if p = va.toNat / 65536 then va else word (p * 65536)
    match translate s a first k with
    | .error t => .error t
    | .ok (e, s1) =>
      let page := keptPage e first
      match resolvePieces s1 a.core va.toNat n p page.pa k with
      | some t => .error { trap := t, state := s1 }
      | none =>
        match translatePages s1 a va n k ps with
        | .error t => .error t
        | .ok (m, s2) => .ok (page :: m, s2)

/-- The kept translation of a virtual address. -/
def keptFind (pages : PageMap) (va : Word) : Option KeptPage := pages.find? (fun p => p.page == va.toNat / 65536)

/-- The key of a virtual address under kept translations. -/
def keptKey (s : State) (core : Nat) (pages : PageMap) (va : Word) (k : AKind) : Option Nat :=
  match keptFind pages va with
  | none => none
  | some p =>
    match resolve s core va (p.pa + va.toNat % 65536) k with
    | .ok key => some key
    | .error _ => none

/-- Reads a byte under kept translations. -/
def keptByte (s : State) (core : Nat) (pages : PageMap) (va : Word) : Nat × Bool :=
  match keptKey s core pages va .load with
  | none => (0, false)
  | some key => ((memByte s key).toNat, isPoisoned s key)

/-- n bytes under kept translations as a number, with the poison of any. -/
def keptNat (s : State) (core : Nat) (pages : PageMap) (va : Word) : Nat → Nat × Bool
  | 0 => (0, false)
  | n + 1 =>
    let (v, p) := keptNat s core pages va n
    let (b, q) := keptByte s core pages (va + word n)
    (v + b * 256 ^ n, p || q)

/-- The bytes of a number under kept translations, from an address on. A byte of a backing area is left out: nothing but its own context's
traffic writes there (06 R132; log entry 94). -/
def keptBytes (s : State) (core : Nat) (pages : PageMap) (va : Word) (v : Nat) : Nat → List MaskedByte
  | 0 => []
  | n + 1 =>
    keptBytes s core pages va v n ++
      (match keptKey s core pages (va + word n) .store with
       | some key => if inAnyBacking s key then [] else [{ key := key, mask := 0xFF, val := BitVec.ofNat 8 (v / 256 ^ n) }]
       | none => [])

/-- The chunks that some bytes in ascending order lie in, each by one key. -/
def chunkKeys (bs : List MaskedByte) : List Nat :=
  match bs with
  | [] => []
  | b :: rest => b.key :: (rest.filter (fun c => c.key % 32 == 0)).map (fun c => c.key)

/-- The CMP attribute of a virtual address under kept translations. -/
def keptCmp (pages : PageMap) (va : Word) : Bool := match keptFind pages va with | some p => p.cmp | none => false

/-- The caches after n bytes from an address have been written at the home LLC under kept translations, with the attribute of each page. -/
def keptTouch (s : State) (core : Nat) (pages : PageMap) (bs : List MaskedByte) (va : Word) (n : Nat) : State :=
  (List.range n).foldl (fun s i =>
    let a := va + word i
    if i != 0 && a.toNat % 32 != 0 then s
    else
      match keptKey s core pages a .store with
      | some key => if bs.any (fun b => b.key == key) then homeWritten s key (keptCmp pages a) false else s
      | none => s) s

/-- The caches after n bytes from an address have been read under kept translations (04 R73). -/
def keptFetch (s : State) (core : Nat) (pages : PageMap) (va : Word) (n : Nat) : State :=
  (List.range n).foldl (fun s i =>
    let a := va + word i
    if i != 0 && a.toNat % 32 != 0 then s
    else match keptKey s core pages a .load with | some key => homeRead s (keptCmp pages a) key | none => s) s

/-- Writes n bytes of a number under kept translations, at the home LLC. -/
def keptWrite (s : State) (core : Nat) (pages : PageMap) (writer : Nat) (va : Word) (v n : Nat) : State :=
  let bs := keptBytes s core pages va v n
  keptTouch (writeAll s writer bs) core pages bs va n

/-- Bits of a span of bytes that a copy's indices reach on one side, lowest and highest address, from its base (05 R120, R124). -/
def copySpan (base : Word) (cnt : List Nat) (step : List Int) : Int × Int :=
  let b : Int := base.toNat
  let ends := (List.zip (cnt.drop 1) step).map (fun p => ((p.1 : Int) - 1) * p.2)
  (b + (ends.map (fun z => min 0 z)).sum, b + (ends.map (fun z => max 0 z)).sum + (cnt.headD 1 : Nat) - 1)

/-- A command that moves no byte (05 Table 05.5). -/
def CopyCmd.empty (c : CopyCmd) : Bool := c.cnt.any (fun n => n == 0)

/-- The translation of a virtual page as its agent has it now: a TLB's entry, else what a walk finds. -/
def pageNow (s : State) (core : Nat) (root : Word) (p : Nat) : Option KeptPage :=
  let va := word (p * 65536)
  match tlbFind s core root va with
  | some e => some (keptPage e va)
  | none =>
    match walk s root va .copyLoad with
    | .ok l => some (keptPage (tlbOf root va l) va)
    | .error _ => none

/-- The parts of a byte range that an agent's translations map to the scratchpad of its core now. -/
def walkedScr (s : State) (core : Nat) (root : Word) (lo hi : Nat) (write : Bool) : List ScrRange :=
  pagesScr core ((pageList lo (hi - lo + 1)).filterMap (pageNow s core root)) lo hi write

/-- The first bytes of the runs of CNT0 bytes that a command's outer indices reach (05 R121): one list of offsets for each stride. -/
def copyRuns : List Nat → List Int → List Int
  | c :: cs, z :: zs => (copyRuns cs zs).flatMap (fun o => (List.range c).map (fun (i : Nat) => o + (i : Int) * z))
  | _, _ => [0]

/-- The scratchpad range of one side of a copy command: from the lowest to the highest byte of the own scratchpad that its indices
reach. -/
def copySide (s : State) (c : CopyCmd) (scr : Bool) (base : Word) (step : List Int) (write : Bool) : List ScrRange :=
  if scr then
    let (lo, hi) := copySpan base c.cnt step
    [{ core := c.core, lo := lo.toNat, hi := hi.toNat, write := write }]
  else
    joinRanges c.core write ((copyRuns (c.cnt.drop 1) step).flatMap (fun o =>
      let lo := (addInt base o).toNat
      walkedScr s c.core c.root lo (lo + c.cnt.headD 1 - 1) write))

/-- The scratchpad ranges of a copy command (05 R124). -/
def copyRanges (s : State) (c : CopyCmd) : List ScrRange :=
  if c.empty then []
  else (if c.fill then [] else copySide s c c.sscr c.saddr c.sstep false) ++ copySide s c c.dscr c.daddr c.dstep true

/-- tread (05 R118). -/
def execTread (d : BitVec 5) (x : BitVec 2) (st : State) : Out :=
  live st (fun s => retireS s d ((getEng s (.hart s.cur)).line (EngX.ofCode x)).done)

/-- The stopped command of a hart's copy context while CPYERR.V is 1, with the trap of a twait that covers it (05 R123). -/
def copyFault (x : Hart) : Option (Word × Trap) :=
  if !x.csr.cpyerr.getLsbD 63 then none
  else
    match x.eng.copyQ with
    | [] => none
    | c :: _ => c.fault.map (fun t => (c.num, t))

/-- What a wait at a timeline answers: it waits on, it raises a trap, or it passes; with the state that its merged flags leave. -/
inductive TwaitEnd where
  | waits
  | raised (s : State) (t : Trap)
  | passed (s : State)
  deriving DecidableEq, Repr

/-- The flags of every command of the executing hart's context w up to number n merged into FPFLAGS, once each (05 R119). -/
def mergeCovered (s : State) (w : EngX) (n : Word) : State :=
  let y := curHart s
  let u := y.eng.line w
  let mine := u.flags.filter (fun p => p.1.toNat ≤ n.toNat)
  let fl := mine.foldl (fun f p => f ||| p.2) 0
  putCur s { y with
    csr := { y.csr with fpflags := y.csr.fpflags ||| (fl &&& 0x3F) }
    eng := y.eng.setLine w { u with flags := u.flags.filter (fun p => n.toNat < p.1.toNat) } }

/-- The wait of the executing hart for a number of a context's timeline (05 R119, R123): for the completion counter; then the flags of
every covered command are merged, and the report of the lowest-numbered covered command is raised, once. -/
def twaitOn (s : State) (w : EngX) (asked : Word) : TwaitEnd :=
  let h := curHart s
  let t := h.eng.line w
  let n := if t.issued.toNat < asked.toNat then t.issued else asked
  let stopped := match (if w == .copy then copyFault h else none) with
    | some (num, t) => if num.toNat ≤ n.toNat then some t else none
    | none => none
  match stopped with
  | some tr => .raised (mergeCovered s w n) tr
  | none =>
    if t.done.toNat < n.toNat then .waits
    else
      match t.reports.find? (fun r => r.num.toNat ≤ n.toNat) with
      | some r =>
        if !h.viq.isEmpty then .waits
        else
          let s1 := mergeCovered s w n
          let y := curHart s1
          let u := y.eng.line w
          .raised (putCur s1 { y with eng := y.eng.setLine w { u with reports := u.reports.filter (fun q => q != r) } }) r.trap
      | none => .passed (mergeCovered s w n)

/-- twait (05 R119). -/
def execTwait (a : BitVec 5) (x : BitVec 2) (st : State) : Out :=
  live st (fun s =>
    match twaitOn s (EngX.ofCode x) ((curHart s).getS a) with
    | .waits => s
    | .raised s1 t => trapHere s1 t
    | .passed s1 => retire s1 (fun y => y))

end Sys2Proof.Machine
end

