-- ==== Sys2Proof/Machine/VInt.lean ====
section
/-! DEFINITION. The vector families VINT, VMOV and VXF (07 R147 to R163): integer arithmetic, compares, moves, masks, single elements
and permutes. Each instruction has its VOp, which says what capture checks and what each position does, and its meaning, which enters
it into the VIQ. -/

namespace Sys2Proof.Machine

/-- A position of a destination group (07 R147): zero at padding, unchanged where the mask bit is 0, else as given. -/
def atActive (d : BitVec 5) (fd : VEntry → Nat) (g : Hart → VEntry → Nat → Nat → Except Trap Hart) :
    State → Nat → VEntry → Nat → Nat → Except Stop State :=
  fun s h e r i =>
    let x := getHart s h
    if realLen e.cap.shape ≤ i then .ok (putHart s h (x.zeroElem (fd e) (d.toNat + r) i))
    else if !x.maskBit (maskField e.instr) i then .ok s
    else
      match g x e r i with
      | .error t => .error { trap := t, state := s }
      | .ok y => .ok (putHart s h y)

/-- The captured format of an entry. -/
def entryFmt (e : VEntry) : Nat := shFmt e.cap.shape

/-- An element that an instruction consumes: POISON where it is poisoned (07 R150). -/
def consume (x : Hart) (f v i : Nat) : Except Trap Elem :=
  let e := x.elem f v i
  if e.psn then .error (poisonReg v) else .ok e

/-- HVL and HREG of a destination group of ROWS registers (06 R135). -/
def hwmGroup (d : BitVec 5) (c : Capture) : Option (Nat × Nat) :=
  some (if fmtTwo (shFmt c.shape) then 2 * shVL c.shape else shVL c.shape, d.toNat + shRows c.shape - 1)

/-- The registers of a field's group under the captured shape. -/
def fieldGroup (v : BitVec 5) (c : Capture) : List Nat := groupRegs v.toNat (shRows c.shape)

/-- Containers per row of the captured shape. -/
def capConts (c : Capture) : Nat := rowContainers (shFmt c.shape) (shVL c.shape)

/-- Every field's group ends by v31 (03 R50). -/
def groupsFit (vs : List (BitVec 5)) (c : Capture) : Bool := vs.all (fun v => groupOk v.toNat (shRows c.shape))

/-- Capture checks of an element-wise instruction (07 Table 07.2): the destination coincides with a source or shares no register. -/
def legalEw (accept : Nat → Bool) (d : BitVec 5) (srcs : List (BitVec 5)) (_ : Hart) (c : Capture) : Bool :=
  shapeOk c.slices c.shape accept && groupsFit (d :: srcs) c &&
    srcs.all (fun v => sameOrDisjoint d.toNat v.toNat (shRows c.shape))

/-- Capture checks of an instruction whose destination never overlaps a source. -/
def legalApart (accept : Nat → Bool) (d : BitVec 5) (srcs : List (BitVec 5)) (_ : Hart) (c : Capture) : Bool :=
  shapeOk c.slices c.shape accept && groupsFit (d :: srcs) c &&
    srcs.all (fun v => disjointGroups d.toNat (shRows c.shape) v.toNat (shRows c.shape))

/-- No change at completion. -/
def finNone (x : Hart) (_ : VEntry) : Hart := x

/-- An element-wise instruction that writes a group in its captured format. -/
def ewOp (accept : Nat → Bool) (d : BitVec 5) (srcs : List (BitVec 5)) (readsD : Bool)
    (g : Hart → VEntry → Nat → Nat → Except Trap Hart) : VOp :=
  { legal := legalEw accept d srcs
    reads := fun c => (if readsD then d :: srcs else srcs).flatMap (fun v => fieldGroup v c)
    writes := fieldGroup d
    mreads := [], mwrites := [], sweep := fun c => c.shape, conts := capConts, hwm := hwmGroup d
    perm := false, mem := false, fin := finNone
    run := .pos (atActive d entryFmt g) }

/-- A permute-class instruction (07 R148: no overlap), with its position function. -/
def permOp (accept : Nat → Bool) (d : BitVec 5) (srcs : List (BitVec 5))
    (g : Hart → VEntry → Nat → Nat → Except Trap Hart) : VOp :=
  { legal := legalApart accept d srcs
    reads := fun c => srcs.flatMap (fun v => fieldGroup v c)
    writes := fieldGroup d
    mreads := [], mwrites := [], sweep := fun c => c.shape, conts := capConts, hwm := hwmGroup d
    perm := true, mem := false, fin := finNone
    run := .pos (atActive d entryFmt g) }

/-- The result of an integer operation at a position, on the bits of a and b under format f. Poison of a is met before poison of b, here and
in every other operation of the vector core (of a third operand d last): 07 R150 does not say which register TVAL names where two operands
of a position are poisoned (DESIGN CHOICE, log entry 109). -/
def intPos (d a b : BitVec 5) (g : Nat → Nat → Nat → Nat × Flags) (x : Hart) (e : VEntry) (r i : Nat) : Except Trap Hart :=
  let f := entryFmt e
  match consume x f (a.toNat + r) i with
  | .error t => .error t
  | .ok p =>
    match consume x f (b.toNat + r) i with
    | .error t => .error t
    | .ok q =>
      let (v, fl) := g f p.bits q.bits
      .ok ((x.setElem f (d.toNat + r) i { bits := v, tail := 0, tail2 := 0, psn := false }).addFlags fl)

/-- An element-wise integer instruction (07 R151). -/
def intOp (d a b : BitVec 5) (g : Nat → Nat → Nat → Nat × Flags) : VOp := ewOp fmtInt d [a, b] false (intPos d a b g)

/-- An integer result that wraps (02 R19). -/
def wrapI (f : Nat) (z : Int) : Nat × Flags := (bitsOfInt f z, 0)

/-- An integer result that saturates (02 R19). -/
def satI (f : Nat) (z : Int) : Nat × Flags :=
  let (y, fl) := saturate (intLo f) (intHi f) z
  (bitsOfInt f y, fl)

/-- The shift amount of an element of width w (07 R151). -/
def shiftAmt (f b : Nat) : Nat := b % fmtWidth f

/-- vadd (07 Table 07.3): (a + b) mod 2^w. -/
def vaddOp (d a b : BitVec 5) : VOp := intOp d a b (fun f p q => wrapI f (intOf f p + intOf f q))

/-- vadd at the front end. -/
def execVadd (d a b : BitVec 5) (s m : BitVec 3) (st : State) : Out :=
  live st (commitVector (.vadd d a b s m) s.toNat 0 (vaddOp d a b))

/-- vsub (07 Table 07.3): (a − b) mod 2^w. -/
def vsubOp (d a b : BitVec 5) : VOp := intOp d a b (fun f p q => wrapI f (intOf f p - intOf f q))

/-- vsub at the front end. -/
def execVsub (d a b : BitVec 5) (s m : BitVec 3) (st : State) : Out :=
  live st (commitVector (.vsub d a b s m) s.toNat 0 (vsubOp d a b))

/-- vmul (07 Table 07.3): (a × b) mod 2^w. -/
def vmulOp (d a b : BitVec 5) : VOp := intOp d a b (fun f p q => wrapI f (intOf f p * intOf f q))

/-- vmul at the front end. -/
def execVmul (d a b : BitVec 5) (s m : BitVec 3) (st : State) : Out :=
  live st (commitVector (.vmul d a b s m) s.toNat 0 (vmulOp d a b))

/-- vmulh (07 Table 07.3): bits 2w − 1:w of the exact product. -/
def vmulhOp (d a b : BitVec 5) : VOp := intOp d a b (fun f p q => wrapI f (intOf f p * intOf f q / (2 ^ fmtWidth f : Nat)))

/-- vmulh at the front end. -/
def execVmulh (d a b : BitVec 5) (s m : BitVec 3) (st : State) : Out :=
  live st (commitVector (.vmulh d a b s m) s.toNat 0 (vmulhOp d a b))

/-- vsadd (07 Table 07.3): a + b, saturated. -/
def vsaddOp (d a b : BitVec 5) : VOp := intOp d a b (fun f p q => satI f (intOf f p + intOf f q))

/-- vsadd at the front end. -/
def execVsadd (d a b : BitVec 5) (s m : BitVec 3) (st : State) : Out :=
  live st (commitVector (.vsadd d a b s m) s.toNat 0 (vsaddOp d a b))

/-- vssub (07 Table 07.3): a − b, saturated. -/
def vssubOp (d a b : BitVec 5) : VOp := intOp d a b (fun f p q => satI f (intOf f p - intOf f q))

/-- vssub at the front end. -/
def execVssub (d a b : BitVec 5) (s m : BitVec 3) (st : State) : Out :=
  live st (commitVector (.vssub d a b s m) s.toNat 0 (vssubOp d a b))

/-- vmin (07 Table 07.3): the lesser by signedness. -/
def vminOp (d a b : BitVec 5) : VOp := intOp d a b (fun f p q => wrapI f (min (intOf f p) (intOf f q)))

/-- vmin at the front end. -/
def execVmin (d a b : BitVec 5) (s m : BitVec 3) (st : State) : Out :=
  live st (commitVector (.vmin d a b s m) s.toNat 0 (vminOp d a b))

/-- vmax (07 Table 07.3): the greater by signedness. -/
def vmaxOp (d a b : BitVec 5) : VOp := intOp d a b (fun f p q => wrapI f (max (intOf f p) (intOf f q)))

/-- vmax at the front end. -/
def execVmax (d a b : BitVec 5) (s m : BitVec 3) (st : State) : Out :=
  live st (commitVector (.vmax d a b s m) s.toNat 0 (vmaxOp d a b))

/-- vand (07 Table 07.3): bitwise and. -/
def vandOp (d a b : BitVec 5) : VOp := intOp d a b (fun _ p q => (p &&& q, 0))

/-- vand at the front end. -/
def execVand (d a b : BitVec 5) (s m : BitVec 3) (st : State) : Out :=
  live st (commitVector (.vand d a b s m) s.toNat 0 (vandOp d a b))

/-- vor (07 Table 07.3): bitwise or. -/
def vorOp (d a b : BitVec 5) : VOp := intOp d a b (fun _ p q => (p ||| q, 0))

/-- vor at the front end. -/
def execVor (d a b : BitVec 5) (s m : BitVec 3) (st : State) : Out :=
  live st (commitVector (.vor d a b s m) s.toNat 0 (vorOp d a b))

/-- vxor (07 Table 07.3): bitwise exclusive or. -/
def vxorOp (d a b : BitVec 5) : VOp := intOp d a b (fun _ p q => (p ^^^ q, 0))

/-- vxor at the front end. -/
def execVxor (d a b : BitVec 5) (s m : BitVec 3) (st : State) : Out :=
  live st (commitVector (.vxor d a b s m) s.toNat 0 (vxorOp d a b))

/-- vsll (07 Table 07.3): (a × 2^s) mod 2^w. -/
def vsllOp (d a b : BitVec 5) : VOp := intOp d a b (fun f p q => (p * 2 ^ shiftAmt f q % 2 ^ fmtWidth f, 0))

/-- vsll at the front end. -/
def execVsll (d a b : BitVec 5) (s m : BitVec 3) (st : State) : Out :=
  live st (commitVector (.vsll d a b s m) s.toNat 0 (vsllOp d a b))

/-- vsrl (07 Table 07.3): a shifted right by s, zeros in. -/
def vsrlOp (d a b : BitVec 5) : VOp := intOp d a b (fun f p q => (p / 2 ^ shiftAmt f q, 0))

/-- vsrl at the front end. -/
def execVsrl (d a b : BitVec 5) (s m : BitVec 3) (st : State) : Out :=
  live st (commitVector (.vsrl d a b s m) s.toNat 0 (vsrlOp d a b))

/-- vsra (07 Table 07.3): a shifted right by s, copies of bit w − 1 in. -/
def vsraOp (d a b : BitVec 5) : VOp := intOp d a b (fun f p q => wrapI f (signedOf (fmtWidth f) p / (2 ^ shiftAmt f q : Nat)))

/-- vsra at the front end. -/
def execVsra (d a b : BitVec 5) (s m : BitVec 3) (st : State) : Out :=
  live st (commitVector (.vsra d a b s m) s.toNat 0 (vsraOp d a b))

/-- The format of twice the width (07 R152). -/
def wideFmt (f : Nat) : Nat := f + 1

/-- I8, I16, N8 or N16. -/
def fmtNarrow (f : Nat) : Bool := f == 0 || f == 1 || f == 4 || f == 5

/-- vmacc (07 R152): d := sat_W(d + a × b), the destination in the twice-wide format; no overlap with a source. -/
def vmaccOp (d a b : BitVec 5) : VOp :=
  { ewOp fmtNarrow d [a, b] true (fun x e r i =>
      let f := entryFmt e
      let w := wideFmt f
      match consume x f (a.toNat + r) i, consume x f (b.toNat + r) i, consume x w (d.toNat + r) i with
      | .ok p, .ok q, .ok c =>
        let (v, fl) := satI w (intOf w c.bits + intOf f p.bits * intOf f q.bits)
        .ok ((x.setElem w (d.toNat + r) i { bits := v, tail := 0, tail2 := 0, psn := false }).addFlags fl)
      | .error t, _, _ => .error t
      | _, .error t, _ => .error t
      | _, _, .error t => .error t) with
    legal := legalApart fmtNarrow d [a, b] }

/-- vmacc at the front end. -/
def execVmacc (d a b : BitVec 5) (s m : BitVec 3) (st : State) : Out :=
  live st (commitVector (.vmacc d a b s m) s.toNat 0 (vmaccOp d a b))

/-- vnshr (07 R153): a in the twice-wide format, shifted right exactly by the raw low bits of b, rounded as given, saturated. -/
def vnshrOp (d a b : BitVec 5) (rnd : Int → Nat → Int) : VOp :=
  { ewOp fmtNarrow d [a, b] false (fun x e r i =>
      let f := entryFmt e
      let w := wideFmt f
      match consume x w (a.toNat + r) i, consume x 6 (b.toNat + r) i with
      | .ok p, .ok q =>
        let (v, fl) := satI f (rnd (intOf w p.bits) (q.bits % fmtWidth w))
        .ok ((x.setElem f (d.toNat + r) i { bits := v, tail := 0, tail2 := 0, psn := false }).addFlags fl)
      | .error t, _ => .error t
      | _, .error t => .error t) with
    legal := legalApart fmtNarrow d [a, b] }

/-- x / 2^s toward zero. -/
def shrTz (x : Int) (s : Nat) : Int := if x < 0 then -((-x) / (2 ^ s : Nat)) else x / (2 ^ s : Nat)

/-- x / 2^s to nearest, ties toward +∞. -/
def shrHu (x : Int) (s : Nat) : Int := (2 * x + (2 ^ s : Nat)) / (2 * (2 ^ s : Nat))

/-- x / 2^s to nearest, ties to the even integer. -/
def shrHe (x : Int) (s : Nat) : Int :=
  let k : Int := (2 ^ s : Nat)
  let q := x / k
  let r2 := 2 * (x % k)
  if r2 > k || (r2 == k && q % 2 != 0) then q + 1 else q

/-- floor(x / 2^s), with bit 0 set when x / 2^s is no integer. -/
def shrOd (x : Int) (s : Nat) : Int :=
  let k : Int := (2 ^ s : Nat)
  let q := x / k
  if x % k != 0 && q % 2 == 0 then q + 1 else q

/-- vnshrTz at the front end (07 Table 07.4). -/
def execVnshrTz (d a b : BitVec 5) (s m : BitVec 3) (st : State) : Out :=
  live st (commitVector (.vnshrTz d a b s m) s.toNat 0 (vnshrOp d a b shrTz))

/-- vnshrHu at the front end (07 Table 07.4). -/
def execVnshrHu (d a b : BitVec 5) (s m : BitVec 3) (st : State) : Out :=
  live st (commitVector (.vnshrHu d a b s m) s.toNat 0 (vnshrOp d a b shrHu))

/-- vnshrHe at the front end (07 Table 07.4). -/
def execVnshrHe (d a b : BitVec 5) (s m : BitVec 3) (st : State) : Out :=
  live st (commitVector (.vnshrHe d a b s m) s.toNat 0 (vnshrOp d a b shrHe))

/-- vnshrOd at the front end (07 Table 07.4). -/
def execVnshrOd (d a b : BitVec 5) (s m : BitVec 3) (st : State) : Out :=
  live st (commitVector (.vnshrOd d a b s m) s.toNat 0 (vnshrOp d a b shrOd))

/-- A mask with every bit from n up cleared (06 R128). -/
def clearFrom (v : BitVec 512) (n : Nat) : BitVec 512 := v &&& (BitVec.allOnes 512 >>> (512 - min n 512))

/-- A comparison that writes bit i of a mask (07 R147, R154): inactive positions keep their bit, padding and positions from VL up
become 0. -/
def cmpOp (accept : Nat → Bool) (d a b : BitVec 5) (g : Nat → Elem → Elem → Bool × Flags) : VOp :=
  { legal := fun _ c => shapeOk c.slices c.shape accept && shRows c.shape == 1
    reads := fun c => [a, b].flatMap (fun v => fieldGroup v c)
    writes := fun _ => []
    mreads := [], mwrites := [d.toNat], sweep := fun c => c.shape, conts := capConts, hwm := fun _ => none
    perm := false, mem := false
    fin := fun x e => x.setM d.toNat (clearFrom (x.getM d.toNat) (realLen e.cap.shape))
    run := .pos (fun s h e _ i =>
      let x := getHart s h
      let f := entryFmt e
      if realLen e.cap.shape ≤ i then .ok (putHart s h (x.setM d.toNat (withBit (x.getM d.toNat) i false)))
      else if !x.maskBit (maskOfCmp e.instr) i then .ok s
      else
        match consume x f a.toNat i, consume x f b.toNat i with
        | .ok p, .ok q =>
          let (v, fl) := g f p q
          .ok (putHart s h ((x.setM d.toNat (withBit (x.getM d.toNat) i v)).addFlags fl))
        | .error t, _ => .error { trap := t, state := s }
        | _, .error t => .error { trap := t, state := s }) }

/-- vcmp (07 R154): by signedness. -/
def vcmpOp (d a b : BitVec 5) (g : Int → Int → Bool) : VOp :=
  cmpOp fmtInt d a b (fun f p q => (g (intOf f p.bits) (intOf f q.bits), 0))

/-- vcmpEq at the front end. -/
def execVcmpEq (d a b : BitVec 5) (s m : BitVec 3) (st : State) : Out :=
  live st (commitVector (.vcmpEq d a b s m) s.toNat 0 (vcmpOp d a b (fun p q => p == q)))

/-- vcmpNe at the front end. -/
def execVcmpNe (d a b : BitVec 5) (s m : BitVec 3) (st : State) : Out :=
  live st (commitVector (.vcmpNe d a b s m) s.toNat 0 (vcmpOp d a b (fun p q => p != q)))

/-- vcmpLt at the front end. -/
def execVcmpLt (d a b : BitVec 5) (s m : BitVec 3) (st : State) : Out :=
  live st (commitVector (.vcmpLt d a b s m) s.toNat 0 (vcmpOp d a b (fun p q => p < q)))

/-- vcmpLe at the front end. -/
def execVcmpLe (d a b : BitVec 5) (s m : BitVec 3) (st : State) : Out :=
  live st (commitVector (.vcmpLe d a b s m) s.toNat 0 (vcmpOp d a b (fun p q => p ≤ q)))

/-- vcmpGt at the front end. -/
def execVcmpGt (d a b : BitVec 5) (s m : BitVec 3) (st : State) : Out :=
  live st (commitVector (.vcmpGt d a b s m) s.toNat 0 (vcmpOp d a b (fun p q => p > q)))

/-- vcmpGe at the front end. -/
def execVcmpGe (d a b : BitVec 5) (s m : BitVec 3) (st : State) : Out :=
  live st (commitVector (.vcmpGe d a b s m) s.toNat 0 (vcmpOp d a b (fun p q => p ≥ q)))

/-- Codes 0 to 16 (02 R18). -/
def fmtAny (f : Nat) : Bool := f < 17

/-- Codes 0 to 16 but the packed ones. -/
def fmtPlain (f : Nat) : Bool := f < 17 && !fmtPacked f

/-- Bits o to o + w − 1 of a container's DATA replaced from another's, tail 0b00, poison as given. -/
def mergeData (x : Hart) (v c o w src : Nat) (psn : Bool) : Hart :=
  let old := cData (x.getC v c)
  x.setC v c (mkC psn 0 (putBits old o w (src / 2 ^ o)))

/-- A packed element of vmv (07 R155): its bits from a, or zero at padding; poison from a's containers; at the last position the rest
of the last container from a. -/
def vmvPacked (x : Hart) (d a w i : Nat) (real last : Bool) : Hart :=
  let j := w * i / 32
  let o := w * i % 32
  let src := fun (c : Nat) => if real then cData (x.getC a c) else 0
  let n0 := min w (32 - o)
  let y := mergeData x d j o n0 (src j) (cPsn (x.getC a j))
  let z := if o + w > 32 then mergeData y d (j + 1) 0 (o + w - 32) (src (j + 1)) (cPsn (x.getC a (j + 1))) else y
  let en := (w * i + w) % 32
  let k := (w * i + w) / 32
  if last && en != 0 then mergeData z d k en (32 - en) (cData (x.getC a k)) (cPsn (x.getC a k)) else z

/-- vmv (07 R155): copies containers with tails and poison; a packed format requires m = 0. -/
def vmvOp (d a : BitVec 5) (m : BitVec 3) : VOp :=
  { ewOp fmtAny d [a] false (fun x e r i => .ok (x.moveElem (entryFmt e) (d.toNat + r) i x (a.toNat + r) i)) with
    legal := fun x c => legalEw fmtAny d [a] x c && (!fmtPacked (shFmt c.shape) || m == 0)
    run := .pos (fun s h e r i =>
      let f := entryFmt e
      if fmtPacked f then
        .ok (putHart s h (vmvPacked (getHart s h) (d.toNat + r) (a.toNat + r) (fmtWidth f) i
          (i < realLen e.cap.shape) (i + 1 == shVL e.cap.shape)))
      else
        atActive d entryFmt
          (fun x e r i => .ok (x.moveElem (entryFmt e) (d.toNat + r) i x (a.toNat + r) i)) s h e r i) }

/-- vmv at the front end. -/
def execVmv (d a : BitVec 5) (s m : BitVec 3) (st : State) : Out :=
  live st (commitVector (.vmv d a s m) s.toNat 0 (vmvOp d a m))

/-- vmerge (07 R155): the mask selects a where its bit is 1 and b where it is 0; no position is inactive. -/
def vmergeOp (d a b : BitVec 5) (m : BitVec 3) : VOp :=
  { ewOp fmtPlain d [a, b] false (fun x _ _ _ => .ok x) with
    mreads := [m.toNat]
    run := .pos (fun s h e r i =>
      let x := getHart s h
      let f := entryFmt e
      if realLen e.cap.shape ≤ i then .ok (putHart s h (x.zeroElem f (d.toNat + r) i))
      else
        let v := if x.maskBit m.toNat i then a else b
        .ok (putHart s h (x.moveElem f (d.toNat + r) i x (v.toNat + r) i))) }

/-- vmerge at the front end. -/
def execVmerge (d a b : BitVec 5) (s m : BitVec 3) (st : State) : Out :=
  live st (commitVector (.vmerge d a b s m) s.toNat 0 (vmergeOp d a b m))

/-- vsplat (07 R155): the low bits of the captured scalar. -/
def vsplatOp (d : BitVec 5) : VOp :=
  ewOp fmtPlain d [] false (fun x e r i =>
    .ok (x.setElem (entryFmt e) (d.toNat + r) i { bits := e.cap.sa.toNat, tail := 0, tail2 := 0, psn := false }))

/-- vsplat at the front end. -/
def execVsplat (d a : BitVec 5) (s m : BitVec 3) (st : State) : Out :=
  live st (commitVector (.vsplat d a s m) s.toNat 0 (vsplatOp d))

/-- vid (07 R155): i mod 2^w. -/
def vidOp (d : BitVec 5) : VOp :=
  ewOp fmtInt d [] false (fun x e r i => .ok (x.setElem (entryFmt e) (d.toNat + r) i (intElem (entryFmt e) i)))

/-- vid at the front end. -/
def execVid (d : BitVec 5) (s m : BitVec 3) (st : State) : Out :=
  live st (commitVector (.vid d s m) s.toNat 0 (vidOp d))

/-- Active positions below n whose bit of mask a is 1. -/
def countBits (x : Hart) (m a n : Nat) : Nat := ((List.range n).filter (fun j => x.maskBit m j && x.maskBit a j)).length

/-- viota (07 R155). -/
def viotaOp (d a : BitVec 5) : VOp :=
  { ewOp fmtInt d [] false (fun x e r i =>
      .ok (x.setElem (entryFmt e) (d.toNat + r) i (intElem (entryFmt e) (countBits x (maskField e.instr) a.toNat i)))) with
    mreads := [a.toNat] }

/-- viota at the front end. -/
def execViota (d a : BitVec 5) (s m : BitVec 3) (st : State) : Out :=
  live st (commitVector (.viota d a s m) s.toNat 0 (viotaOp d a))

/-- A mask operation (07 R156): bits below VL − PAD as given, every other bit 0. -/
def maskOp (d a b : BitVec 5) (g : Bool → Bool → Bool) : VOp :=
  { legal := fun _ c => shapeOk c.slices c.shape fmtAny
    reads := fun _ => [], writes := fun _ => [], mreads := [a.toNat, b.toNat], mwrites := [d.toNat]
    sweep := fun c => c.shape, conts := capConts, hwm := fun _ => none, perm := false, mem := false
    fin := fun x e => x.setM d.toNat (clearFrom (x.getM d.toNat) (realLen e.cap.shape))
    run := .pos (fun s h e r i =>
      let x := getHart s h
      if realLen e.cap.shape ≤ i || r != 0 then .ok s
      else
        let v := g (x.maskBit a.toNat i) (x.maskBit b.toNat i)
        .ok (putHart s h (x.setM d.toNat (withBit (x.getM d.toNat) i v)))) }

/-- mand at the front end. -/
def execMand (d a b : BitVec 5) (s : BitVec 3) (st : State) : Out :=
  live st (commitVector (.mand d a b s) s.toNat 0 (maskOp d a b (fun p q => p && q)))

/-- mor at the front end. -/
def execMor (d a b : BitVec 5) (s : BitVec 3) (st : State) : Out :=
  live st (commitVector (.mor d a b s) s.toNat 0 (maskOp d a b (fun p q => p || q)))

/-- mxor at the front end. -/
def execMxor (d a b : BitVec 5) (s : BitVec 3) (st : State) : Out :=
  live st (commitVector (.mxor d a b s) s.toNat 0 (maskOp d a b (fun p q => p != q)))

/-- mandn at the front end. -/
def execMandn (d a b : BitVec 5) (s : BitVec 3) (st : State) : Out :=
  live st (commitVector (.mandn d a b s) s.toNat 0 (maskOp d a b (fun p q => p && !q)))

/-- A synchronising read that writes no vector register (07 R143). -/
def syncOp (legal : Hart → Capture → Bool) (reads : Capture → List Nat) (mreads : List Nat)
    (g : Hart → VEntry → Except (Nat × Trap) (Word × Hart)) : VOp :=
  { legal := legal, reads := reads, writes := fun _ => [], mreads := mreads, mwrites := []
    sweep := fun c => c.shape, conts := capConts, hwm := fun _ => none, perm := true, mem := false
    fin := finNone, run := .sync g }

/-- mpop (07 R157): active positions whose bit of A is 1. -/
def mpopOp (a : BitVec 5) (m : BitVec 3) : VOp :=
  syncOp (fun _ c => shapeOk c.slices c.shape fmtAny) (fun _ => []) [a.toNat] (fun x e =>
    .ok (word (countBits x m.toNat a.toNat (realLen e.cap.shape)), x))

/-- mpop at the front end. -/
def execMpop (d a : BitVec 5) (s m : BitVec 3) (st : State) : Out :=
  live st (commitVector (.mpop d a s m) s.toNat 0 (mpopOp a m))

/-- mfirst (07 R157): the least active position whose bit of A is 1, or −1. -/
def mfirstOp (a : BitVec 5) (m : BitVec 3) : VOp :=
  syncOp (fun _ c => shapeOk c.slices c.shape fmtAny) (fun _ => []) [a.toNat] (fun x e =>
    match (List.range (realLen e.cap.shape)).find? (fun j => x.maskBit m.toNat j && x.maskBit a.toNat j) with
    | some j => .ok (word j, x)
    | none => .ok (BitVec.allOnes 64, x))

/-- mfirst at the front end. -/
def execMfirst (d a : BitVec 5) (s m : BitVec 3) (st : State) : Out :=
  live st (commitVector (.mfirst d a s m) s.toNat 0 (mfirstOp a m))

/-- A register element as a scalar (07 R158): sign-extended for I formats, else zero-extended; the tail is not returned. -/
def elemScalar (f : Nat) (e : Elem) : Word := if f < 4 then wordOfInt (intOf f e.bits) else word e.bits

/-- vmovs (07 R158): the element at position sB, or 0 where there is none. -/
def vmovsOp (a : BitVec 5) : VOp :=
  syncOp (fun _ c => shapeOk c.slices c.shape fmtPlain && groupsFit [a] c) (fieldGroup a) [] (fun x e =>
    let sh := e.cap.shape
    let p := e.cap.sb.toNat
    if shVL sh = 0 || shRows sh * shVL sh ≤ p || realLen sh ≤ p % shVL sh then .ok (0, x)
    else
      match consume x (shFmt sh) (a.toNat + p / shVL sh) (p % shVL sh) with
      | .error t => .error (p, t)
      | .ok el => .ok (elemScalar (shFmt sh) el, x))

/-- vmovs at the front end. -/
def execVmovs (d a b : BitVec 5) (s : BitVec 3) (st : State) : Out :=
  live st (commitVector (.vmovs d a b s) s.toNat 0 (vmovsOp a))

/-- vins (07 R158): the element at position sB alone is written. -/
def vinsOp (d : BitVec 5) : VOp :=
  { ewOp fmtPlain d [] false (fun x _ _ _ => .ok x) with
    run := .pos (fun s h e r i =>
      let sh := e.cap.shape
      if e.cap.sb.toNat == r * shVL sh + i && i < realLen sh then
        .ok (putHart s h ((getHart s h).setElem (shFmt sh) (d.toNat + r) i
          { bits := e.cap.sa.toNat, tail := 0, tail2 := 0, psn := false }))
      else .ok s) }

/-- vins at the front end. -/
def execVins (d a b : BitVec 5) (s : BitVec 3) (st : State) : Out :=
  live st (commitVector (.vins d a b s) s.toNat 0 (vinsOp d))

/-- A source element of the same row, or zero outside the real length (07 R159). -/
def pick (x : Hart) (e : VEntry) (d a : BitVec 5) (r i k : Nat) : Hart :=
  let f := entryFmt e
  if k < realLen e.cap.shape then x.moveElem f (d.toNat + r) i x (a.toNat + r) k else x.zeroElem f (d.toNat + r) i

/-- The index of position i of row r (05 R96): the DATA of container i, consumed. -/
def indexOf (x : Hart) (b : BitVec 5) (r i : Nat) : Except Trap Nat :=
  let c := x.getC (b.toNat + r) i
  if cPsn c then .error (poisonReg (b.toNat + r)) else .ok (cData c)

/-- vperm (07 R159). -/
def vpermOp (d a b : BitVec 5) : VOp :=
  permOp fmtPlain d [a, b] (fun x e r i =>
    match indexOf x b r i with
    | .error t => .error t
    | .ok k => .ok (pick x e d a r i k))

/-- vperm at the front end. -/
def execVperm (d a b : BitVec 5) (s m : BitVec 3) (st : State) : Out :=
  live st (commitVector (.vperm d a b s m) s.toNat 0 (vpermOp d a b))

/-- vslide.up (07 R159): elements below s are unchanged. -/
def vslideUpOp (d a : BitVec 5) : VOp :=
  permOp fmtPlain d [a] (fun x e r i =>
    let k := e.cap.sb.toNat
    if k ≤ i then .ok (x.moveElem (entryFmt e) (d.toNat + r) i x (a.toNat + r) (i - k)) else .ok x)

/-- vslide.up at the front end. -/
def execVslideUp (d a b : BitVec 5) (s m : BitVec 3) (st : State) : Out :=
  live st (commitVector (.vslideUp d a b s m) s.toNat 0 (vslideUpOp d a))

/-- vslide.dn (07 R159). -/
def vslideDnOp (d a : BitVec 5) : VOp := permOp fmtPlain d [a] (fun x e r i => .ok (pick x e d a r i (i + e.cap.sb.toNat)))

/-- vslide.dn at the front end. -/
def execVslideDn (d a b : BitVec 5) (s m : BitVec 3) (st : State) : Out :=
  live st (commitVector (.vslideDn d a b s m) s.toNat 0 (vslideDnOp d a))

/-- vbcast (07 R159). -/
def vbcastOp (d a : BitVec 5) : VOp := permOp fmtPlain d [a] (fun x e r i => .ok (pick x e d a r i e.cap.sb.toNat))

/-- vbcast at the front end. -/
def execVbcast (d a b : BitVec 5) (s m : BitVec 3) (st : State) : Out :=
  live st (commitVector (.vbcast d a b s m) s.toNat 0 (vbcastOp d a))

/-- vreshape (07 R160): source under the captured shape, destination under shape K, both of one format. -/
def vreshapeOp (d a : BitVec 5) (m : BitVec 3) : VOp :=
  { legal := fun _ c =>
      shapeOk c.slices c.shape fmtPlain && shapeOk c.slices c.shapeK fmtPlain && shFmt c.shape == shFmt c.shapeK &&
      groupOk a.toNat (shRows c.shape) && groupOk d.toNat (shRows c.shapeK) &&
      disjointGroups d.toNat (shRows c.shapeK) a.toNat (shRows c.shape)
    reads := fieldGroup a
    writes := fun c => groupRegs d.toNat (shRows c.shapeK)
    mreads := [m.toNat], mwrites := [], sweep := fun c => c.shapeK
    conts := fun c => max (capConts c) (rowContainers (shFmt c.shapeK) (shVL c.shapeK))
    wconts := fun c => rowContainers (shFmt c.shapeK) (shVL c.shapeK)
    rlines := fun c => linesOf (fieldGroup a c) (capConts c)
    hwm := fun c => some (if fmtTwo (shFmt c.shapeK) then 2 * shVL c.shapeK else shVL c.shapeK, d.toNat + shRows c.shapeK - 1)
    perm := true, mem := false, fin := finNone
    run := .pos (fun s h e r i =>
      let x := getHart s h
      let f := entryFmt e
      let ld := realLen e.cap.shapeK
      let ls := realLen e.cap.shape
      if ld ≤ i then .ok (putHart s h (x.zeroElem f (d.toNat + r) i))
      else if !x.maskBit m.toNat i then .ok s
      else
        let q := r * ld + i
        .ok (putHart s h
          (if q < shRows e.cap.shape * ls then x.moveElem f (d.toNat + r) i x (a.toNat + q / ls) (q % ls)
           else x.zeroElem f (d.toNat + r) i))) }

/-- vreshape at the front end. -/
def execVreshape (d a k : BitVec 5) (s m : BitVec 3) (st : State) : Out :=
  live st (commitVector (.vreshape d a k s m) s.toNat k.toNat (vreshapeOp d a m))

/-- A one-container destination that is zero at padding and unchanged where inactive. -/
def atActive1 (d : BitVec 5) (g : Hart → VEntry → Nat → Nat → Except Trap Hart) :
    State → Nat → VEntry → Nat → Nat → Except Stop State := atActive d (fun _ => 6) g

/-- vunpack (07 R161): one element per container, I8 images or the exact FP32 value of D6; poison moves with the element. -/
def vunpackOp (d a : BitVec 5) : VOp :=
  { permOp fmtPacked d [a] (fun x _ _ _ => .ok x) with
    conts := fun c => shVL c.shape
    wconts := fun c => shVL c.shape
    rlines := fun c => linesOf (fieldGroup a c) (capConts c)
    run := .pos (atActive1 d (fun x e r i =>
      let f := entryFmt e
      let p := x.elem f (a.toNat + r) i
      let (v, fl) := elemVal f p.bits 0
      match v with
      | .int z => .ok ((x.setElem 0 (d.toNat + r) i { (intElem 0 z) with psn := p.psn }).addFlags fl)
      | .fp y => .ok (x.setElem 12 (d.toNat + r) i { bits := (writeRto fFP32 y).code, tail := 0, tail2 := 0, psn := p.psn }))) }

/-- vunpack at the front end. -/
def execVunpack (d a : BitVec 5) (s m : BitVec 3) (st : State) : Out :=
  live st (commitVector (.vunpack d a s m) s.toNat 0 (vunpackOp d a))

/-- Formats of vlut codes (07 R162). -/
def fmtCode (f : Nat) : Bool := f == 0 || f == 4 || f == 8 || f == 9 || f == 14 || f == 15 || f == 16

/-- vlut (07 R162): the container of the single register b that the code names, zero beyond the owned slices. Where b is an in-stream, its padding
reads zero (05 R111), and a container to which none of the instruction's positions belongs is a free value (log entry 128). -/
def vlutOp (d a b : BitVec 5) : VOp :=
  { permOp fmtCode d [a] (fun x _ _ _ => .ok x) with
    legal := fun x c => legalApart fmtCode d [a] x c && disjointGroups d.toNat (shRows c.shape) b.toNat 1
    reads := fun c => b.toNat :: fieldGroup a c
    conts := fun c => max (shVL c.shape) (128 * c.slices)
    wconts := fun c => shVL c.shape
    rlines := fun c => linesOf (fieldGroup a c) (capConts c) ++ linesOf [b.toNat] (128 * c.slices)
    run := .pos (atActive1 d (fun x e r i =>
      match consume x (entryFmt e) (a.toNat + r) i with
      | .error t => .error t
      | .ok p =>
        let c := p.bits
        let t := if (x.streamAt b.toNat).isSome && rowContainers (entryFmt e) (shVL e.cap.shape) ≤ c then Config.unpopped e.entered c
          else x.getC b.toNat c
        if c < 128 * e.cap.slices then .ok (x.setC (d.toNat + r) i t)
        else .ok (x.setC (d.toNat + r) i 0))) }

/-- vlut at the front end. -/
def execVlut (d a b : BitVec 5) (s m : BitVec 3) (st : State) : Out :=
  live st (commitVector (.vlut d a b s m) s.toNat 0 (vlutOp d a b))

/-- Positions below n that a mask selects, in order. -/
def selected (x : Hart) (m n : Nat) : List Nat := (List.range n).filter (fun j => x.maskBit m j)

/-- vexpand (07 R163): selected positions take the source's elements in order; the others keep their containers. -/
def vexpandOp (d a : BitVec 5) (m : BitVec 3) : VOp :=
  { permOp fmtPlain d [a] (fun x e r i =>
      .ok (x.moveElem (entryFmt e) (d.toNat + r) i x (a.toNat + r) (selected x (maskField e.instr) i).length)) with
    mreads := [m.toNat] }

/-- vexpand at the front end. -/
def execVexpand (d a : BitVec 5) (s m : BitVec 3) (st : State) : Out :=
  live st (commitVector (.vexpand d a s m) s.toNat 0 (vexpandOp d a m))

/-- vcompress (07 R163): the selected elements first, zero after them. -/
def vcompressOp (d a : BitVec 5) (m : BitVec 3) : VOp :=
  { permOp fmtPlain d [a] (fun x _ _ _ => .ok x) with
    mreads := [m.toNat]
    run := .pos (fun s h e r i =>
      let x := getHart s h
      let f := entryFmt e
      let sel := selected x m.toNat (realLen e.cap.shape)
      match (sel.drop i).head? with
      | some k => .ok (putHart s h (x.moveElem f (d.toNat + r) i x (a.toNat + r) k))
      | none => .ok (putHart s h (x.zeroElem f (d.toNat + r) i))) }

/-- vcompress at the front end. -/
def execVcompress (d a : BitVec 5) (s m : BitVec 3) (st : State) : Out :=
  live st (commitVector (.vcompress d a s m) s.toNat 0 (vcompressOp d a m))

end Sys2Proof.Machine
end

