-- ==== Sys2Proof/Machine/VMem.lean ====
section
/-! DEFINITION. Vector memory instructions (05 R96 to R108): unit-stride, strided, gather, windowed gather, segments, reductions into
memory, and spill images. -/

namespace Sys2Proof.Machine

/-- The element format of a memory format code: the element of a block-scaled one. -/
def memElem (m : Nat) : Nat := if 17 ≤ m then bsElem m else m

/-- The place of packed or whole element p from a base (05 Table 05.1, 02 R25): byte address and first bit. -/
def unitPlace (m bofs : Nat) (base : Word) (p : Nat) : Word × Nat :=
  let f := memElem m
  if fmtPacked f then
    let bit := (if f == 16 then 2 * bofs else 0) + fmtWidth f * p
    (base + word (bit / 8), bit % 8)
  else (base + word (p * fmtBytes f), 0)

/-- The index of a position (05 R96): DATA of container i read as signed 32 bits; a poisoned index is consumed. -/
def signedIndex (x : Hart) (b r i : Nat) : Except Trap Int :=
  let c := x.getC (b + r) i
  if cPsn c then .error (poisonReg (b + r)) else .ok (signedOf 32 (cData c))

/-- The allocation of a vector access of a footprint (04 Table 04.5): loads at age 3, stores at age 2, none beyond RESTHR. -/
def vecAlloc (x : Hart) (foot : Nat) (store : Bool) : Alloc :=
  let t := x.csr.resthr.toNat
  if t != 0 && t < foot then .none else .age (if store then 2 else 3)

/-- Footprint of a unit-stride access (04 Table 04.6a): the bytes that it spans, from the one that holds its first bit on. -/
def unitFoot (m : Nat) (c : Capture) (fields : Nat) : Nat :=
  let n := shRows c.shape * shVL c.shape
  let o := if memElem m == 16 then 2 * shBofs c.shape else 0
  (o + n * fmtWidth (memElem m) + 7) / 8 * fields + (if 17 ≤ m then 2 * ((n + shBlk c.shape - 1) / shBlk c.shape) else 0)

/-- Footprint of a strided access. -/
def strideFoot (m : Nat) (c : Capture) : Nat :=
  ((shVL c.shape - 1) * (signedOf 64 c.sb.toNat).natAbs + fmtBytes m) * shRows c.shape

/-- The hart with every index of an instruction in register b, at position i: those that an in-stream has yet to give come with the pops of
the positions after it. -/
def indexAhead (s : State) (h : Nat) (e : VEntry) (b i : Nat) : Hart :=
  let sh := e.cap.shape
  if ((getHart s h).streamAt b).isNone then getHart s h
  else getHart (sweepOver (fun s p => streamPop s h b (shFmt sh) p (realLen sh) e.cap.fpctl false)
    ((List.range (realLen sh)).drop (i + 1)) s).1 h

/-- Footprint of a gather or scatter, at position i of its sweep: from the lowest to the highest active element of the whole instruction. -/
def gatherFoot (s : State) (h : Nat) (e : VEntry) (m b mask i : Nat) : Nat :=
  let c := e.cap
  let x := indexAhead s h e b i
  let idx := (List.range (shRows c.shape)).flatMap (fun r =>
    ((List.range (realLen c.shape)).filter (fun i => x.maskBit mask i)).map (fun i =>
      signedOf 32 (cData (x.getC (b + r) i))))
  match idx with
  | [] => 0
  | k :: ks =>
    let lo := ks.foldl min k
    let hi := ks.foldl max k
    ((hi - lo).toNat + 1) * fmtBytes m

/-- The path of a vector load (04 R73 to R75). -/
def loadPath (gather : Bool) (al : Alloc) : Path := { l1 := true, gather := gather, whole := false, alloc := al }

/-- The bits of the chunk at address lo that w bits at each of some places, a byte address and its first bit, cover. -/
def chunkCover (lo w : Nat) (places : List (Word × Nat)) : BitVec 256 :=
  places.foldl (fun c q =>
    let b := 8 * q.1.toNat + q.2
    let first := max b (8 * lo) - 8 * lo
    let last := min (b + w) (8 * lo + 256) - 8 * lo
    c ||| BitVec.ofNat 256 ((2 ^ (last - first) - 1) * 2 ^ first)) 0

/-- The path of a vector store of n bytes at an address, by an instruction that writes w bits at each of some places: no fill comes before it
where the instruction writes every bit of the chunks that it touches (04 R72). -/
def storePath (al : Alloc) (w : Nat) (places : List (Word × Nat)) (va : Word) (n : Nat) : Path :=
  let whole := fun (a : Nat) => chunkCover (a / 32 * 32) w places == BitVec.allOnes 256
  { l1 := true, gather := false, whole := whole va.toNat && whole (va.toNat + n - 1), alloc := al }

/-- The places that a store writes at its active positions, in sweep order; place gives those of row r and element i. -/
def activePlaces (x : Hart) (e : VEntry) (mk : Nat) (place : Nat → Nat → List (Word × Nat)) : List (Word × Nat) :=
  (List.range (shRows e.cap.shape)).flatMap (fun r =>
    ((List.range (realLen e.cap.shape)).filter (fun i => x.maskBit mk i)).flatMap (place r))

/-- The address of a whole-byte element, checked for alignment (05 R99). -/
def aligned (m : Nat) (va : Word) : Option Trap :=
  if va.toNat % fmtBytes m != 0 then some (alignTrap va) else none

/-- Reads one element as a datum for field k of a position. Where a position has several addresses, here those of an element and of its scale, a
fault reports in TVAL the one that faults: 04 R88 speaks of the position's virtual address (DESIGN CHOICE, log entry 118). -/
def readDatum (s : State) (h m r i k : Nat) (va : Word) (o : Nat) (scale : Option Word) (p : Path) :
    Except Stop (LoadDatum × State) :=
  let f := memElem m
  match (if fmtPacked f then none else aligned f va) with
  | some t => .error { trap := t, state := s }
  | none =>
    match readBits s (agentOf s h) va o (fmtWidth f) p with
    | .error t => .error t
    | .ok (b, psn, s1) =>
      match scale with
      | none => .ok ({ row := r, elem := i, fld := k, bits := b, scale := 0, psn := psn }, s1)
      | some sa =>
        match readBits s1 (agentOf s1 h) sa 0 16 p with
        | .error t => .error t
        | .ok (sc, psn2, s2) => .ok ({ row := r, elem := i, fld := k, bits := b, scale := sc, psn := psn || psn2 }, s2)

/-- Whether a load writes every element of container j of row r: active positions and padding are written (05 R98). -/
def loadFills (x : Hart) (e : VEntry) : Nat → Bool :=
  let sh := e.cap.shape
  fillsPacked (fmtWidth (shFmt sh)) (shVL sh) (fun i => realLen sh ≤ i || x.maskBit (maskField e.instr) i)

/-- A datum written to its register (05 R98, R101): converted, with the poison of its chunk. -/
def landDatum (d : BitVec 5) (m : Nat) (x : Hart) (e : VEntry) (q : LoadDatum) : Hart :=
  let f := entryFmt e
  let (el, fl) := if 17 ≤ m then expandBs m e.cap.fpctl q.bits q.scale else loadConv f m e.cap.fpctl q.bits
  (x.setElemIn f (d.toNat + q.fld * shRows e.cap.shape + q.row) q.elem { el with psn := q.psn } (loadFills x e)).addFlags fl

/-- The fetch of a load at a position (05 R98): padding is written zero, an inactive position fetches nothing. -/
def fetchAt (d : BitVec 5) (fields : Nat) (g : State → Nat → VEntry → Nat → Nat → Except Stop (List LoadDatum × State)) :
    State → Nat → VEntry → Nat → Nat → Except Stop (List LoadDatum × State) :=
  fun s h e r i =>
    let x := getHart s h
    let f := entryFmt e
    if realLen e.cap.shape ≤ i then
      .ok ([], putHart s h ((List.range fields).foldl
        (fun (y : Hart) k => y.setElemIn f (d.toNat + k * shRows e.cap.shape + r) i Elem.zero (loadFills x e)) x))
    else if !x.maskBit (maskField e.instr) i then .ok ([], s)
    else g s h e r i

/-- A load with its capture checks, its index groups and its fetch. -/
def loadOp (d : BitVec 5) (m fields : Nat) (legal : Capture → Bool) (ix : List (BitVec 5))
    (g : State → Nat → VEntry → Nat → Nat → Except Stop (List LoadDatum × State)) : VOp :=
  { legal := fun _ c =>
      shapeOk c.slices c.shape fmtAny && (if 17 ≤ m then shFmt c.shape == 12 else pairOk (shFmt c.shape) m) &&
      groupOk d.toNat (fields * shRows c.shape) && groupsFit ix c &&
      ix.all (fun b => disjointGroups d.toNat (fields * shRows c.shape) b.toNat (shRows c.shape)) && legal c
    reads := fun c => ix.flatMap (fun v => fieldGroup v c)
    writes := fun c => groupRegs d.toNat (fields * shRows c.shape)
    mreads := [], mwrites := [], sweep := fun c => c.shape, conts := capConts
    hwm := fun c => some (if fmtTwo (shFmt c.shape) then 2 * shVL c.shape else shVL c.shape,
      d.toNat + fields * shRows c.shape - 1)
    perm := false, mem := true, fin := finNone
    run := .load (fetchAt d fields g) (landDatum d m) }

/-- The sweep position of row r, element i. -/
def posOf (e : VEntry) (r i : Nat) : Nat := r * shVL e.cap.shape + i

/-- vld (05 Table 05.1, R103): unit stride from sA + 64·b, with a scale array at s(a+1) for block-scaled formats. -/
def vldOp (d : BitVec 5) (b : BitVec 5) (m : Nat) : VOp :=
  loadOp d m 1 (fun _ => true) [] (fun s h e r i =>
    let p := posOf e r i
    let (va, o) := unitPlace m (shBofs e.cap.shape) (e.cap.sa + word (64 * b.toNat)) p
    let al := vecAlloc (getHart s h) (unitFoot m e.cap 1) false
    if 17 ≤ m && e.cap.sa1.toNat % 2 != 0 then .error { trap := alignTrap e.cap.sa1, state := s }
    else
      let sc := if 17 ≤ m then some (e.cap.sa1 + word (2 * (p / shBlk e.cap.shape))) else none
      match readDatum s h m r i 0 va o sc (loadPath false al) with
      | .error t => .error t
      | .ok (q, s1) => .ok ([q], s1))

/-- vld at the front end. -/
def execVld (d a b : BitVec 5) (s m : BitVec 3) (f : BitVec 5) (st : State) : Out :=
  live st (commitVector (.vld d a b s m f) s.toNat 0 (vldOp d b f.toNat))

/-- vlds (05 Table 05.1): sA + p × sB. -/
def vldsOp (d : BitVec 5) (m : Nat) : VOp :=
  loadOp d m 1 (fun _ => wholeByte m) [] (fun s h e r i =>
    let va := e.cap.sa + e.cap.sb * word (posOf e r i)
    match readDatum s h m r i 0 va 0 none (loadPath false (vecAlloc (getHart s h) (strideFoot m e.cap) false)) with
    | .error t => .error t
    | .ok (q, s1) => .ok ([q], s1))

/-- vlds at the front end. -/
def execVlds (d a b : BitVec 5) (s m : BitVec 3) (f : BitVec 5) (st : State) : Out :=
  live st (commitVector (.vlds d a b s m f) s.toNat 0 (vldsOp d f.toNat))

/-- vldx, the gather (05 R104): sA + idx(p) × size. -/
def vldxOp (d b : BitVec 5) (m : Nat) : VOp :=
  loadOp d m 1 (fun _ => wholeByte m) [b] (fun s h e r i =>
    let x := getHart s h
    match signedIndex x b.toNat r i with
    | .error t => .error { trap := t, state := s }
    | .ok k =>
      let va := addInt e.cap.sa (k * (fmtBytes m : Nat))
      let al := vecAlloc x (gatherFoot s h e m b.toNat (maskField e.instr) i) false
      match readDatum s h m r i 0 va 0 none (loadPath true al) with
      | .error t => .error t
      | .ok (q, s1) => .ok ([q], s1))

/-- vldx at the front end. -/
def execVldx (d a b : BitVec 5) (s m : BitVec 3) (f : BitVec 5) (st : State) : Out :=
  live st (commitVector (.vldx d a b s m f) s.toNat 0 (vldxOp d b f.toNat))

/-- The fetch of vldw at a position (05 R107): an index inside the window [W, W + L) is served. W is read as a signed number, which the
manual does not say (DESIGN CHOICE, log entry 92). -/
def vldwFetch (b m : Nat) (s : State) (h : Nat) (e : VEntry) (r i : Nat) : Except Stop (List LoadDatum × State) :=
  let x := getHart s h
  match signedIndex x b r i with
  | .error t => .error { trap := t, state := s }
  | .ok idx =>
    let k := idx - signedOf 64 e.cap.sa1.toNat
    if k < 0 || (shVL e.cap.shape : Int) ≤ k then .ok ([], s)
    else
      let va := addInt e.cap.sa (idx * (fmtBytes m : Nat))
      match readDatum s h m r i 0 va 0 none (loadPath true (vecAlloc x (shVL e.cap.shape * fmtBytes m) false)) with
      | .error t => .error t
      | .ok (q, s1) => .ok ([q], s1)

/-- vldw (05 R107): served positions take their element and leave the mask. -/
def vldwOp (d b : BitVec 5) (mk : BitVec 3) (m : Nat) : VOp :=
  let base := loadOp d m 1 (fun c => wholeByte m && shRows c.shape == 1 && mk != 0) [b] (vldwFetch b.toNat m)
  { base with
    legal := fun x c => base.legal x c && (x.streamAt b.toNat).isNone
    mreads := [mk.toNat], mwrites := [mk.toNat]
    fin := fun x e => x.setM mk.toNat (clearFrom (x.getM mk.toNat) (realLen e.cap.shape))
    run := .load (fetchAt d 1 (vldwFetch b.toNat m))
      (fun x e q => let y := landDatum d m x e q; y.setM mk.toNat (withBit (y.getM mk.toNat) q.elem false)) }

/-- vldw at the front end. -/
def execVldw (d a b : BitVec 5) (s m : BitVec 3) (f : BitVec 5) (st : State) : Out :=
  live st (commitVector (.vldw d a b s m f) s.toNat 0 (vldwOp d b m f.toNat))

/-- The data of every field of a segment position (05 R105). -/
def segData (s : State) (h : Nat) (e : VEntry) (m f r i : Nat) : List Nat → Except Stop (List LoadDatum × State)
  | [] => .ok ([], s)
  | j :: js =>
    let va := e.cap.sa + word ((posOf e r i * f + j) * fmtBytes m)
    match readDatum s h m r i j va 0 none (loadPath false (vecAlloc (getHart s h) (unitFoot m e.cap f) false)) with
    | .error t => .error t
    | .ok (q, s1) =>
      match segData s1 h e m f r i js with
      | .error t => .error t
      | .ok (qs, s2) => .ok (q :: qs, s2)

/-- vldseg (05 R105): field j of row r goes to register d + j × ROWS + r. -/
def vldsegOp (d : BitVec 5) (f m : Nat) : VOp :=
  loadOp d m f (fun _ => wholeByte m && 2 ≤ f && f ≤ 8) [] (fun s h e r i => segData s h e m f r i (List.range f))

/-- vldseg at the front end. -/
def execVldseg (d a b : BitVec 5) (s m : BitVec 3) (f : BitVec 5) (st : State) : Out :=
  live st (commitVector (.vldseg d a b s m f) s.toNat 0 (vldsegOp d b.toNat f.toNat))

/-! Stores. -/

/-- The writes of one element at an address: poison is consumed, the value settled, the address checked (05 R98, R99, R101). -/
def storeDatum (s : State) (h : Nat) (e : VEntry) (m v i : Nat) (va : Word) (o : Nat) (p : Path) :
    Except Stop (List MaskedByte × Flags × State) :=
  let f := entryFmt e
  let el := (getHart s h).elem f v i
  if el.psn then .error { trap := poisonReg v, state := s }
  else
    match (if fmtPacked m then none else aligned m va) with
    | some t => .error { trap := t, state := s }
    | none =>
      let (b, fl) := storeConv f m e.cap.fpctl el
      match writeBits s (agentOf s h) va o (fmtWidth m) b p with
      | .error t => .error t
      | .ok (bs, s1) => .ok (bs, fl, s1)

/-- Performs the writes of a position. -/
def performStores (s : State) (h : Nat) (e : VEntry) (bs : List MaskedByte) (fl : Flags) : State :=
  let s2 := writeAll s (writerOf h e) bs
  putHart s2 h ((getHart s2 h).addFlags fl)

/-- A store with its capture checks, its index groups and the writes of a position. -/
def storeOp (d : BitVec 5) (m mk fields : Nat) (legal : Capture → Bool) (ix : List (BitVec 5))
    (g : State → Nat → VEntry → Nat → Nat → Except Stop (List MaskedByte × Flags × State)) : VOp :=
  { legal := fun _ c =>
      shapeOk c.slices c.shape fmtAny && pairOk (shFmt c.shape) m && groupOk d.toNat (fields * shRows c.shape) &&
      groupsFit ix c && legal c
    reads := fun c => groupRegs d.toNat (fields * shRows c.shape) ++ ix.flatMap (fun v => fieldGroup v c)
    writes := fun _ => []
    mreads := [mk], mwrites := [], sweep := fun c => c.shape, conts := capConts, hwm := fun _ => none
    perm := false, mem := true, fin := finNone
    run := .pos (fun s h e r i =>
      if realLen e.cap.shape ≤ i || !(getHart s h).maskBit mk i then .ok s
      else
        match g s h e r i with
        | .error t => .error t
        | .ok (bs, fl, s1) => .ok (performStores s1 h e bs fl)) }

/-- vst (05 Table 05.1). -/
def vstOp (d b : BitVec 5) (m mk : Nat) : VOp :=
  storeOp d m mk 1 (fun _ => true) [] (fun s h e r i =>
    let x := getHart s h
    let place := fun (r i : Nat) => unitPlace m (shBofs e.cap.shape) (e.cap.sa + word (64 * b.toNat)) (posOf e r i)
    let (va, o) := place r i
    let places := activePlaces x e mk (fun r i => [place r i])
    storeDatum s h e m (d.toNat + r) i va o
      (storePath (vecAlloc x (unitFoot m e.cap 1) true) (fmtWidth m) places va ((o + fmtWidth m + 7) / 8)))

/-- vst at the front end. -/
def execVst (d a b : BitVec 5) (s m : BitVec 3) (f : BitVec 5) (st : State) : Out :=
  live st (commitVector (.vst d a b s m f) s.toNat 0 (vstOp d b f.toNat m.toNat))

/-- vsts (05 Table 05.1). -/
def vstsOp (d : BitVec 5) (m mk : Nat) : VOp :=
  storeOp d m mk 1 (fun _ => wholeByte m) [] (fun s h e r i =>
    let x := getHart s h
    let place := fun (r i : Nat) => e.cap.sa + e.cap.sb * word (posOf e r i)
    let places := activePlaces x e mk (fun r i => [(place r i, 0)])
    storeDatum s h e m (d.toNat + r) i (place r i) 0
      (storePath (vecAlloc x (strideFoot m e.cap) true) (fmtWidth m) places (place r i) (fmtBytes m)))

/-- vsts at the front end. -/
def execVsts (d a b : BitVec 5) (s m : BitVec 3) (f : BitVec 5) (st : State) : Out :=
  live st (commitVector (.vsts d a b s m f) s.toNat 0 (vstsOp d f.toNat m.toNat))

/-- The places of a scatter, at position i of its sweep. -/
def scatterPlaces (s : State) (h : Nat) (e : VEntry) (m b mk i : Nat) : List (Word × Nat) :=
  let x := indexAhead s h e b i
  activePlaces x e mk (fun r i => [(addInt e.cap.sa (signedOf 32 (cData (x.getC (b + r) i)) * (fmtBytes m : Nat)), 0)])

/-- vstx, the scatter (05 R104). -/
def vstxOp (d b : BitVec 5) (m mk : Nat) : VOp :=
  storeOp d m mk 1 (fun _ => wholeByte m) [b] (fun s h e r i =>
    let x := getHart s h
    match signedIndex x b.toNat r i with
    | .error t => .error { trap := t, state := s }
    | .ok k =>
      let va := addInt e.cap.sa (k * (fmtBytes m : Nat))
      storeDatum s h e m (d.toNat + r) i va 0
        (storePath (vecAlloc x (gatherFoot s h e m b.toNat mk i) true) (fmtWidth m) (scatterPlaces s h e m b.toNat mk i) va (fmtBytes m)))

/-- vstx at the front end. -/
def execVstx (d a b : BitVec 5) (s m : BitVec 3) (f : BitVec 5) (st : State) : Out :=
  live st (commitVector (.vstx d a b s m f) s.toNat 0 (vstxOp d b f.toNat m.toNat))

/-- The writes of every field of a segment position, all checked before any is made (04 R88); a fault reports its field's address (DESIGN CHOICE,
log entry 118). -/
def segStores (s : State) (h : Nat) (e : VEntry) (d m f mk r i : Nat) :
    List Nat → Except Stop (List MaskedByte × Flags × State)
  | [] => .ok ([], 0, s)
  | j :: js =>
    let x := getHart s h
    let place := fun (r i j : Nat) => e.cap.sa + word ((posOf e r i * f + j) * fmtBytes m)
    let va := place r i j
    let places := activePlaces x e mk (fun r i => (List.range f).map (fun j => (place r i j, 0)))
    let p := storePath (vecAlloc x (unitFoot m e.cap f) true) (fmtWidth m) places va (fmtBytes m)
    match storeDatum s h e m (d + j * shRows e.cap.shape + r) i va 0 p with
    | .error t => .error t
    | .ok (bs, fl, s1) =>
      match segStores s1 h e d m f mk r i js with
      | .error t => .error t
      | .ok (cs, fl2, s2) => .ok (bs ++ cs, fl ||| fl2, s2)

/-- vstseg (05 R105). -/
def vstsegOp (d : BitVec 5) (f m mk : Nat) : VOp :=
  storeOp d m mk f (fun _ => wholeByte m && 2 ≤ f && f ≤ 8) [] (fun s h e r i =>
    segStores s h e d.toNat m f mk r i (List.range f))

/-- vstseg at the front end. -/
def execVstseg (d a b : BitVec 5) (s m : BitVec 3) (f : BitVec 5) (st : State) : Out :=
  live st (commitVector (.vstseg d a b s m f) s.toNat 0 (vstsegOp d b.toNat f.toNat m.toNat))

/-! Reductions into memory (05 R106). -/

/-- The operation of a vred. -/
inductive RedKind where
  | add | min | max
  deriving DecidableEq, Repr

/-- The new value of a memory element (05 R106). -/
def vredUpdate (k : RedKind) (f : Nat) (fpctl : Word) (old : Nat) (e : Elem) : Nat × Flags :=
  if fmtInt f then
    let a := intOf f old
    let b := intOf f e.bits
    match k with
    | .add => (bitsOfInt f (a + b), 0)
    | .min => (bitsOfInt f (min a b), 0)
    | .max => (bitsOfInt f (max a b), 0)
  else
    let r := rndOf fpctl
    let o := fFP32.value old 0
    let y := fFP32.value e.bits e.tail
    let put := fun (v : FVal) => let w := settle fFP32 r v; (w.code, w.flags)
    match k with
    | .add => let q := fAdd (fpctl.toNat % 8 == 2) o y; let (b, fl) := put q.1; (b, fl ||| q.2)
    | _ =>
      match y with
      | .nan _ p => (old, flagIf (!nanQuiet p) flagNV)
      | _ =>
        match o with
        | .nan _ _ => put y
        | _ =>
          let better : Bool := match k with | .min => fcompare y o == .lt | _ => fcompare y o == .gt
          if better then put y else (old, 0)

/-- The formats of vred: I32, I64, N32, N64 and FP32. -/
def fmtRed (f : Nat) : Bool := f == 2 || f == 3 || f == 6 || f == 7 || f == 12

/-- vred (05 R106): each active position updates memory atomically; the flags reach FPFLAGS at completion. -/
def vredOp (d b : BitVec 5) (m mk : Nat) (k : RedKind) : VOp :=
  { legal := fun _ c =>
      shapeOk c.slices c.shape fmtRed && shFmt c.shape == m && groupsFit [d, b] c
    reads := fun c => [d, b].flatMap (fun v => fieldGroup v c)
    writes := fun _ => []
    mreads := [mk], mwrites := [], sweep := fun c => c.shape, conts := capConts, hwm := fun _ => none
    perm := false, mem := true
    fin := fun x e => x.addFlags (match x.viq with | q :: _ => q.flags | [] => e.flags)
    run := .pos (fun s h e r i =>
      let x := getHart s h
      if realLen e.cap.shape ≤ i || !x.maskBit mk i then .ok s
      else
        let el := x.elem m (d.toNat + r) i
        if el.psn then .error { trap := poisonReg (d.toNat + r), state := s }
        else
          match signedIndex x b.toNat r i with
          | .error t => .error { trap := t, state := s }
          | .ok ix =>
            let va := addInt e.cap.sa (ix * (fmtBytes m : Nat))
            match aligned m va with
            | some t => .error { trap := t, state := s }
            | none =>
              let p := storePath (vecAlloc x (gatherFoot s h e m b.toNat mk i) true) 0 [] 0 0
              match access s (agentOf s h) va (fmtBytes m) (.atomic false) p with
              | .error t => .error t
              | .ok (key, s1) =>
                if isPoisoned s1 key then .error { trap := poisonTrap va, state := s1 }
                else
                  let (v, fl) := vredUpdate k m e.cap.fpctl (memNat s1 key (fmtBytes m)) el
                  let s2 := match pkgOfKey key with | some p => linkSend s1 p 2 (plainRecord s1 (fmtBytes m)) (.atomic x.ctx va) | none => s1
                  .ok (setHead (writeNat s2 0 key v (fmtBytes m)) h (fun q => { q with flags := q.flags ||| fl }))) }

/-- vred.add at the front end. -/
def execVredAdd (d a b : BitVec 5) (s m : BitVec 3) (f : BitVec 5) (st : State) : Out :=
  live st (commitVector (.vredAdd d a b s m f) s.toNat 0 (vredOp d b f.toNat m.toNat .add))

/-- vred.min at the front end. -/
def execVredMin (d a b : BitVec 5) (s m : BitVec 3) (f : BitVec 5) (st : State) : Out :=
  live st (commitVector (.vredMin d a b s m f) s.toNat 0 (vredOp d b f.toNat m.toNat .min))

/-- vred.max at the front end. -/
def execVredMax (d a b : BitVec 5) (s m : BitVec 3) (f : BitVec 5) (st : State) : Out :=
  live st (commitVector (.vredMax d a b s m f) s.toNat 0 (vredOp d b f.toNat m.toNat .max))

/-! Spill images (05 R108). -/

/-- Containers per row that a spill image moves. -/
def spillConts (c : Capture) : Nat := if fmtTwo (shFmt c.shape) then 2 * shVL c.shape else shVL c.shape

/-- Tail bytes of a row. -/
def spillTail (c : Capture) : Nat := 4 * ((spillConts c + 15) / 16)

/-- The address of row r of the image. -/
def spillRow (c : Capture) (r : Nat) : Word := c.sa + word (r * (4 * spillConts c + spillTail c))

/-- The containers of a position. -/
def spillCs (e : VEntry) (i : Nat) : List Nat := if fmtTwo (entryFmt e) then [2 * i, 2 * i + 1] else [i]

/-- The tail bits of the row's last tail bytes beyond its last container, as bytes to zero (05 R108). -/
def spillRest (c : Capture) : List Nat := (List.range (4 * spillTail c)).drop (spillConts c)

/-- Bytes of a spill image. -/
def spillBytes (c : Capture) : Nat := shRows c.shape * (4 * spillConts c + spillTail c)

/-- The path of a write of a spill, which writes the whole of its image. -/
def spillPath (s : State) (h : Nat) (e : VEntry) (va : Word) : Path :=
  storePath (vecAlloc (getHart s h) (spillBytes e.cap) true) (8 * spillBytes e.cap) [(e.cap.sa, 0)] va 1

/-- One container of a spill: its word and its tail bits, with the keys whose chunk becomes poisoned. A fault reports the address of the one that
faults (DESIGN CHOICE, log entry 118). -/
def spillOne (s : State) (h : Nat) (e : VEntry) (v r j : Nat) : Except Stop (List MaskedByte × List Nat × State) :=
  let c := (getHart s h).getC v j
  let base := spillRow e.cap r
  let va := base + word (4 * j)
  match writeBits s (agentOf s h) va 0 32 (cData c) (spillPath s h e va) with
  | .error t => .error t
  | .ok (bs, s1) =>
    let vt := base + word (4 * spillConts e.cap + j / 4)
    match writeBits s1 (agentOf s1 h) vt (2 * (j % 4)) 2 (cTail c) (spillPath s h e vt) with
    | .error t => .error t
    | .ok (cs, s2) => .ok (bs ++ cs, if cPsn c then (bs.map (fun b => b.key)).take 1 else [], s2)

/-- Several containers of a spill. -/
def spillSome (s : State) (h : Nat) (e : VEntry) (v r : Nat) : List Nat → Except Stop (List MaskedByte × List Nat × State)
  | [] => .ok ([], [], s)
  | j :: js =>
    match spillOne s h e v r j with
    | .error t => .error t
    | .ok (bs, ks, s1) =>
      match spillSome s1 h e v r js with
      | .error t => .error t
      | .ok (cs, ls, s2) => .ok (bs ++ cs, ks ++ ls, s2)

/-- The zero tail bits beyond the last container of a row. -/
def spillZeros (s : State) (h : Nat) (e : VEntry) (r : Nat) : List Nat → Except Stop (List MaskedByte × State)
  | [] => .ok ([], s)
  | j :: js =>
    let vt := spillRow e.cap r + word (4 * spillConts e.cap + j / 4)
    match writeBits s (agentOf s h) vt (2 * (j % 4)) 2 0 (spillPath s h e vt) with
    | .error t => .error t
    | .ok (bs, s1) =>
      match spillZeros s1 h e r js with
      | .error t => .error t
      | .ok (cs, s2) => .ok (bs ++ cs, s2)

/-- vspill (05 R108): raw containers and tails; mask and padding do not apply. -/
def vspillOp (d : BitVec 5) : VOp :=
  { legal := fun x c => shapeOk c.slices c.shape fmtAny && groupsFit [d] c && (boundAmong x (fieldGroup d c)).isEmpty
    reads := fieldGroup d
    writes := fun _ => []
    mreads := [], mwrites := [], sweep := fun c => c.shape, conts := spillConts, hwm := fun _ => none
    perm := false, mem := true, fin := finNone
    run := .pos (fun s h e r i =>
      if e.cap.sa.toNat % 4 != 0 then .error { trap := alignTrap e.cap.sa, state := s }
      else
        match spillSome s h e (d.toNat + r) r (spillCs e i) with
        | .error t => .error t
        | .ok (bs, ks, s1) =>
          match spillZeros s1 h e r (if i + 1 == shVL e.cap.shape then spillRest e.cap else []) with
          | .error t => .error t
          | .ok (cs, s2) => .ok (ks.foldl poisonChunk (performStores s2 h e (bs ++ cs) 0))) }

/-- vspill at the front end. -/
def execVspill (d a : BitVec 5) (s : BitVec 3) (st : State) : Out :=
  live st (commitVector (.vspill d a s) s.toNat 0 (vspillOp d))

/-- Bits that a vfill reads from one or more whole bytes, with the poison of their chunk. Though it writes nothing, 10 R235 and 11 R247 list it
among the accesses that a write-protected buffer or region refuses (DEDUCED, log entry 93). -/
def fillBits (s : State) (a : Agent) (va : Word) (o w : Nat) (p : Path) : Except Stop (Nat × Bool × State) :=
  let n := (o + w + 7) / 8
  match access s a va n .load p with
  | .error t => .error t
  | .ok (key, s1) =>
    if (List.range n).any (fun i => inAnyBuffer s1 (key + i) || inAnyRegion s1 (key + i)) then
      .error { trap := { cause := .bufwrite, tval := va, tval2 := 0 }, state := s1 }
    else .ok (memNat s1 key n / 2 ^ o % 2 ^ w, isPoisoned s1 key, s1)

/-- One container of a fill: the raw word, its tail, and the poison of their chunks. -/
def fillOne (s : State) (h : Nat) (e : VEntry) (r i j : Nat) : Except Stop (LoadDatum × State) :=
  let base := spillRow e.cap r
  let p := loadPath false (vecAlloc (getHart s h) (spillBytes e.cap) false)
  match fillBits s (agentOf s h) (base + word (4 * j)) 0 32 p with
  | .error t => .error t
  | .ok (w, p1, s1) =>
    match fillBits s1 (agentOf s1 h) (base + word (4 * spillConts e.cap + j / 4)) (2 * (j % 4)) 2 p with
    | .error t => .error t
    | .ok (t, p2, s2) => .ok ({ row := r, elem := i, fld := j, bits := w + t * 2 ^ 32, scale := 0, psn := p1 || p2 }, s2)

/-- Several containers of a fill. -/
def fillSome (s : State) (h : Nat) (e : VEntry) (r i : Nat) : List Nat → Except Stop (List LoadDatum × State)
  | [] => .ok ([], s)
  | j :: js =>
    match fillOne s h e r i j with
    | .error t => .error t
    | .ok (q, s1) =>
      match fillSome s1 h e r i js with
      | .error t => .error t
      | .ok (qs, s2) => .ok (q :: qs, s2)

/-- vfill (05 R108): containers and tails exactly as read. -/
def vfillOp (d : BitVec 5) : VOp :=
  { legal := fun x c => shapeOk c.slices c.shape fmtAny && groupsFit [d] c && (boundAmong x (fieldGroup d c)).isEmpty
    reads := fun _ => []
    writes := fieldGroup d
    mreads := [], mwrites := [], sweep := fun c => c.shape, conts := spillConts, hwm := hwmGroup d
    perm := false, mem := true, fin := finNone
    run := .load
      (fun s h e r i => if e.cap.sa.toNat % 4 != 0 then .error { trap := alignTrap e.cap.sa, state := s } else fillSome s h e r i (spillCs e i))
      (fun x _ q => x.setC (d.toNat + q.row) q.fld (mkC q.psn (q.bits / 2 ^ 32) q.bits)) }

/-- vfill at the front end. -/
def execVfill (d a : BitVec 5) (s : BitVec 3) (st : State) : Out :=
  live st (commitVector (.vfill d a s) s.toNat 0 (vfillOp d))

end Sys2Proof.Machine
end

