-- ==== Sys2Proof/Machine/Matrix.lean ====
section
/-! DEFINITION. The matrix engine (chapter 09): tile shapes, operands in the scratchpad, accumulation, the commands of the matrix
context with their events, and mplane and mext. -/

namespace Sys2Proof.Machine

/-! Accumulator slots. -/

/-- The place of a slot in the map of a hart. -/
def accKey (tile row col : Nat) : Nat := tile * 16384 + row * 64 + col

/-- A slot; an unlisted one is zero in both modes (09 R198). -/
def Hart.acc74 (x : Hart) (tile row col : Nat) : BitVec 74 := smGet 0 x.acc (accKey tile row col)

/-- The hart with a slot written. -/
def Hart.setAcc (x : Hart) (tile row col : Nat) (v : BitVec 74) : Hart :=
  { x with acc := smPut x.acc (accKey tile row col) v }

/-- Whether a tile is in WF72 mode (09 R198). -/
def Hart.isWf (x : Hart) (tile : Nat) : Bool := x.accWf.get ⟨tile % 2, Nat.mod_lt tile (by decide)⟩

/-- The mark of a mode (09 R197). -/
def markOf (wf : Bool) : BitVec 74 := if wf then BitVec.ofNat 74 (1023 * 2 ^ 61 + 1) else BitVec.ofNat 74 (3 * 2 ^ 72)

/-- Whether a slot read under a mode is marked: any WF72 NaN (02 R24), or the integer mark (log entry 22). -/
def isMark (wf : Bool) (v : BitVec 74) : Bool :=
  if wf then v.toNat / 2 ^ 61 % 1024 == 1023 && v.toNat % 2 ^ 61 != 0 else v == markOf false

/-- The hart with a tile's mode set: marks become the marks of the new mode, and no other slot changes (09 R198). -/
def Hart.setMode (x : Hart) (tile : Nat) (wf : Bool) : Hart :=
  if x.isWf tile == wf then x
  else
    let one := fun (p : Nat × BitVec 74) => if p.1 / 16384 == tile && isMark (!wf) p.2 then (p.1, markOf wf) else p
    { x with acc := x.acc.map one, accWf := x.accWf.set (tile % 2) wf (Nat.mod_lt tile (by decide)) }

/-- The hart with rows lo to hi − 1 of a tile zero. -/
def Hart.zeroRows (x : Hart) (tile lo hi : Nat) : Hart :=
  { x with acc := smClear x.acc (accKey tile lo 0) (accKey tile hi 0) }

/-- HWM.HACC of a tile (06 Table 06.5). -/
def Hart.hacc (x : Hart) (tile : Nat) : Nat := x.csr.hwm.toNat / 2 ^ (16 + 9 * tile) % 512

/-- The hart with HWM.HACC of a tile set. -/
def Hart.setHacc (x : Hart) (tile rows : Nat) : Hart :=
  let old := x.csr.hwm.toNat
  let p := 2 ^ (16 + 9 * tile)
  { x with csr := { x.csr with hwm := word (old - old / p % 512 * p + rows % 512 * p) } }

/-! Tile shapes (09 R188, R189). -/

/-- Planes of a B format; 0 for a code that is no B format (09 Table 09.1). -/
def bPlanes (f : Nat) : Nat :=
  match f with
  | 9 => 2 | 8 => 4 | 0 => 8 | 1 => 16 | 23 => 2 | 20 => 4 | 21 => 8 | 22 => 16 | _ => 0

/-- Whether a B format is block-scaled. -/
def bScaled (f : Nat) : Bool := 20 ≤ f

/-- Whether a B format is T2 or BS.T2. -/
def bT2 (f : Nat) : Bool := f == 9 || f == 23

/-- A tile shape as Table 09.3 holds it. -/
structure Tile where
  m    : Nat
  n    : Nat
  b    : Nat
  a    : Nat
  tr   : Bool
  sp   : Bool
  blk2 : Bool
  deriving DecidableEq, Repr

/-- The tile shape in a shape register. Bits 12:11, which Table 09.3 gives as 0, are read as further bits of AFMT, so a captured shape in
which they are not 0 is refused as one with AFMT 2 or 3 (DESIGN CHOICE, log entry 95). -/
def tileOf (sh : Word) : Tile :=
  let v := sh.toNat
  { m := v / 2 ^ 21 % 1024, n := v % 1024, b := v / 2 ^ 13 % 32, a := v / 2 ^ 10 % 8, tr := bitOf v 19, sp := bitOf v 18,
    blk2 := bitOf v 20 }

/-- A pairing that settile accepts (09 R189). -/
def Tile.pairOk (t : Tile) : Bool :=
  bPlanes t.b != 0 && t.a < 2 && !(t.tr && (!t.sp || bScaled t.b)) && !t.blk2

/-- Bytes of an A element. -/
def Tile.e (t : Tile) : Nat := t.a + 1

/-- Bytes of an A panel (09 R190). -/
def Tile.panelA (t : Tile) : Nat := 32 * t.m * t.e + (if bScaled t.b then 2 * t.m else 0)

/-- Bytes of a dense K-block of B (09 R191). -/
def Tile.panelB (t : Tile) : Nat := 256 * bPlanes t.b + (if bScaled t.b then 128 else 0)

/-- Bytes of a sparse tile (09 R194). -/
def Tile.sparse (t : Tile) : Nat := 64 + 64 * bPlanes t.b + (if bScaled t.b then 64 else 0)

/-- The slices of the executing hart that are not wanted (07 R145). -/
def keptSlices (s : State) (h : Nat) : Nat :=
  ((ownedBy s h).filter (fun j => !((getCore s (coreOf h)).slice j).pend)).length

/-- settile (09 R189): the grant to sD and the tile shape to a shape register, or BADTILE 1. -/
def execSettile (d a : BitVec 5) (n : BitVec 3) (st : State) : Out :=
  live st (fun s =>
    let x := curHart s
    let req := (x.getS a).toNat
    let t : Tile := { m := min (req / 2 ^ 48 % 512) 256, n := min (req / 2 ^ 57) (16 * keptSlices s s.cur),
                      b := req / 2 ^ 20 % 32, a := req / 2 ^ 27 % 4, tr := bitOf req 26, sp := bitOf req 25, blk2 := false }
    if req % 2 ^ 20 != 0 || req / 2 ^ 29 % 8 != 0 || !t.pairOk then trapHere s (badtile (x.getS a) 1)
    else
      let grant := req % 2 ^ 48 + t.m * 2 ^ 48 + t.n * 2 ^ 57
      let image := t.m * 2 ^ 21 + (if t.tr then 2 ^ 19 else 0) + (if t.sp then 2 ^ 18 else 0) + t.b * 2 ^ 13 + t.a * 2 ^ 10 + t.n
      retire s (fun y => (y.setS d (word grant)).setSh n.toNat (word image)))

/-! Operands. -/

/-- A byte of a core's scratchpad, with its offset where it is poisoned. -/
def scrByte (s : State) (core off : Nat) : Nat × Option Nat :=
  let k := scrKey core off
  ((memByte s k).toNat, if isPoisoned s k then some off else none)

/-- n bytes of a core's scratchpad, with the first poisoned offset. -/
def scrNat (s : State) (core off : Nat) : Nat → Nat × Option Nat
  | 0 => (0, none)
  | n + 1 =>
    let (v, p) := scrNat s core off n
    let (b, q) := scrByte s core (off + n)
    (v + b * 256 ^ n, p.or q)

/-- One K-block of a row of A or a column of B: 32 exact integers, the scale, and the first poisoned byte that was read. -/
structure Strip where
  vals  : List Int
  scale : Option FVal
  psn   : Option Nat
  nv    : Bool
  deriving DecidableEq, Repr

/-- Row m of a K-block of A (09 R190). -/
def stripA (s : State) (core offA : Nat) (t : Tile) (kb m : Nat) : Strip :=
  let base := offA + kb * t.panelA
  let es := (List.range 32).map (fun k => scrNat s core (base + k * t.m * t.e + m * t.e) t.e)
  let sc := if bScaled t.b then some (scrNat s core (base + 32 * t.m * t.e + 2 * m) 2) else none
  { vals := es.map (fun p => signedOf (8 * t.e) p.1)
    scale := sc.map (fun p => fBF16.value p.1 0)
    psn := (es.findSome? (fun p => p.2)).or (match sc with | some p => p.2 | none => none)
    nv := false }

/-- The value of a B element from its plane bits (09 R187): T2 code 0b10 is a skip. -/
def planeValue (t2 : Bool) (p bits : Nat) : Int :=
  if t2 then (if bits % 2 == 0 then 0 else if bits / 2 % 2 == 1 then -1 else 1) else signedOf p bits

/-- Column n of a dense K-block of B (09 R191). -/
def stripB (s : State) (core offB : Nat) (t : Tile) (kb n : Nat) : Strip :=
  let base := offB + kb * t.panelB
  let p := bPlanes t.b
  let at1 := fun k => (List.range p).map (fun j => scrByte s core (base + 256 * j + 8 * k + n / 8))
  let es := (List.range 32).map at1
  let sc := if bScaled t.b then some (scrNat s core (base + 256 * p + 2 * n) 2) else none
  let bits := fun (l : List (Nat × Option Nat)) =>
    ((List.zip (List.range p) l).map (fun q => if bitOf q.2.1 (n % 8) then 2 ^ q.1 else 0)).sum
  { vals := es.map (fun l => planeValue (bT2 t.b) p (bits l))
    scale := sc.map (fun p => fBF16.value p.1 0)
    psn := (es.findSome? (fun l => l.findSome? (fun q => q.2))).or (match sc with | some p => p.2 | none => none)
    nv := false }

/-- The columns of a row pair code (09 Table 09.5). -/
def pairCols (c : Nat) : List Nat :=
  match c with
  | 0 => [0, 1] | 1 => [0, 2] | 2 => [0, 3] | 3 => [1, 2] | 4 => [1, 3] | _ => [2, 3]

/-- A tuple of row codes with two positions in every column (09 R193). -/
def patternOk (cs : List Nat) : Bool := [0, 1, 2, 3].all (fun c => (cs.filter (fun r => (pairCols r).contains c)).length == 2)

/-- The 90 patterns in ascending lexicographic order (09 R193). -/
def patterns : List (List Nat) :=
  let codes := [0, 1, 2, 3, 4, 5]
  (codes.flatMap (fun a => codes.flatMap (fun b => codes.flatMap (fun c => codes.map (fun d => [a, b, c, d]))))).filter patternOk

/-- The number of the stored value at a position of a block: row-major among the pattern's positions (09 R194). -/
def valueIndex (pat : List Nat) (r c : Nat) : Option Nat :=
  let cols := pairCols (pat.getD r 0)
  if cols.headD 4 == c then some (2 * r) else if cols.contains c then some (2 * r + 1) else none

/-- Column n of a sparse K-block of B (09 R194), from W as it is stored, or transposed. -/
def stripSparse (s : State) (core offB pitch : Nat) (t : Tile) (kb n : Nat) : Strip :=
  let p := bPlanes t.b
  let base := offB + (if t.tr then n / 32 * pitch + kb else kb * pitch + n / 32) * t.sparse
  let one : Nat → Int × Option Nat × Bool := fun k =>
    let row := if t.tr then n % 32 else k
    let col := if t.tr then k else n % 32
    let blk := row / 4 * 8 + col / 4
    let (ix, psn) := scrByte s core (base + blk)
    let planes := (List.range p).map (fun j => scrByte s core (base + 64 + 64 * j + blk))
    let bad := decide (90 ≤ ix)
    let v : Int := if bad then 0 else
      match valueIndex (patterns.getD ix []) (row % 4) (col % 4) with
      | none => 0
      | some i =>
        planeValue (bT2 t.b) p (((List.zip (List.range p) planes).map (fun q => if bitOf q.2.1 i then 2 ^ q.1 else 0)).sum)
    let bytePsn := planes.findSome? (fun (q : Nat × Option Nat) => q.2)
    (v, psn.or bytePsn, bad)
  let es := (List.range 32).map one
  let sc := if bScaled t.b then some (scrNat s core (base + 64 + 64 * p + 2 * (n % 32)) 2) else none
  { vals := es.map (fun q => q.1)
    scale := sc.map (fun p => fBF16.value p.1 0)
    psn := (es.findSome? (fun q => q.2.1)).or (match sc with | some p => p.2 | none => none)
    nv := es.any (fun q => q.2.2) }

/-! Accumulation (09 R195 to R197). -/

/-- The exact sum of a K-block's contributions. -/
def blockSum (a b : Strip) : Int := ((List.zip a.vals b.vals).map (fun p => p.1 * p.2)).sum

/-- A scale that makes its block invalid (09 R197). -/
def Strip.badScale (t : Strip) : Bool :=
  match t.scale with
  | some (.fin _) => false
  | some _ => true
  | none => false

/-- An integer slot with a block sum added. -/
def accInt (old : BitVec 74) (z : Int) : BitVec 74 × Flags :=
  let (v, fl) := saturate (-(2 ^ 71 : Nat)) ((2 ^ 71 : Nat) - 1) (signedOf 72 old.toNat + z)
  (BitVec.ofNat 74 ((v % (2 ^ 72 : Nat)).toNat), fl)

/-- The slot of a written WF72 value. -/
def slotOf (w : Written) : BitVec 74 := BitVec.ofNat 74 (w.tail * 2 ^ 72 + w.code)

/-- ext of a WF72 slot. -/
def slotValue (v : BitVec 74) : FVal := fWF72.value (v.toNat % 2 ^ 72) (v.toNat / 2 ^ 72)

/-- A WF72 slot with the block p × scaleA × scaleB added: rto of the block, then rto of the sum (09 R196). -/
def accWf (down : Bool) (old : BitVec 74) (z : Int) (sa sb : FVal) : BitVec 74 × Flags :=
  let v := (mulCore (mulCore (.fin (Ex.ofInt z)) sa).1 sb).1
  let w := writeRto fWF72 v
  let r := writeRto fWF72 (fAdd down (slotValue old) (fWF72.value w.code w.tail)).1
  (slotOf r, w.flags ||| r.flags)

/-- One slot through one K-block, with its flags. -/
def accSlot (wf down : Bool) (old : BitVec 74) (a b : Strip) : BitVec 74 × Flags :=
  let invalid := wf && (a.badScale || b.badScale)
  let fl := flagIf invalid flagNV
  if isMark wf old then (old, fl)
  else if invalid || a.psn.isSome || b.psn.isSome then (markOf wf, fl)
  else if wf then
    match a.scale, b.scale with
    | some sa, some sb => accWf down old (blockSum a b) sa sb
    | _, _ => (old, 0)
  else accInt old (blockSum a b)

/-- One K-block of a command on rows 0 to rows − 1, within the 256 rows and 64 columns of a tile (09 R201): the hart, the flags and the first
poisoned scratchpad offset, A rows in ascending order before B columns. Which of several poisoned bytes is reported the manual leaves open
(DESIGN CHOICE, log entry 96). -/
def kstep (s : State) (core : Nat) (x : Hart) (c : MtxCmd) (tile rows kb : Nat) : Hart × Flags × Option Nat :=
  let t := tileOf c.shape
  let offA := c.sa.toNat % 2 ^ 20
  let offB := c.sb.toNat % 2 ^ 20
  let pitch := c.sb.toNat / 2 ^ 20 % 256
  let wf := bScaled t.b
  let down := rndOf c.fpctl == .down
  let as := (List.range (min rows 256)).map (fun m => (m, stripA s core offA t kb m))
  let bs := (List.range (min t.n 64)).map (fun n =>
    (n, if t.sp then stripSparse s core offB pitch t kb n else stripB s core offB t kb n))
  let slot := fun (y : Hart × Flags) (p : (Nat × Strip) × (Nat × Strip)) =>
    let (v, fl) := accSlot wf down (y.1.acc74 tile p.1.1 p.2.1) p.1.2 p.2.2
    (y.1.setAcc tile p.1.1 p.2.1 v, y.2 ||| fl)
  let all := as.flatMap (fun a => bs.map (fun b => (a, b)))
  let (y, fl) := all.foldl slot (x, 0)
  let nv := flagIf (rows != 0 && bs.any (fun b => b.2.nv)) flagNV
  (y, fl ||| nv, (as.findSome? (fun a => a.2.psn)).or (bs.findSome? (fun b => b.2.psn)))

/-! Commands. -/

/-- The tile of a matrix instruction. -/
def tileField (i : Instr) : Nat :=
  match i with
  | .mzero _ t => t.toNat
  | .mmac _ _ _ _ t => t.toNat
  | .mmaci _ _ _ _ t => t.toNat
  | .mspill _ _ t => t.toNat
  | .mfill _ _ t => t.toNat
  | _ => 0

/-- Whether a command multiplies. -/
def isMac (i : Instr) : Bool :=
  match i with
  | .mmac .. => true
  | .mmaci .. => true
  | _ => false

/-- Whether a command's row count comes from a record. -/
def isMaci (i : Instr) : Bool :=
  match i with
  | .mmaci .. => true
  | _ => false

/-- Whether the command is mspill. -/
def isMspill (i : Instr) : Bool :=
  match i with
  | .mspill .. => true
  | _ => false

/-- Whether the command is mfill. -/
def isMfill (i : Instr) : Bool :=
  match i with
  | .mfill .. => true
  | _ => false

/-- KBLK of the A word. -/
def MtxCmd.kblk (c : MtxCmd) : Nat := c.sa.toNat / 2 ^ 32 % 65536

/-- The byte range of A (09 R190, R192): lowest and one past the highest byte read, or none where it is empty. -/
def rangeA (t : Tile) (offA kblk : Nat) : Option (Nat × Nat) :=
  if t.m = 0 || kblk = 0 then none else some (offA, offA + kblk * t.panelA)

/-- The byte range of B (09 R191, R194, R192). -/
def rangeB (t : Tile) (offB pitch kblk : Nat) : Option (Nat × Nat) :=
  if t.n = 0 || kblk = 0 then none
  else if t.sp then
    let tn := (t.n - 1) / 32
    let last := (if t.tr then tn * pitch + (kblk - 1) else (kblk - 1) * pitch + tn) * t.sparse
    let c := (t.n - 1) % 32
    let hi := if bScaled t.b then 64 + 64 * bPlanes t.b + 2 * c + 2
      else 64 + 64 * (bPlanes t.b - 1) + (if t.tr then c / 4 * 8 + 8 else 56 + c / 4 + 1)
    some (offB, offB + last + hi)
  else
    let hi := if bScaled t.b then 256 * bPlanes t.b + 2 * t.n else 256 * (bPlanes t.b - 1) + 248 + (t.n - 1) / 8 + 1
    some (offB, offB + (kblk - 1) * t.panelB + hi)

/-- An operand range or, where it is empty, the offset alone lies in the scratchpad (09 R192). -/
def rangeFits (size off : Nat) (r : Option (Nat × Nat)) : Bool :=
  match r with
  | some p => p.2 ≤ size
  | none => off < size

/-- The checks of a multiply command at issue (09 Table 09.4), in ascending order of their codes, before the alignment and the page of a
record or an image: R192 does not say which code is reported where several conditions hold. So mext gives 6 before 2, and mplane 2 before 7
(DESIGN CHOICE, log entry 114). -/
def macCheck (s : State) (h : Nat) (shape sa sb : Word) : Option Trap :=
  let t := tileOf shape
  let kblk := sa.toNat / 2 ^ 32 % 65536
  let offA := sa.toNat % 2 ^ 20
  let offB := sb.toNat % 2 ^ 20
  let size := scratchBytes s (coreOf h)
  if !t.pairOk || 256 < t.m then some (badtile shape 1)
  else if 16 * slicesOf s h < t.n then some (badtile shape 2)
  else if offA % t.e != 0 || !rangeFits size offA (rangeA t offA kblk) then some (badtile sa 3)
  else if offB % 8 != 0 || !rangeFits size offB (rangeB t offB (sb.toNat / 2 ^ 20 % 256) kblk) then some (badtile sb 4)
  else none

/-- A command as it stands when it is queued. -/
def newCmd (x : Hart) (i : Instr) (sa sb srec shape : Word) : MtxCmd :=
  { num := x.eng.mtx.issued + 1, instr := i, sa := sa, sb := sb, srec := srec, recKey := 0, shape := shape,
    fpctl := x.csr.fpctl, kdone := 0, mrec := none, flags := 0, poison := none, started := false, nrows := 0, ncols := 0,
    pages := [], order := x.eng.stamp }

/-- Queues a matrix command: its number goes to d (09 R199). -/
def queueMtx (s : State) (d : BitVec 5) (c : MtxCmd) : State :=
  retire s (fun x =>
    let y := x.setS d c.num
    { y with eng := { x.eng with mtx := x.eng.mtx.issue, mtxQ := x.eng.mtxQ ++ [c], stamp := x.eng.stamp + 1 } })

/-- A matrix context holds 16 commands that have not completed; the next one stalls (15 R328). -/
def mtxFull (x : Hart) : Bool := 16 ≤ x.eng.mtxQ.length

/-- mzero (09 R200). -/
def execMzero (d : BitVec 5) (t : BitVec 1) (st : State) : Out :=
  live st (fun s =>
    let x := curHart s
    if mtxFull x then s else orderedIssue (fun s => queueMtx s d (newCmd x (.mzero d t) 0 0 0 0)) s)

/-- mmac (09 R201). A shape register with a reserved format code raises ILLEGAL (02 R18). -/
def execMmac (d a b : BitVec 5) (n : BitVec 3) (t : BitVec 1) (st : State) : Out :=
  live st (fun s =>
    let x := curHart s
    let shape := x.getSh n.toNat
    if 24 ≤ shFmt shape then illegal s (.mmac d a b n t)
    else if mtxFull x then s
    else
      match macCheck s s.cur shape (x.getS a) (x.getS b) with
      | some tr => trapHere s tr
      | none => orderedIssue (fun s => queueMtx s d (newCmd x (.mmac d a b n t) (x.getS a) (x.getS b) 0 shape)) s)

/-- mmaci (09 R202): as mmac, with the record's address in s(b+1), which is translated now. -/
def execMmaci (d a b : BitVec 5) (n : BitVec 3) (t : BitVec 1) (st : State) : Out :=
  live st (fun s =>
    let x := curHart s
    let shape := x.getSh n.toNat
    let va := x.getS (b + 1)
    if b = 31 || 24 ≤ shFmt shape then illegal s (.mmaci d a b n t)
    else if mtxFull x then s
    else
      match macCheck s s.cur shape (x.getS a) (x.getS b) with
      | some tr => trapHere s tr
      | none =>
        if va.toNat % 4 != 0 then trapHere s (alignTrap va)
        else
          orderedIssue (fun s =>
            match access s (agentOf s s.cur) va 4 .load .front with
            | .error e => trapHere e.state e.trap
            | .ok (key, s1) =>
              queueMtx s1 d { newCmd x (.mmaci d a b n t) (x.getS a) (x.getS b) va shape with recKey := key }) s)

/-- Bytes of a tile image (09 R203). -/
def imageBytes (nrow ncol : Nat) : Nat := 16 + 10 * nrow * ncol

/-- The most rows that an mspill can find (09 R204): HWM.HACC now, the M of older queued multiplies on the tile, and the NROW of older
queued mfills. -/
def spillRows (x : Hart) (tile : Nat) : Nat :=
  (x.eng.mtxQ.filter (fun c => tileField c.instr == tile)).foldl
    (fun n c => if isMac c.instr then max n (tileOf c.shape).m else if isMfill c.instr then max n c.nrows else n) (x.hacc tile)

/-- mspill (09 R204). -/
def execMspill (d a : BitVec 5) (t : BitVec 1) (st : State) : Out :=
  live st (fun s =>
    let x := curHart s
    let va := x.getS a
    let ncol := 16 * slicesOf s s.cur
    let n := imageBytes (spillRows x t.toNat) ncol
    if mtxFull x then s
    else if va.toNat % 16 != 0 then trapHere s (alignTrap va)
    else
      orderedIssue (fun s =>
        match translatePages s (agentOf s s.cur) va n .store (pageList va.toNat n) with
        | .error e => trapHere e.state e.trap
        | .ok (pages, s1) => queueMtx s1 d { newCmd x (.mspill d a t) va 0 0 0 with ncols := ncol, pages := pages }) s)

/-- A tile image header that mfill accepts (09 R204). -/
def imageHeaderOk (w0 w1 cols : Nat) : Bool :=
  w0 % 256 ≤ 1 && w0 / 256 % 256 == 0 && w0 / 2 ^ 16 % 65536 ≤ 256 && w0 / 2 ^ 32 % 256 ≤ cols && w0 / 2 ^ 40 == 0 && w1 == 0

/-- mfill (09 R204): the header is read and checked now. srec keeps the header's MODE. -/
def execMfill (d a : BitVec 5) (t : BitVec 1) (st : State) : Out :=
  live st (fun s =>
    let x := curHart s
    let va := x.getS a
    if mtxFull x then s
    else if va.toNat % 16 != 0 then trapHere s (alignTrap va)
    else
      orderedIssue (fun s =>
        match readWords s (agentOf s s.cur) va va 2 with
        | .error e => trapHere e.state e.trap
        | .ok (ws, s1) =>
          let w0 := ws.headD 0
          let nrow := w0 / 2 ^ 16 % 65536
          let ncol := w0 / 2 ^ 32 % 256
          if !imageHeaderOk w0 (ws.getD 1 0) (16 * slicesOf s s.cur) then trapHere s1 (badtile va 5)
          else
            let n := imageBytes nrow ncol
            match translatePages s1 (agentOf s1 s.cur) va n .load (pageList va.toNat n) with
            | .error e => trapHere e.state e.trap
            | .ok (pages, s2) =>
              queueMtx s2 d { newCmd x (.mfill d a t) va 0 (word (w0 % 256)) 0 with
                nrows := nrow, ncols := ncol, pages := pages }) s)

/-! Order (09 R199, 05 R124). -/

/-- Whether an instruction is mplane or mext. -/
def isTileVec (i : Instr) : Bool :=
  match i with
  | .mplane .. => true
  | .mext .. => true
  | _ => false

/-- Whether an instruction is mext. -/
def isMext (i : Instr) : Bool :=
  match i with
  | .mext .. => true
  | _ => false

/-- Every mplane and mext before a command has completed. -/
def vecDone (x : Hart) (c : MtxCmd) : Bool :=
  (x.viq ++ x.held).all (fun e => !(isTileVec e.instr && e.cmds ≤ c.order))

/-- The scratchpad ranges of a matrix command (05 R124). -/
def mtxRanges (core : Nat) (c : MtxCmd) : List ScrRange :=
  let t := tileOf c.shape
  let span := fun (r : Option (Nat × Nat)) =>
    match r with
    | some p => [({ core := core, lo := p.1, hi := p.2 - 1, write := false } : ScrRange)]
    | none => []
  if isMac c.instr then
    span (rangeA t (c.sa.toNat % 2 ^ 20) c.kblk) ++
      span (rangeB t (c.sb.toNat % 2 ^ 20) (c.sb.toNat / 2 ^ 20 % 256) c.kblk) ++
      (if isMaci c.instr && c.recKey / 2 ^ 20 == scrKey core 0 / 2 ^ 20 then
        span (some (c.recKey % 2 ^ 20, c.recKey % 2 ^ 20 + 4)) else [])
  else
    let n := imageBytes (if isMspill c.instr && !c.started then 256 else c.nrows) c.ncols
    joinRanges core (isMspill c.instr)
      (pagesScr core c.pages c.sa.toNat (c.sa.toNat + n - 1) (isMspill c.instr))

/-- The head of a matrix queue may start, or has. -/
def mtxReady (s : State) (h : Nat) (c : MtxCmd) : Bool :=
  c.started ||
    (let x := getHart s h
     vecDone x c &&
       x.eng.copyQ.all (fun k => c.order ≤ k.order || !rangesClash (mtxRanges (coreOf h) c) (copyRanges s k)))

/-- The rows that a multiply computes, once its record has been read (09 R202). A shape that was issued names at most 256; one of an image
written by software may name more than a tile has, and no rule says what then runs: the model takes 256 (DESIGN CHOICE, log entry 113). -/
def MtxCmd.rows (c : MtxCmd) : Nat :=
  let m := min (tileOf c.shape).m 256
  match c.mrec with
  | some r => min r m
  | none => m

/-- Whether a multiply still waits for its record. -/
def MtxCmd.polls (c : MtxCmd) : Bool := isMaci c.instr && c.mrec.isNone && c.poison.isNone

/-- A multiply without effect: no rows, no columns, no K-blocks, or a poisoned record (09 R201, R202). -/
def MtxCmd.noop (c : MtxCmd) : Bool :=
  c.rows == 0 || (tileOf c.shape).n == 0 || c.kblk == 0 || (isMaci c.instr && c.mrec.isNone && c.poison.isSome)

/-- Whether a command has nothing left to do. -/
def MtxCmd.finished (c : MtxCmd) : Bool :=
  if isMac c.instr then !c.polls && (c.noop || (c.started && c.kblk ≤ c.kdone)) else c.started && c.nrows ≤ c.kdone

/-- The state with the head of a hart's matrix queue replaced. -/
def setMtxHead (s : State) (h : Nat) (c : MtxCmd) : State :=
  let x := getHart s h
  putHart s h { x with eng := { x.eng with mtxQ := c :: x.eng.mtxQ.drop 1 } }

/-- The next K-step of the command at the head, with its start before the first (09 R201, R209); the array's turn passes on (01 R16). -/
def matrixKstep (s : State) (h : Nat) : State :=
  let x := getHart s h
  match x.eng.mtxQ with
  | [] => s
  | c :: _ =>
    if !isMac c.instr || c.polls || c.finished || !mtxReady s h c then s
    else
      let tile := tileField c.instr
      let x1 := if c.started then x
        else
          let y := x.setMode tile (bScaled (tileOf c.shape).b)
          { y with csr := { y.csr with hwm := raiseHacc y.csr.hwm tile c.rows } }
      let (y, fl, psn) := kstep s (coreOf h) x1 c tile c.rows c.kdone
      let bad := psn.map (fun o => word (0x10000000000 + o))
      setMtxHead (putHart (served s (arrayUnit (coreOf h)) h) h y) h
        { c with started := true, kdone := c.kdone + 1, flags := setFlags c.flags fl, poison := c.poison.or bad }

/-- MATRIX_KSTEP (09 R210). -/
def execMatrixKstep (h : Nat) (st : State) : Out := live st (fun s => matrixKstep s h)

/-- The 10 bytes of a slot in an image (09 R203). -/
def slotImage (v : BitVec 74) : Nat := v.toNat % 2 ^ 72 + v.toNat / 2 ^ 72 * 2 ^ 72

/-- Row r of an image written by mspill. -/
def imageRowOut (s : State) (h : Nat) (c : MtxCmd) (r : Nat) : State :=
  let x := getHart s h
  (List.range c.ncols).foldl (fun s k =>
    keptWrite s (coreOf h) c.pages (2 ^ 60 + c.order) (c.sa + word (16 + 10 * (r * c.ncols + k)))
      (slotImage (x.acc74 (tileField c.instr) r k)) 10) s

/-- A slot read from an image under a mode: a nonzero tail of an integer slot loads as the mark, and so does a slot whose bytes lie in a
poisoned chunk (09 R197, R204). -/
def slotLoaded (wf psn : Bool) (v : Nat) : BitVec 74 :=
  if psn || (!wf && v / 2 ^ 72 % 4 != 0) then markOf wf else BitVec.ofNat 74 (v % 2 ^ 74)

/-- Row r of an image loaded by mfill, with the address of the first poisoned byte. -/
def imageRowIn (s : State) (h : Nat) (c : MtxCmd) (r : Nat) : State × Option Word :=
  let wf := c.srec == 1
  (List.range c.ncols).foldl (fun (p : State × Option Word) k =>
    let va := c.sa + word (16 + 10 * (r * c.ncols + k))
    let (v, psn) := keptNat p.1 (coreOf h) c.pages va 10
    let bad := if psn then
        ((List.range 10).find? (fun i => (keptByte p.1 (coreOf h) c.pages (va + word i)).2)).map (fun i => va + word i)
      else none
    (putHart p.1 h ((getHart p.1 h).setAcc (tileField c.instr) r k (slotLoaded wf psn v)), p.2.or bad))
    (keptFetch s (coreOf h) c.pages (c.sa + word (16 + 10 * (r * c.ncols))) (10 * c.ncols), none)

/-- The start of mzero, mspill or mfill. mzero: integer mode, the mark lowered, and the rows above it zero. mspill: NROW is taken and the
header written. mfill: the mode set, the tile zeroed and the mark set. HWM.HACC has 9 bits and software may write more than the 256 rows of
a tile into it: NROW, and the rows that mzero clears one by one, are then 256 (DESIGN CHOICE, log entry 113). -/
def startRowOp (s : State) (h : Nat) (c : MtxCmd) : State :=
  let x := getHart s h
  let tile := tileField c.instr
  if isMspill c.instr then
    let n := min (x.hacc tile) 256
    let hd := (if x.isWf tile then 1 else 0) + n * 2 ^ 16 + c.ncols * 2 ^ 32
    let s1 := keptWrite s (coreOf h) c.pages (2 ^ 60 + c.order) c.sa hd 16
    setMtxHead s1 h { c with started := true, nrows := n }
  else if isMfill c.instr then
    let y := (x.setMode tile (c.srec == 1)).zeroRows tile 0 256
    setMtxHead (putHart s h (y.setHacc tile c.nrows)) h { c with started := true }
  else
    let n := min (x.hacc tile) 256
    let y := (x.setMode tile false).zeroRows tile n 256
    setMtxHead (putHart s h (y.setHacc tile 0)) h { c with started := true, nrows := n }

/-- The start or the next row of the command at the head (09 R186, R209). -/
def matrixRowOp (s : State) (h : Nat) : State :=
  let x := getHart s h
  match x.eng.mtxQ with
  | [] => s
  | c :: _ =>
    if isMac c.instr || c.finished || !mtxReady s h c then s
    else if !c.started then startRowOp s h c
    else if isMspill c.instr then setMtxHead (imageRowOut s h c c.kdone) h { c with kdone := c.kdone + 1 }
    else if isMfill c.instr then
      let (s1, bad) := imageRowIn s h c c.kdone
      setMtxHead s1 h { c with kdone := c.kdone + 1, poison := c.poison.or bad }
    else
      setMtxHead (putHart s h (x.zeroRows (tileField c.instr) c.kdone (c.kdone + 1))) h { c with kdone := c.kdone + 1 }

/-- MATRIX_ROW_OP (09 R209). -/
def execMatrixRowOp (h : Nat) (st : State) : Out := live st (fun s => matrixRowOp s h)

/-- Completion of the command at the head (09 R199): its flags and its poison report wait for twait. -/
def matrixComplete (s : State) (h : Nat) : State :=
  let x := getHart s h
  match x.eng.mtxQ with
  | [] => s
  | c :: q =>
    if !c.finished || !mtxReady s h c then s
    else
      let report := c.poison.map poisonTrap
      putHart s h { x with eng := { x.eng with mtx := x.eng.mtx.complete c.flags report, mtxQ := q } }

/-- MATRIX_COMPLETE (09 R199). -/
def execMatrixComplete (h : Nat) (st : State) : Out := live st (fun s => matrixComplete s h)

/-- A read of the shape record by the mmaci at the head (09 R202): with V = 1 its M limits the rows, cut to the shape's M with SAT; a
poisoned record makes the command a no-op with a report. -/
def recordPoll (s : State) (h : Nat) : State :=
  let x := getHart s h
  match x.eng.mtxQ with
  | [] => s
  | c :: _ =>
    if !c.polls || !mtxReady s h c then s
    else if isPoisoned s c.recKey then setMtxHead s h { c with poison := some c.srec }
    else
      let r := memNat s c.recKey 4
      let m := (tileOf c.shape).m
      if bitOf r 31 then
        setMtxHead s h { c with mrec := some (min (r % 512) m), flags := setFlags c.flags (flagIf (m < r % 512) flagSAT) }
      else s

/-- MMACI_RECORD_POLL (09 R202). -/
def execMmaciRecordPoll (h : Nat) (st : State) : Out := live st (fun s => recordPoll s h)

/-! mext (09 R207). -/

/-- An accumulator slot extracted under a register format (09 R207). A slot may hold a WF72 infinity, from an mfill image or by a change of
mode, though R197 lets none pass through the engine: it is extracted as the infinity that 02 R24 reads there (DESIGN CHOICE, log entry 115). -/
def extractSlot (wf : Bool) (f : Nat) (fpctl : Word) (v : BitVec 74) : Elem × Flags :=
  if isMark wf v then
    if fmtFloat f then writeElem f fpctl (.fp matrixNan) else (Elem.zero, flagNV)
  else writeElem f fpctl (if wf then .fp (slotValue v) else .int (signedOf 72 v.toNat))

/-- mext as the VIQ sees it. Before it starts, every older matrix command of the hart has completed (09 R199). -/
def mextOp (d : BitVec 5) (t : BitVec 5) (mk : BitVec 3) : VOp :=
  { legal := fun _ c => shapeOk c.slices c.shape (fun f => f < 8 || fmtFloat f) && groupOk d.toNat (shRows c.shape) && t.toNat < 2
    reads := fun _ => []
    writes := fieldGroup d
    mreads := [mk.toNat], mwrites := [], sweep := fun c => c.shape, conts := capConts, hwm := hwmGroup d
    perm := false, mem := false, fin := finNone
    run := .pos (atActive d entryFmt (fun x e r i =>
      let row := e.cap.sa.toNat + r
      let (el, fl) := extractSlot (x.isWf t.toNat) (entryFmt e) e.cap.fpctl (x.acc74 t.toNat row i)
      .ok ((x.setElem (entryFmt e) (d.toNat + r) i el).addFlags fl)))
    pre := fun _ _ e =>
      if 255 < e.cap.sa.toNat + shRows e.cap.shape - 1 then some (badtile e.cap.sa 6)
      else if 16 * e.cap.slices < shVL e.cap.shape then some (badtile e.cap.shape 2)
      else none
    ready := fun s h e => (getHart s h).eng.mtxQ.all (fun c => e.cmds ≤ c.order) }

/-- mext at the front end. -/
def execMext (d a t : BitVec 5) (n m : BitVec 3) (st : State) : Out :=
  live st (commitVector (.mext d a t n m) n.toNat 0 (mextOp d t m))

/-! mplane (09 R205, R206). -/

/-- A target word of mplane (09 Table 09.7). -/
structure PlaneTarget where
  pitch : Nat
  kblk0 : Nat
  first : Nat
  layA  : Bool
  fmt   : Nat
  off   : Nat
  deriving DecidableEq, Repr

/-- The target of a word. -/
def targetOf (w : Word) : PlaneTarget :=
  let v := w.toNat
  { pitch := v / 2 ^ 50 % 512, kblk0 := v / 2 ^ 34 % 65536, first := v / 2 ^ 26 % 256, layA := bitOf v 25,
    fmt := v / 2 ^ 20 % 32, off := v % 2 ^ 20 }

/-- Bytes of an A element of a target format. -/
def targetE (f : Nat) : Nat := if f == 1 || f == 22 then 2 else 1

/-- Offset of the K-block that holds k (09 R190, R191). -/
def targetBlock (t : PlaneTarget) (k : Nat) : Nat :=
  let size := if t.layA then 32 * t.pitch * targetE t.fmt + (if bScaled t.fmt then 2 * t.pitch else 0)
    else 256 * bPlanes t.fmt + (if bScaled t.fmt then 128 else 0)
  t.off + k / 32 * size

/-- One past the highest byte that an mplane of VL elements and rows up to j writes (09 R205). -/
def targetEnd (t : PlaneTarget) (vl j : Nat) : Nat :=
  if vl = 0 then t.off
  else
    let k := 32 * t.kblk0 + vl - 1
    let b := targetBlock t k
    if t.layA then
      if bScaled t.fmt then b + 32 * t.pitch * targetE t.fmt + 2 * j + 2
      else b + k % 32 * t.pitch * targetE t.fmt + (j + 1) * targetE t.fmt
    else if bScaled t.fmt then b + 256 * bPlanes t.fmt + 2 * j + 2
    else b + 256 * (bPlanes t.fmt - 1) + 8 * (k % 32) + j / 8 + 1

/-- The checks of the target word (09 R205). -/
def targetOk (size : Nat) (w : Word) (rows vl : Nat) : Bool :=
  let t := targetOf w
  let j := t.first + rows - 1
  w.toNat / 2 ^ 59 == 0 &&
  (if t.layA then [0, 1, 21, 22].contains t.fmt && 1 ≤ t.pitch && t.pitch ≤ 256 && j < t.pitch && t.off % targetE t.fmt == 0
   else bPlanes t.fmt != 0 && j < 64 && t.off % 8 == 0) &&
  t.off < size && targetEnd t vl j ≤ size

/-- The writes that put one element's code into its A element or B planes, with its bits merged (05 R100). -/
def targetBits (core : Nat) (t : PlaneTarget) (k j code : Nat) : List MaskedByte :=
  let b := targetBlock t k
  if t.layA then bytesAt (scrKey core (b + k % 32 * t.pitch * targetE t.fmt + j * targetE t.fmt)) code (targetE t.fmt)
  else (List.range (bPlanes t.fmt)).map (fun q =>
    maskedBits (scrKey core (b + 256 * q + 8 * (k % 32) + j / 8)) (j % 8) 1 (code / 2 ^ q))

/-- Where the scale of a K-block lies for row or column j. -/
def targetScale (core : Nat) (t : PlaneTarget) (k j v : Nat) : List MaskedByte :=
  let b := targetBlock t k
  bytesAt (scrKey core (b + (if t.layA then 32 * t.pitch * targetE t.fmt else 256 * bPlanes t.fmt) + 2 * j)) v 2

/-- The element format of a target: that of a block-scaled code, or the code. -/
def targetElem (f : Nat) : Nat := memElem f

/-- The largest mantissa Q of a block (09 R206). -/
def quantMax (f : Nat) : Nat := if bT2 f then 1 else 2 ^ (bPlanes f - 1) - 1

/-- The magnitude of a finite value. -/
def Ex.abs (x : Ex) : Ex := { x with neg := false }

/-- The largest magnitude of some finite values. -/
def maxMag : List Ex → Ex
  | [] => Ex.zero false
  | x :: xs => let m := maxMag xs; if Ex.cmp m x.abs < 0 then x.abs else m

/-- Mantissas and scale of one block (09 R206): the scale code, the mantissa of each element, none where the element is inactive or
padding, and the flags. A block with a NaN or an infinity sets NV alone: the pseudocode's last line, on NX, names a scale that such a
block does not have (DESIGN CHOICE, log entry 97). The rounding of the scale itself raises nothing but OF at the clamp: the pseudocode names
no UF and no NX for it (DESIGN CHOICE, log entry 111). -/
def quantise (q : Nat) (r : Rnd) (xs : List (Option FVal)) : Nat × List Int × Flags :=
  let vs := xs.filterMap (fun o => o)
  let bad := vs.any (fun v => match v with | .fin _ => false | _ => true)
  let exs := vs.filterMap (fun v => match v with | .fin x => some x | _ => none)
  if bad then (0x7FE0, xs.map (fun _ => 0), flagNV)
  else
    let m := maxMag exs
    if m.isZero then (0, xs.map (fun _ => 0), 0)
    else
      let w := roundEx fBF16 .up (m.div (Ex.ofInt q))
      let clamp := w.code == fBF16.infCode false
      let code := if clamp then fBF16.maxCode false else w.code
      let sc := match fBF16.value code 0 with | .fin x => x | _ => Ex.ofInt 1
      let one := fun (o : Option FVal) =>
        match o with
        | some (.fin x) =>
          let (z, _) := roundInt r (x.div sc)
          let (y, fl) := saturate (-(q : Int)) q z
          let back := (Ex.ofInt y).mul sc
          (y, fl ||| flagIf (Ex.cmp back x != 0) flagNX)
        | _ => ((0 : Int), (0 : Flags))
      let ys := xs.map one
      (code, ys.map (fun p => p.1), ys.foldl (fun f p => f ||| p.2) (flagIf clamp flagOF))

/-- The block of 32 elements that ends at position i of row r, written whole (09 R206). -/
def planeBlock (s : State) (h : Nat) (e : VEntry) (d mk : Nat) (r i : Nat) : State :=
  let t := targetOf e.cap.sa
  let x := getHart s h
  let lo := i / 32 * 32
  let j := t.first + r
  let active := fun k => k < realLen e.cap.shape && x.maskBit mk k
  let xs := (List.range 32).map (fun u =>
    let k := lo + u
    if active k then
      let el := x.elem (entryFmt e) (d + r) k
      some ((fpOf (entryFmt e)).value el.bits el.tail)
    else none)
  let (code, ms, fl) := quantise (quantMax t.fmt) (rndOf e.cap.fpctl) xs
  let k0 := 32 * t.kblk0 + lo
  let el := targetElem t.fmt
  let codeOf := fun (z : Int) => if el == 9 then t2Code z else bitsOfInt el z
  let bits := (List.zip (List.range 32) ms).flatMap (fun p => targetBits (coreOf h) t (k0 + p.1) j (codeOf p.2))
  performStores s h e (bits ++ targetScale (coreOf h) t k0 j code) fl

/-- mplane as the VIQ sees it. A poisoned element of a block-scaled run raises POISON at its position and leaves the whole run unwritten: 07
R150 has the positions before it complete, and R206 writes a run as one (DESIGN CHOICE, log entry 112). -/
def mplaneOp (d : BitVec 5) (mk : BitVec 3) : VOp :=
  { legal := fun _ c =>
      let t := targetOf c.sa
      let scaled := (if t.layA then [21, 22] else [20, 21, 22, 23]).contains t.fmt
      shapeOk c.slices c.shape (fun f => f < 8 || fmtFloat f) && groupOk d.toNat (shRows c.shape) &&
        (!scaled || (fmtFloat (shFmt c.shape) && shBlkCode c.shape == 1))
    reads := fieldGroup d
    writes := fun _ => []
    mreads := [mk.toNat], mwrites := [], sweep := fun c => c.shape, conts := capConts, hwm := fun _ => none
    perm := false, mem := true, fin := finNone
    run := .pos (fun s h e r i =>
      let x := getHart s h
      let f := entryFmt e
      let t := targetOf e.cap.sa
      let on := i < realLen e.cap.shape && x.maskBit mk.toNat i
      let el := x.elem f (d.toNat + r) i
      if on && el.psn then .error { trap := poisonReg (d.toNat + r), state := s }
      else if bScaled t.fmt then
        .ok (if i % 32 == 31 || i + 1 == shVL e.cap.shape then planeBlock s h e d.toNat mk.toNat r i else s)
      else if !on then .ok s
      else
        let (v, fl) := elemVal f el.bits el.tail
        let (code, fl2) := settleTo t.fmt (rndOf e.cap.fpctl) v
        .ok (performStores s h e (targetBits (coreOf h) t (32 * t.kblk0 + i) (t.first + r) code) (fl ||| fl2)))
    pre := fun s h e =>
      if 16 * e.cap.slices < shVL e.cap.shape then some (badtile e.cap.shape 2)
      else if !targetOk (scratchBytes s (coreOf h)) e.cap.sa (shRows e.cap.shape) (shVL e.cap.shape) then some (badtile e.cap.sa 7)
      else none }

/-- mplane at the front end. -/
def execMplane (d a : BitVec 5) (n m : BitVec 3) (st : State) : Out :=
  live st (commitVector (.mplane d a n m) n.toNat 0 (mplaneOp d m))

end Sys2Proof.Machine
end

