-- ==== Sys2Proof/Machine/Copy.lean ====
section
/-! DEFINITION. The copy engine (05 R120 to R124): descriptors, commands, line transfers and their faults. -/

namespace Sys2Proof.Machine

/-- The count of bytes of a command. -/
def CopyCmd.total (c : CopyCmd) : Nat := c.cnt.foldl (· * ·) 1

/-- Indices of byte n, innermost first (05 R121). -/
def copyIndex (cnt : List Nat) (n : Nat) : List Nat :=
  let k := fun i => cnt.getD i 1
  [n % k 0, n / k 0 % k 1, n / (k 0 * k 1) % k 2, n / (k 0 * k 1 * k 2)]

/-- The offset of byte n from its base for given outer strides. -/
def copyOffset (cnt : List Nat) (step : List Int) (n : Nat) : Int :=
  let ix := copyIndex cnt n
  ((ix.headD 0 : Nat) : Int) + ((List.zip (ix.drop 1) step).map (fun p => (p.1 : Int) * p.2)).sum

/-- A 32-bit field of a descriptor as a signed stride. -/
def strideAt (bs : List Byte) (off : Nat) : Int := signedOf 32 (fieldAt bs off 4)

/-- The offset of the first field of a copy descriptor that breaks Table 05.5. -/
def copyDescError (fill : Bool) (bs : List Byte) : Option Nat :=
  if fill && fieldAt bs 32 4 != 0 then some 32
  else if fill && fieldAt bs 36 4 != 0 then some 36
  else if fill && fieldAt bs 40 4 != 0 then some 40
  else if fieldAt bs 56 8 / 4 != 0 || (fill && bitOf (fieldAt bs 56 8) 0) then some 56
  else none

/-- A copy descriptor as a command (05 Table 05.5). -/
def copyOfDesc (s : State) (fill : Bool) (bs : List Byte) : CopyCmd :=
  let x := curHart s
  { num := x.eng.copy.issued + 1, fill := fill, saddr := word (fieldAt bs 0 8), daddr := word (fieldAt bs 8 8),
    cnt := [fieldAt bs 16 4, fieldAt bs 20 4, fieldAt bs 24 4, fieldAt bs 28 4],
    sstep := [strideAt bs 32, strideAt bs 36, strideAt bs 40], dstep := [strideAt bs 44, strideAt bs 48, strideAt bs 52],
    sscr := bitOf (fieldAt bs 56 8) 0, dscr := bitOf (fieldAt bs 56 8) 1, user := x.user, root := x.csr.ptroot,
    byte := 0, src := none, old := [], fault := none, core := coreOf s.cur, order := x.eng.stamp }

/-- A side that is a scratchpad offset lies within the scratchpad (05 R120). -/
def copySideOk (size : Nat) (scr : Bool) (base : Word) (cnt : List Nat) (step : List Int) : Bool :=
  let (lo, hi) := copySpan base cnt step
  !scr || (0 ≤ lo && hi < size)

/-- dcopy or dfill at the front end (05 R120). -/
def queueCopy (fill : Bool) (d a : BitVec 5) (s : State) : State :=
  let va := (curHart s).getS a
  if va.toNat % 64 != 0 then trapHere s (alignTrap va)
  else
    match readWords s (agentOf s s.cur) va va 8 with
    | .error e => trapHere e.state e.trap
    | .ok (ws, s1) =>
      let bs := bytesOfWords ws
      match copyDescError fill bs with
      | some off => trapHere s1 (badtile va off)
      | none =>
        let c := copyOfDesc s1 fill bs
        let size := scratchBytes s1 (coreOf s.cur)
        if !c.empty && !copySideOk size c.sscr c.saddr c.cnt c.sstep then trapHere s1 (badtile va 0)
        else if !c.empty && !copySideOk size c.dscr c.daddr c.cnt c.dstep then trapHere s1 (badtile va 8)
        else
          retire s1 (fun x =>
            let y := x.setS d c.num
            { y with eng := { x.eng with copy := x.eng.copy.issue, copyQ := x.eng.copyQ ++ [c], stamp := x.eng.stamp + 1 } })

/-- dcopy (05 R120). -/
def execDcopy (d a : BitVec 5) (st : State) : Out := live st (orderedIssue (queueCopy false d a))

/-- dfill (05 R120). -/
def execDfill (d a : BitVec 5) (st : State) : Out := live st (orderedIssue (queueCopy true d a))

/-- The agent of a copy command. -/
def CopyCmd.agent (c : CopyCmd) : Agent := { core := c.core, root := c.root, user := c.user, hart := 4096 }

/-- The key of byte n on one side, checked as a load or a store (05 R121). -/
def copyKey (s : State) (c : CopyCmd) (n : Nat) (dst : Bool) : Except Stop (Nat × State) :=
  let base := if dst then c.daddr else c.saddr
  let off := copyOffset c.cnt (if dst then c.dstep else c.sstep) n
  if (if dst then c.dscr else c.sscr) then
    let key := scrKey c.core ((base.toNat : Int) + off).toNat
    match (if dst then protection s (addInt base off) key else none) with
    | some t => .error { trap := t, state := s }
    | none => .ok (key, s)
  else access s c.agent (addInt base off) 1 (if dst then .copyStore else .copyLoad) .engine

/-- Source byte n with its poison, as it was before the command wrote anything (05 R121). -/
def copyRead (s : State) (c : CopyCmd) (n : Nat) : Except Stop ((Byte × Bool) × State) :=
  match copyKey s c n false with
  | .error e => .error e
  | .ok (key, s1) =>
    .ok ((match smFind c.old key with | some b => b | none => (memByte s1 key, isPoisoned s1 key)), s1)

/-- The source bytes from n on, as they are before any destination byte is written (05 R121): k of them, none where one faults. -/
def copyReadAll (c : CopyCmd) : Nat → Nat → State → List (Option (Byte × Bool)) × State
  | 0, _, s => ([], s)
  | k + 1, n, s =>
    let r := match copyRead s c n with
      | .error e => (none, e.state)
      | .ok (b, s1) => (some b, s1)
    let rest := copyReadAll c k (n + 1) r.2
    (r.1 :: rest.1, rest.2)

/-- The byte that a command writes at n: the pattern, the source as it was read, or the source read again after a repair. -/
def copyByte (s : State) (c : CopyCmd) (n : Nat) (src : Option (Byte × Bool)) : Except Stop ((Byte × Bool) × State) :=
  if c.fill then .ok ((BitVec.ofNat 8 (c.saddr.toNat / 256 ^ (n % 8)), false), s)
  else
    match src with
    | some b => .ok (b, s)
    | none => copyRead s c n

/-- What a run of copied bytes leaves: the state, the byte it has come to, the fault of that byte with its side, the command, and the
keys written. -/
structure CopyRun where
  state : State
  byte  : Nat
  bad   : Option (Bool × Trap)
  cmd   : CopyCmd
  keys  : List Nat

/-- Bytes n onward, up to k of them, with the source bytes from there on, up to the first byte that faults (05 R123). With keep, what a
destination byte held before is kept. -/
def copyBytes (keep : Bool) : Nat → Nat → List (Option (Byte × Bool)) → CopyCmd → State → CopyRun
  | 0, n, _, c, s => { state := s, byte := n, bad := none, cmd := c, keys := [] }
  | k + 1, n, src, c, s =>
    if c.total ≤ n then { state := s, byte := n, bad := none, cmd := c, keys := [] }
    else
      match copyByte s c n (src.headD none) with
      | .error e => { state := e.state, byte := n, bad := some (false, e.trap), cmd := c, keys := [] }
      | .ok ((b, psn), s1) =>
        match copyKey s1 c n true with
        | .error e => { state := e.state, byte := n, bad := some (true, e.trap), cmd := c, keys := [] }
        | .ok (key, s2) =>
          let s3 := putNat s2 (2 ^ 61 + c.order) key b.toNat 1
          let c1 := if keep && (smFind c.old key).isNone then { c with old := smPut c.old key (memByte s2 key, isPoisoned s2 key) } else c
          let r := copyBytes keep k (n + 1) (src.drop 1) c1 (if psn then poisonChunk s3 key else s3)
          { r with keys := key :: r.keys }

/-- CPYERR of a fault (05 Table 05.6). A fault whose cause has no reason of Table 04.6, BUFWRITE, records reason 1 (10 R235). -/
def cpyerrOf (dst : Bool) (t : Trap) (n : Nat) : Word :=
  let reason := if t.cause == .bufwrite then 1 else t.tval2.toNat % 16
  word (2 ^ 63 + (if dst then 2 ^ 62 else 0) + reason * 2 ^ 58 + n % 2 ^ 58)

/-- The trap of the twait that covers a stopped command (05 R123, 10 R235). Where the walk of a byte meets poison in a table entry, the cause is
that of R123, with reason 0: 04 R86 has POISON for the walking access, and Table 04.6 no reason for it (DESIGN CHOICE, log entry 119). -/
def copyTrap (dst : Bool) (t : Trap) : Trap :=
  if t.cause == .bufwrite then t
  else { cause := if dst then .storepf else .loadpf, tval := t.tval, tval2 := word (t.tval2.toNat % 16) }

/-- The state with a holder's CPYERR set: the register, or its place in the slot of a saved context (15 R332). -/
def putCpyerr (s : State) (w : Holder) (v : Word) : State :=
  match w with
  | .hart h => let x := getHart s h; putHart s h { x with csr := { x.csr with cpyerr := v } }
  | .saved ctx =>
    match savedCtx s ctx with
    | some u => slotWrite s u 0x3E8 v
    | none => s

/-- Whether a holder's copy context is stopped on a fault. -/
def copyStopped (s : State) (w : Holder) (c : CopyCmd) : Bool :=
  match w with
  | .hart h => (getHart s h).csr.cpyerr.getLsbD 63
  | .saved _ => c.fault.isSome

/-- The head of a copy queue may run: it is not stopped, and no older matrix command's range clashes (05 R124). -/
def copyReady (s : State) (w : Holder) (c : CopyCmd) : Bool :=
  !copyStopped s w c &&
    (c.byte != 0 ||
      (getEng s w).mtxQ.all (fun k => c.order ≤ k.order || !rangesClash (copyRanges s c) (mtxRanges c.core k)))

/-- The other package that byte n of a command goes to, if it does. -/
def copyPkg (s : State) (c : CopyCmd) (n : Nat) : Option Nat :=
  match copyKey s c n true with
  | .ok (key, _) => pkgOfKey key
  | .error _ => none

/-- The chunks of some bytes written from byte n of a command on, as their new contents, each with the number of its first byte: what a
transfer does not write of a chunk stays open (log entry 51). -/
def writtenChunks (s : State) (n : Nat) (keys : List Nat) : List (Nat × List Byte) :=
  ((keys.map (fun k => k / 32)).eraseDups).map (fun c => (n + keys.findIdx (fun k => k / 32 == c), (List.range 32).map (fun i =>
    if keys.contains (32 * c + i) then memByte s (32 * c + i) else Config.linkByte s.steps i)))

/-- A transfer sent toward a package (16 R347): its chunks behind those of its copy before them, and at the end of the copy the flit as it
is. -/
def copyFlits (s : State) (p : Option Nat) (who n : Nat) (keys : List Nat) (last : Bool) : State :=
  match p.bind (portTo s) with
  | none => s
  | some q =>
    let t := (writtenChunks s n keys).foldl (packChunk s.steps who) (getPort s q)
    putPort s q (if last then portFlush s.steps t 1 else t)

/-- The context of a holder. -/
def ctxOfHolder (s : State) (w : Holder) : Nat :=
  match w with
  | .hart h => (getHart s h).ctx
  | .saved ctx => ctx

/-- The next line transfer, of at most 512 bytes, of the command at the head (05 R121, R122); the engine's turn passes on (01 R16). -/
def copyTransfer (s : State) (w : Holder) : State :=
  let g := getEng s w
  match g.copyQ with
  | [] => s
  | c :: q =>
    let far := copyPkg s c c.byte
    if c.total ≤ c.byte || !copyReady s w c || (match far with | some p => linkStalled s p 1 512 | none => false) then s
    else
      let p := match c.src with | some l => (l, s) | none => if c.fill then ([], s) else copyReadAll c c.total 0 s
      let r := copyBytes (p.1.any (fun o => o.isNone)) 512 c.byte (p.1.drop c.byte) c p.2
      let c1 := { r.cmd with byte := r.byte, src := some p.1, fault := r.bad.map (fun p => copyTrap p.1 p.2) }
      let s1 := notePartial r.state r.keys
      let s2 := copyFlits (putEng (served s1 (copyUnit (clusterOf (coreOf (holderHart s w)))) (holderHart s w)) w
        { getEng s1 w with copyQ := c1 :: q }) far (ctxOfHolder s w) c.byte r.keys (r.bad.isSome || c.total ≤ r.byte)
      match r.bad with
      | none => s2
      | some (dst, t) => putCpyerr s2 w (cpyerrOf dst t r.byte)

/-- COPY_TRANSFER (05 R121). -/
def execCopyTransfer (h : Nat) (st : State) : Out := live st (fun s => copyTransfer s (holderOf h))

/-- Completion of the command at the head (05 R117), once nothing of it can be lost on a link any more (16 R349). -/
def copyComplete (s : State) (w : Holder) : State :=
  let g := getEng s w
  match g.copyQ with
  | [] => s
  | c :: q =>
    if c.byte < c.total || !copyReady s w c || copyUnsure s (ctxOfHolder s w) then s
    else putEng s w { g with copy := g.copy.complete 0 none, copyQ := q }

/-- COPY_COMPLETE (05 R117). -/
def execCopyComplete (h : Nat) (st : State) : Out := live st (fun s => copyComplete s (holderOf h))

end Sys2Proof.Machine
end

