-- ==== Sys2Proof/Machine/Streams.lean ====
section
/-! DEFINITION. Streams (05 R109 to R116): binding, freeing, status, and the movement of their buffers. -/

namespace Sys2Proof.Machine

/-- The hart with a register's containers zero and its lines dead. -/
def Hart.zeroReg (x : Hart) (v : Nat) : Hart :=
  { x with vreg := smClear x.vreg (cKey v 0) (cKey (v + 1) 0), vlines := smClear x.vlines (4 * v) (4 * v + 4) }

/-- The state with a bound register of a hart freed: its pushed elements are written, and the register reads zero (05 R114). An unbound
register changes nothing. -/
def freeStream (s : State) (h v : Nat) : State :=
  if ((getHart s h).streamAt v).isNone then s
  else
    let s1 := streamDrainAll s h v
    let x := getHart s1 h
    putHart s1 h ({ x with streams := smErase x.streams v }.zeroReg v)

/-- Every bound stream of a hart freed. -/
def freeStreams (s : State) (h : Nat) : State := [28, 29, 30, 31].foldl (fun s v => freeStream s h v) s

/-- The offset of the first field of a stream descriptor that breaks Table 05.3. -/
def streamDescError (bs : List Byte) : Option Nat :=
  let ctrl := fieldAt bs 48 8
  let m := ctrl % 32
  let scaled := 17 ≤ m && m < 24
  let blk := 16 * 2 ^ (ctrl / 64 % 4)
  if !scaled && fieldAt bs 8 8 != 0 then some 8
  else if scaled && fieldAt bs 16 4 % blk != 0 then some 16
  else if (scaled || fmtPacked m) && fieldAt bs 32 4 != 0 then some 32
  else if 24 ≤ m || ctrl / 2 ^ 10 != 0 || (scaled && bitOf ctrl 5) then some 48
  else if fieldAt bs 56 8 != 0 then some 56
  else none

/-- The stream of a descriptor, at a position (05 Table 05.3). -/
def streamOf (bs : List Byte) (pos overrun : Nat) : Stream :=
  let ctrl := fieldAt bs 48 8
  { out := bitOf ctrl 5, base := word (fieldAt bs 0 8), scale := word (fieldAt bs 8 8),
    cnt := [fieldAt bs 16 4, fieldAt bs 20 4, fieldAt bs 24 4, fieldAt bs 28 4],
    strides := [strideAt bs 32, strideAt bs 36, strideAt bs 40, strideAt bs 44], fmt := ctrl % 32, blk := ctrl / 64 % 4,
    bofs := ctrl / 256 % 4, pos := pos, overrun := overrun, desc := bs, fetched := [], pushed := [], drained := [] }

/-- sbind (05 R109): the register is freed first where it is bound. The hart's older stores are performed before it, so that no element read
after it misses one to its own chunk (12 R264, R271). -/
def execSbind (d a : BitVec 5) (st : State) : Out :=
  live st (fun s =>
    let x := curHart s
    let va := x.getS a
    if d.toNat < 28 then illegal s (.sbind d a)
    else if !x.viq.isEmpty then s
    else if va.toNat % 64 != 0 then trapHere s (alignTrap va)
    else
      match readWords s (agentOf s s.cur) va va 8 with
      | .error e => trapHere e.state e.trap
      | .ok (ws, s1) =>
        let bs := bytesOfWords ws
        match streamDescError bs with
        | some off => trapHere s1 (badtile va off)
        | none =>
          let s2 := freeStream (if (curHart s1).storeQ.isEmpty then s1 else drainAll s1 s1.cur) s.cur d.toNat
          retire s2 (fun y => { y with streams := smPut y.streams d.toNat (streamOf bs 0 0) }))

/-- sfree (05 R114). -/
def execSfree (d : BitVec 5) (st : State) : Out :=
  live st (fun s =>
    if d.toNat < 28 then illegal s (.sfree d)
    else if !(curHart s).viq.isEmpty then s
    else retire (freeStream s s.cur d.toNat) (fun y => y))

/-- The status word of a stream register (05 Table 05.4). -/
def streamStatus (t : Option Stream) : Word :=
  match t with
  | none => 0
  | some t => word (2 ^ 63 + (if t.out then 2 ^ 62 else 0) + t.overrun % 65536 * 2 ^ 40 + t.pos % 2 ^ 40)

/-- sstat (05 R115). -/
def execSstat (d b : BitVec 5) (st : State) : Out :=
  live st (fun s =>
    let x := curHart s
    if b.toNat < 28 then illegal s (.sstat d b)
    else if !x.viq.isEmpty then s
    else retireS s d (streamStatus (x.streamAt b.toNat)))

/-- Bytes that a fetched element takes in a stream's buffer. -/
def streamElemBytes (t : Stream) : Nat := (fmtWidth (if 17 ≤ t.fmt then bsElem t.fmt else t.fmt) + 7) / 8

/-- An in-stream fetches the next element ahead, if its buffer has room and the element can be read (05 R113). -/
def streamFetch (s : State) (h v : Nat) : State :=
  match (getHart s h).streamAt v with
  | none => s
  | some t =>
    let n := t.pos + t.fetched.length
    if t.out || streamLen t ≤ n || streamRoom ≤ t.fetched.length * streamElemBytes t then s
    else
      match streamRead s (agentOf s h) t n with
      | .error _ => s
      | .ok (d, s1) =>
        let y := getHart s1 h
        putHart s1 h { y with streams := smPut y.streams v { t with fetched := t.fetched ++ [d] } }

/-- STREAM_FETCH (05 R113). -/
def execStreamFetch (h v : Nat) (st : State) : Out := live st (fun s => streamFetch s h v)

/-- STREAM_DRAIN (05 R113): the oldest pushed element leaves the buffer. -/
def execStreamDrain (h v : Nat) (st : State) : Out := live st (fun s => streamDrainOne s h v)

end Sys2Proof.Machine
end

