-- ==== Sys2Proof/Machine/Runs.lean ====
section
/-! DEFINITION. The run generator (10 R211 to R215): key words, rgen, rgen.top and rmerge. -/

namespace Sys2Proof.Machine

/-- Formats of sort keys (10 R212). -/
def fmtKey (f : Nat) : Bool := f < 8 || f == 12

/-- The key word of an element under a format; tails count for the run generator alone (10 Table 10.1). -/
def keyWord (f : Nat) (withTail : Bool) (e : Elem) : Nat :=
  if f == 12 then
    let w := if withTail then 34 else 32
    let c := if withTail then e.bits % 2 ^ 32 * 4 + e.tail else e.bits % 2 ^ 32
    if e.bits / 2 ^ 31 % 2 == 0 then c + 2 ^ (w - 1) else 2 ^ w - 1 - c
  else if fmtSigned f then (e.bits + 2 ^ (fmtWidth f - 1)) % 2 ^ fmtWidth f
  else e.bits % 2 ^ fmtWidth f

/-- An insertion into a list sorted by a strict order, after every entry that does not follow the new one. -/
def insertBy {α : Type} (before : α → α → Bool) (x : α) : List α → List α
  | [] => [x]
  | y :: ys => if before x y then x :: y :: ys else y :: insertBy before x ys

/-- A stable sort. -/
def sortBy {α : Type} (before : α → α → Bool) (xs : List α) : List α := xs.foldl (fun l x => insertBy before x l) []

/-- The keys of some positions with their key words, unless one is poisoned (10 R213). -/
def keysOf (x : Hart) (f v : Nat) : List Nat → Except (Nat × Trap) (List (Nat × Nat))
  | [] => .ok []
  | i :: is =>
    let e := x.elem f v i
    if e.psn then .error (i, poisonReg v)
    else
      match keysOf x f v is with
      | .error t => .error t
      | .ok ks => .ok ((keyWord f true e, i) :: ks)

/-- The order of rgen: ascending key word, ties in the order of positions. -/
def rgenOrder (ks : List (Nat × Nat)) : List (Nat × Nat) := sortBy (fun a b => a.1 < b.1) ks

/-- The selection of rgen.top: the 64 greatest, then in the order of rgen (10 R212). -/
def rgenTop64 (ks : List (Nat × Nat)) : List (Nat × Nat) :=
  let top := (sortBy (fun a b => b.1 < a.1) ks).take 64
  sortBy (fun a b => a.1 < b.1 || (a.1 == b.1 && a.2 < b.2)) top

/-- Key and index containers from register k and index register j, put at position n of registers d and d2. -/
def putRun (y : Hart) (f d d2 n : Nat) (x : Hart) (k j i : Nat) : Hart :=
  (y.moveElem f d n x k i).setC d2 n (x.getC j i)

/-- Position n of a key and an index register zero. -/
def zeroRun (f d d2 : Nat) (y : Hart) (n : Nat) : Hart := (y.zeroElem f d n).setC d2 n 0

/-- HVL and HREG of a run in the registers up to top. -/
def hwmRun (top : Nat) (c : Capture) : Option (Nat × Nat) := some (capConts c, top)

/-- rgen and rgen.top as the VIQ sees them. -/
def rgenOp (d a b : BitVec 5) (mk : BitVec 3) (sel : List (Nat × Nat) → List (Nat × Nat)) : VOp :=
  { legal := fun _ c =>
      shapeOk c.slices c.shape fmtKey && shRows c.shape == 1 && d.toNat < 31 &&
      disjointGroups d.toNat 2 a.toNat 1 && disjointGroups d.toNat 2 b.toNat 1
    reads := fun _ => [a.toNat, b.toNat]
    writes := fun _ => [d.toNat, d.toNat + 1]
    mreads := [mk.toNat], mwrites := [], sweep := fun c => c.shape, conts := capConts, hwm := hwmRun (d.toNat + 1)
    perm := true, mem := false, fin := finNone
    run := .whole (fun s h e =>
      let x := getHart s h
      let f := entryFmt e
      let vl := shVL e.cap.shape
      match keysOf x f a.toNat ((List.range (realLen e.cap.shape)).filter (fun i => x.maskBit mk.toNat i)) with
      | .error t => .error t
      | .ok ks =>
        let order := sel ks
        let y := (List.zip (List.range order.length) order).foldl
          (fun y p => putRun y f d.toNat (d.toNat + 1) p.1 x a.toNat b.toNat p.2.2) x
        let z := ((List.range vl).drop order.length).foldl (zeroRun f d.toNat (d.toNat + 1)) y
        .ok (putHart s h z)) }

/-- rgen at the front end. -/
def execRgen (d a b : BitVec 5) (n m : BitVec 3) (st : State) : Out :=
  live st (commitVector (.rgen d a b n m) n.toNat 0 (rgenOp d a b m rgenOrder))

/-- rgen.top at the front end. -/
def execRgenTop (d a b : BitVec 5) (n m : BitVec 3) (st : State) : Out :=
  live st (commitVector (.rgenTop d a b n m) n.toNat 0 (rgenOp d a b m rgenTop64))

/-- The merge of two runs of key words with positions: run 1 first on equal keys (10 R214). Fuel is the length of both. -/
def mergeRuns : Nat → List (Nat × Nat) → List (Nat × Nat) → List (Bool × Nat)
  | 0, _, _ => []
  | _ + 1, [], ys => ys.map (fun y => (true, y.2))
  | _ + 1, xs, [] => xs.map (fun x => (false, x.2))
  | n + 1, x :: xs, y :: ys =>
    if x.1 ≤ y.1 then (false, x.2) :: mergeRuns n xs (y :: ys) else (true, y.2) :: mergeRuns n (x :: xs) ys

/-- rmerge as the VIQ sees it: of poisoned keys in both runs the one at the lower position is reported (07 R150). -/
def rmergeOp (d a b : BitVec 5) : VOp :=
  { legal := fun _ c =>
      shapeOk c.slices c.shape fmtKey && shRows c.shape == 1 && d.toNat ≤ 28 && a.toNat < 31 && b.toNat < 31 &&
      disjointGroups d.toNat 4 a.toNat 2 && disjointGroups d.toNat 4 b.toNat 2
    reads := fun _ => [a.toNat, a.toNat + 1, b.toNat, b.toNat + 1]
    writes := fun _ => groupRegs d.toNat 4
    mreads := [], mwrites := [], sweep := fun c => c.shape, conts := capConts, hwm := hwmRun (d.toNat + 3)
    perm := true, mem := false, fin := finNone
    run := .whole (fun s h e =>
      let x := getHart s h
      let f := entryFmt e
      let l := realLen e.cap.shape
      let vl := shVL e.cap.shape
      match keysOf x f a.toNat (List.range l), keysOf x f b.toNat (List.range l) with
      | .error t, .error u => .error (if u.1 < t.1 then u else t)
      | .error t, _ => .error t
      | _, .error u => .error u
      | .ok ka, .ok kb =>
        let out := mergeRuns (2 * l) ka kb
        let place := fun (y : Hart) (p : Nat × (Bool × Nat)) =>
          let src := if p.2.1 then b.toNat else a.toNat
          let dst := if p.1 < l then d.toNat else d.toNat + 2
          putRun y f dst (dst + 1) (if p.1 < l then p.1 else p.1 - l) x src (src + 1) p.2.2
        let y := (List.zip (List.range out.length) out).foldl place x
        let z := ((List.range vl).drop l).foldl
          (fun y n => zeroRun f (d.toNat + 2) (d.toNat + 3) (zeroRun f d.toNat (d.toNat + 1) y n) n) y
        .ok (putHart s h z)) }

/-- rmerge at the front end. -/
def execRmerge (d a b : BitVec 5) (n : BitVec 3) (st : State) : Out :=
  live st (commitVector (.rmerge d a b n) n.toNat 0 (rmergeOp d a b))

end Sys2Proof.Machine
end

