-- ==== Sys2Proof/Machine/VFloat.lean ====
section
/-! DEFINITION. The vector families VFLT, vcvt and VRED (08 R164 to R185): arithmetic on extended values, minimum and maximum, compares,
signs, classes, estimates, conversions, tails, reductions, scans and selection. -/

namespace Sys2Proof.Machine

/-- The values of an element's parts: one for FP16, BF16 and FP32, real and imaginary for C64 (08 R164). -/
def partsOf (f : Nat) (e : Elem) : List FVal :=
  if f == 13 then [fFP32.value (e.bits % 2 ^ 32) e.tail, fFP32.value (e.bits / 2 ^ 32) e.tail2]
  else [(fpOf f).value e.bits e.tail]

/-- An element from results of its parts, each written under FPCTL (02 R30, R34). -/
def elemOfParts (f : Nat) (fpctl : Word) (rs : List FRes) : Elem × Flags :=
  let ws := rs.map (fun r => (writeTailed (fpOf f) fpctl r.1, r.2))
  let fl := ws.foldl (fun (a : Flags) w => a ||| w.1.flags ||| w.2) 0
  match ws with
  | [a] => ({ bits := a.1.code, tail := a.1.tail, tail2 := 0, psn := false }, fl)
  | a :: b :: _ => ({ bits := a.1.code + b.1.code * 2 ^ 32, tail := a.1.tail, tail2 := b.1.tail, psn := false }, fl)
  | [] => (Elem.zero, fl)

/-- Whether an exact zero sum is −0: RND is toward −∞ (02 R36). -/
def rndDown (fpctl : Word) : Bool := fpctl.toNat % 8 == 2

/-- Sum of addends that are no NaNs (08 R166, R168). -/
def sumAll (down : Bool) : List FVal → FRes
  | [] => (.fin (Ex.zero false), 0)
  | [a] => (a, 0)
  | a :: b :: rest =>
    match addCore down a b with
    | (.nan _ _, _) => invalid
    | (s, _) => sumFrom down s rest
where
  /-- The running sum. -/
  sumFrom (down : Bool) (acc : FVal) : List FVal → FRes
    | [] => (acc, 0)
    | b :: rest =>
      match addCore down acc b with
      | (.nan _ _, _) => invalid
      | (s, _) => sumFrom down s rest

/-- A part of a complex product with further addends (08 R168): each product exact, one sum; NaNs in the order given. -/
def complexPart (down : Bool) (order : List FVal) (prods : List (FVal × FVal)) (rest : List FVal) : FRes :=
  withNan order
    (let ps := prods.map (fun p => mulCore p.1 p.2)
     if ps.any (fun p => match p.1 with | .nan _ _ => true | _ => false) then invalid
     else sumAll down (ps.map (fun p => p.1) ++ rest))

/-- The two parts of ±(A × B) ± C over C64: negP negates the product, c is none or the signed parts of C with those of C itself. -/
def complexMul (down negP : Bool) (a b : List FVal) (c : Option (List FVal × List FVal)) : List FRes :=
  match a, b with
  | [ar, ai], [br, bi] =>
    let sg := fun (v : FVal) => if negP then fNeg v else v
    let ord := [ar, ai, br, bi]
    let part := fun (k : Nat) =>
      match c with
      | none => (([] : List FVal), ([] : List FVal))
      | some (sc, raw) => ((raw.drop k).take 1, (sc.drop k).take 1)
    [complexPart down (ord ++ (part 0).1) [(sg ar, br), (fNeg (sg ai), bi)] (part 0).2,
     complexPart down (ord ++ (part 1).1) [(sg ar, bi), (sg ai, br)] (part 1).2]
  | _, _ => []

/-- FP16, BF16, FP32 or C64. -/
def fmtTail (f : Nat) : Bool := fmtTailed f

/-- Reads the elements of several registers at one position, each consumed. -/
def consumeAll (x : Hart) (f i : Nat) : List Nat → Except Trap (List Elem)
  | [] => .ok []
  | v :: vs =>
    match consume x f v i with
    | .error t => .error t
    | .ok e =>
      match consumeAll x f i vs with
      | .error t => .error t
      | .ok es => .ok (e :: es)

/-- An element-wise floating-point instruction over sources srcs (d among them for fused forms): the results of the parts. -/
def floatOp (accept : Nat → Bool) (d : BitVec 5) (srcs : List (BitVec 5)) (fused : Bool)
    (g : Nat → Word → List Elem → List FRes) : VOp :=
  ewOp accept d srcs fused (fun x e r i =>
    let f := entryFmt e
    match consumeAll x f i ((if fused then srcs ++ [d] else srcs).map (fun v => v.toNat + r)) with
    | .error t => .error t
    | .ok es =>
      let (el, fl) := elemOfParts f e.cap.fpctl (g f e.cap.fpctl es)
      .ok ((x.setElem f (d.toNat + r) i el).addFlags fl))

/-- Two operands part by part. -/
def zipParts (f : Nat) (g : FVal → FVal → FRes) (es : List Elem) : List FRes :=
  match es with
  | [a, b] => (List.zip (partsOf f a) (partsOf f b)).map (fun p => g p.1 p.2)
  | _ => []

/-- A fused operation ±(A × B) ± C (08 R167, R168). -/
def fusedParts (f : Nat) (down negP negC : Bool) (es : List Elem) : List FRes :=
  match es with
  | [a, b, c] =>
    let sc := fun (v : FVal) => if negC then fNeg v else v
    if f == 13 then complexMul down negP (partsOf f a) (partsOf f b) (some ((partsOf f c).map sc, partsOf f c))
    else
      match partsOf f a, partsOf f b, partsOf f c with
      | [x], [y], [z] => [fMulAdd down (if negP then fNeg x else x) y (sc z)]
      | _, _, _ => []
  | _ => []

/-- One operand's first part. -/
def onePart (f : Nat) (g : FVal → FRes) (es : List Elem) : List FRes :=
  match es with
  | [a] => (partsOf f a).map g
  | _ => []

/-- vfadd (08 Table 08.2): A + B. -/
def vfaddOp (d a b : BitVec 5) : VOp := floatOp fmtTail d [a, b] false (fun f c es => zipParts f (fAdd (rndDown c)) es)

/-- vfadd at the front end. -/
def execVfadd (d a b : BitVec 5) (s m : BitVec 3) (st : State) : Out :=
  live st (commitVector (.vfadd d a b s m) s.toNat 0 (vfaddOp d a b))

/-- vfsub: A − B. -/
def vfsubOp (d a b : BitVec 5) : VOp := floatOp fmtTail d [a, b] false (fun f c es => zipParts f (fSub (rndDown c)) es)

/-- vfsub at the front end. -/
def execVfsub (d a b : BitVec 5) (s m : BitVec 3) (st : State) : Out :=
  live st (commitVector (.vfsub d a b s m) s.toNat 0 (vfsubOp d a b))

/-- vfmul: A × B. -/
def vfmulOp (d a b : BitVec 5) : VOp :=
  floatOp fmtTail d [a, b] false (fun f c es =>
    if f == 13 then
      (match es with
       | [p, q] => complexMul (rndDown c) false (partsOf f p) (partsOf f q) none
       | _ => [])
    else zipParts f fMul es)

/-- vfmul at the front end. -/
def execVfmul (d a b : BitVec 5) (s m : BitVec 3) (st : State) : Out :=
  live st (commitVector (.vfmul d a b s m) s.toNat 0 (vfmulOp d a b))

/-- vfma: A × B + C. -/
def vfmaOp (d a b : BitVec 5) : VOp := floatOp fmtTail d [a, b] true (fun f c es => fusedParts f (rndDown c) false false es)

/-- vfma at the front end. -/
def execVfma (d a b : BitVec 5) (s m : BitVec 3) (st : State) : Out :=
  live st (commitVector (.vfma d a b s m) s.toNat 0 (vfmaOp d a b))

/-- vfms: A × B − C. -/
def vfmsOp (d a b : BitVec 5) : VOp := floatOp fmtTail d [a, b] true (fun f c es => fusedParts f (rndDown c) false true es)

/-- vfms at the front end. -/
def execVfms (d a b : BitVec 5) (s m : BitVec 3) (st : State) : Out :=
  live st (commitVector (.vfms d a b s m) s.toNat 0 (vfmsOp d a b))

/-- vfnma: C − A × B. -/
def vfnmaOp (d a b : BitVec 5) : VOp := floatOp fmtTail d [a, b] true (fun f c es => fusedParts f (rndDown c) true false es)

/-- vfnma at the front end. -/
def execVfnma (d a b : BitVec 5) (s m : BitVec 3) (st : State) : Out :=
  live st (commitVector (.vfnma d a b s m) s.toNat 0 (vfnmaOp d a b))

/-- vfdiv: A / B. Its destination may coincide with a source, as in the classes that 07 Table 07.2 names; of its own class, float divide and root,
that table says nothing (DESIGN CHOICE, log entry 120). -/
def vfdivOp (d a b : BitVec 5) : VOp := floatOp fmtFloat d [a, b] false (fun f _ es => zipParts f fDiv es)

/-- vfdiv at the front end. -/
def execVfdiv (d a b : BitVec 5) (s m : BitVec 3) (st : State) : Out :=
  live st (commitVector (.vfdiv d a b s m) s.toNat 0 (vfdivOp d a b))

/-- vfsqrt: √A. Its destination may coincide with its source (DESIGN CHOICE, log entry 120). -/
def vfsqrtOp (d a : BitVec 5) : VOp := floatOp fmtFloat d [a] false (fun f _ es => onePart f fSqrt es)

/-- vfsqrt at the front end. -/
def execVfsqrt (d a : BitVec 5) (s m : BitVec 3) (st : State) : Out :=
  live st (commitVector (.vfsqrt d a s m) s.toNat 0 (vfsqrtOp d a))

/-- Whether a value is a NaN, or a signalling one. -/
def isNan (v : FVal) : Bool := match v with | .nan _ _ => true | _ => false
def isSig (v : FVal) : Bool := match v with | .nan _ p => !nanQuiet p | _ => false

/-- The sign of a value. -/
def signOf (v : FVal) : Bool := match v with | .fin x => x.neg | .inf n => n | .nan n _ => n

/-- The value of a one-part element. -/
def valOf (f : Nat) (e : Elem) : FVal := (fpOf f).value e.bits e.tail

/-- A chosen element written (08 R164): as it is in carry mode, as its round in settle-every-write mode; a NaN is quieted. -/
def writeChosen (f : Nat) (fpctl : Word) (e : Elem) : Elem × Flags :=
  if !fmtFloat f then (e, 0)
  else
    match valOf f e with
    | .nan n p => ({ bits := (fpOf f).nanCode n p, tail := 0, tail2 := 0, psn := e.psn }, 0)
    | v =>
      if fpctl.getLsbD 3 then
        let w := settle (fpOf f) (rndOf fpctl) v
        ({ bits := w.code, tail := w.tail, tail2 := 0, psn := e.psn }, w.flags)
      else (e, 0)

/-- The choice of vfmin or vfmax (08 R169): −0 for a minimum and +0 for a maximum among equals, otherwise a; the operand that is no
NaN. -/
def chooseF (f : Nat) (wantMax : Bool) (a b : Elem) : Elem :=
  let va := valOf f a
  let vb := valOf f b
  match fcompare va vb with
  | .un => if isNan va && !isNan vb then b else a
  | .lt => if wantMax then b else a
  | .gt => if wantMax then a else b
  | .eq => if signOf va != signOf vb && signOf va == wantMax then b else a

/-- vfmin or vfmax at a position. -/
def minmaxOp (d a b : BitVec 5) (wantMax : Bool) : VOp :=
  ewOp fmtFloat d [a, b] false (fun x e r i =>
    let f := entryFmt e
    match consume x f (a.toNat + r) i, consume x f (b.toNat + r) i with
    | .ok p, .ok q =>
      let (el, fl) := writeChosen f e.cap.fpctl (chooseF f wantMax p q)
      .ok ((x.setElem f (d.toNat + r) i el).addFlags (fl ||| flagIf (isSig (valOf f p) || isSig (valOf f q)) flagNV))
    | .error t, _ => .error t
    | _, .error t => .error t)

/-- vfmin at the front end. -/
def execVfmin (d a b : BitVec 5) (s m : BitVec 3) (st : State) : Out :=
  live st (commitVector (.vfmin d a b s m) s.toNat 0 (minmaxOp d a b false))

/-- vfmax at the front end. -/
def execVfmax (d a b : BitVec 5) (s m : BitVec 3) (st : State) : Out :=
  live st (commitVector (.vfmax d a b s m) s.toNat 0 (minmaxOp d a b true))

/-- vfcmp (08 Table 08.3): the predicate on the ordering; quiet: NV only for a signalling NaN. -/
def vfcmpOp (d a b : BitVec 5) (quiet : Bool) (g : FOrd → Bool) : VOp :=
  cmpOp fmtFloat d a b (fun f p q =>
    let u := valOf f p
    let v := valOf f q
    (g (fcompare u v), flagIf (if quiet then isSig u || isSig v else isNan u || isNan v) flagNV))

/-- vfcmpEq at the front end. -/
def execVfcmpEq (d a b : BitVec 5) (s m : BitVec 3) (st : State) : Out :=
  live st (commitVector (.vfcmpEq d a b s m) s.toNat 0 (vfcmpOp d a b true (fun o => o == .eq)))

/-- vfcmpNe at the front end. -/
def execVfcmpNe (d a b : BitVec 5) (s m : BitVec 3) (st : State) : Out :=
  live st (commitVector (.vfcmpNe d a b s m) s.toNat 0 (vfcmpOp d a b true (fun o => o != .eq)))

/-- vfcmpLt at the front end. -/
def execVfcmpLt (d a b : BitVec 5) (s m : BitVec 3) (st : State) : Out :=
  live st (commitVector (.vfcmpLt d a b s m) s.toNat 0 (vfcmpOp d a b false (fun o => o == .lt)))

/-- vfcmpLe at the front end. -/
def execVfcmpLe (d a b : BitVec 5) (s m : BitVec 3) (st : State) : Out :=
  live st (commitVector (.vfcmpLe d a b s m) s.toNat 0 (vfcmpOp d a b false (fun o => o == .lt || o == .eq)))

/-- vfcmpGt at the front end. -/
def execVfcmpGt (d a b : BitVec 5) (s m : BitVec 3) (st : State) : Out :=
  live st (commitVector (.vfcmpGt d a b s m) s.toNat 0 (vfcmpOp d a b false (fun o => o == .gt)))

/-- vfcmpGe at the front end. -/
def execVfcmpGe (d a b : BitVec 5) (s m : BitVec 3) (st : State) : Out :=
  live st (commitVector (.vfcmpGe d a b s m) s.toNat 0 (vfcmpOp d a b false (fun o => o == .gt || o == .eq)))

/-- vfcmpUn at the front end. -/
def execVfcmpUn (d a b : BitVec 5) (s m : BitVec 3) (st : State) : Out :=
  live st (commitVector (.vfcmpUn d a b s m) s.toNat 0 (vfcmpOp d a b true (fun o => o == .un)))

/-- vfsgn (08 R171): the element of a with its tail under a new sign; a NaN is not quieted. -/
def vfsgnOp (d a b : BitVec 5) (g : Bool → Bool → Bool) : VOp :=
  ewOp fmtFloat d [a, b] false (fun x e r i =>
    let f := entryFmt e
    match consume x f (a.toNat + r) i, consume x f (b.toNat + r) i with
    | .ok p, .ok q =>
      let top := 2 ^ (fmtWidth f - 1)
      let neg := g (p.bits / top % 2 == 1) (q.bits / top % 2 == 1)
      let n : Elem := { p with bits := p.bits % top + if neg then top else 0 }
      let (el, fl) := if isNan (valOf f n) then (n, (0 : Flags)) else writeChosen f e.cap.fpctl n
      .ok ((x.setElem f (d.toNat + r) i el).addFlags fl)
    | .error t, _ => .error t
    | _, .error t => .error t)

/-- vfsgnJ at the front end. -/
def execVfsgnJ (d a b : BitVec 5) (s m : BitVec 3) (st : State) : Out :=
  live st (commitVector (.vfsgnJ d a b s m) s.toNat 0 (vfsgnOp d a b (fun _ t => t)))

/-- vfsgnJn at the front end. -/
def execVfsgnJn (d a b : BitVec 5) (s m : BitVec 3) (st : State) : Out :=
  live st (commitVector (.vfsgnJn d a b s m) s.toNat 0 (vfsgnOp d a b (fun _ t => !t)))

/-- vfsgnJx at the front end. -/
def execVfsgnJx (d a b : BitVec 5) (s m : BitVec 3) (st : State) : Out :=
  live st (commitVector (.vfsgnJx d a b s m) s.toNat 0 (vfsgnOp d a b (fun p t => p != t)))

/-- The class bits of an element without its tail, and bit 10 for a nonzero tail (08 Table 08.4). -/
def classOf (f : Nat) (e : Elem) : Nat :=
  let t := if e.tail == 0 then 0 else 1024
  let p := fpOf f
  match p.value e.bits 0 with
  | .inf n => t + if n then 1 else 128
  | .nan _ fr => t + if nanQuiet fr then 512 else 256
  | .fin x =>
    if x.m == 0 then t + if x.neg then 8 else 16
    else if x.log < p.emin then t + if x.neg then 4 else 32
    else t + if x.neg then 2 else 64

/-- vfclass (08 R172): an N32 image. -/
def vfclassOp (d a : BitVec 5) : VOp :=
  { ewOp fmtFloat d [a] false (fun x _ _ _ => .ok x) with
    run := .pos (atActive1 d (fun x e r i =>
      match consume x (entryFmt e) (a.toNat + r) i with
      | .error t => .error t
      | .ok p => .ok (x.setC (d.toNat + r) i (mkC false 0 (classOf (entryFmt e) p))))) }

/-- vfclass at the front end. -/
def execVfclass (d a : BitVec 5) (s m : BitVec 3) (st : State) : Out :=
  live st (commitVector (.vfclass d a s m) s.toNat 0 (vfclassOp d a))

/-! Estimates (08 R173, R174). -/

/-- Fraction bits of the long fixed-point numbers below. -/
def longBits : Nat := 192

/-- Terms k, k − 1, …, 1 of a series for ln 2, in units of 2 to the −longBits: 1 / (k 2^k) each. -/
def ln2Terms : Nat → Nat
  | 0 => 0
  | k + 1 => 2 ^ longBits / ((k + 1) * 2 ^ (k + 1)) + ln2Terms k

/-- ln 2 in units of 2 to the −longBits, from its series. -/
def ln2Fixed : Nat := ln2Terms longBits

/-- The exponential series from a term on: n further terms of z^k / k!, k from j. -/
def expSeries (z : Nat) : Nat → Nat → Nat → Nat
  | 0, _, _ => 0
  | n + 1, j, term =>
    let next := term * z / 2 ^ longBits / j
    term + expSeries z n (j + 1) next

/-- 2 to the f for f in [0, 1), both in units of 2 to the −longBits. -/
def exp2Frac (f : Nat) : Nat := expSeries (f * ln2Fixed / 2 ^ longBits) 48 1 (2 ^ longBits)

/-- The series of the inverse hyperbolic tangent: n further terms of t^j / j, j odd, from a power on. -/
def atanhSeries (t2 : Nat) : Nat → Nat → Nat → Nat
  | 0, _, _ => 0
  | n + 1, j, pw => pw / j + atanhSeries t2 n (j + 2) (pw * t2 / 2 ^ longBits)

/-- log2 of y in [1, 2), in units of 2 to the −longBits, for y = m / 2^k. -/
def log2Frac (m k : Nat) : Nat :=
  let t := (m - 2 ^ k) * 2 ^ longBits / (m + 2 ^ k)
  let l := 2 * atanhSeries (t * t / 2 ^ longBits) 66 1 t
  l * 2 ^ longBits / ln2Fixed

/-- Significant bits of an estimate (08 Table 08.5). -/
def estBits (f : Nat) : Nat := if f == 12 then 12 else if f == 11 then 8 else 11

/-- An estimate's result rounded to nearest even at its precision and written with the lower fraction bits zero (08 R173). -/
def estWrite (f : Nat) (v : FVal) : Elem × Flags :=
  let p := fpOf f
  let small : FpFmt := { p with fb := estBits f - 1 }
  match v with
  | .fin x =>
    let w := roundEx small .even x
    ({ bits := w.code * 2 ^ (p.fb - small.fb), tail := 0, tail2 := 0, psn := false }, w.flags &&& flagOF)
  | .inf n => ({ bits := p.infCode n, tail := 0, tail2 := 0, psn := false }, 0)
  | .nan n fr => ({ bits := p.nanCode n fr, tail := 0, tail2 := 0, psn := false }, 0)

/-- An estimate at a position: the exact function with its own flags, NaNs by 02 R39. -/
def estOp (d a : BitVec 5) (g : FVal → FRes) : VOp :=
  ewOp fmtFloat d [a] false (fun x e r i =>
    let f := entryFmt e
    match consume x f (a.toNat + r) i with
    | .error t => .error t
    | .ok p =>
      let v := valOf f p
      let (y, fl) := withNan [v] (g v)
      let (el, fl2) := estWrite f y
      .ok ((x.setElem f (d.toNat + r) i el).addFlags (fl ||| fl2)))

/-- 1 / x. -/
def rcpF (v : FVal) : FRes :=
  match v with
  | .fin x => if x.m == 0 then (.inf x.neg, flagDZ) else (.fin ((Ex.ofInt 1).div x |> fun q => { q with neg := x.neg }), 0)
  | .inf n => (.fin (Ex.zero n), 0)
  | w => (w, 0)

/-- 1 / √x of a positive exact value. -/
def rsqEx (x : Ex) : Ex :=
  let m := if x.e % 2 == 0 then x.m else 2 * x.m
  let e := if x.e % 2 == 0 then x.e else x.e - 1
  let k := 100 + m.log2
  let n := 2 ^ (2 * k)
  let r := isqrt (n / m)
  { neg := false, m := r, e := -(k : Int) - e / 2, sticky := r * r * m != n }

/-- 1 / √x. -/
def rsqF (v : FVal) : FRes :=
  match v with
  | .fin x => if x.m == 0 then (.inf x.neg, flagDZ) else if x.neg then invalid else (.fin (rsqEx x), 0)
  | .inf n => if n then invalid else (.fin (Ex.zero false), 0)
  | w => (w, 0)

/-- 2^x of a finite value: the integer part moves the exponent, held within ±20,000, which lies beyond every format. -/
def exp2Ex (x : Ex) : Ex :=
  let big := 15
  if x.m == 0 then Ex.ofInt 1
  else if x.log ≥ big then { neg := false, m := 1, e := if x.neg then -20000 else 20000, sticky := true }
  else
    let k := x.e + (longBits : Int)
    let mag := scaleNat x.m k
    let lost := scaleLoss x.m k || x.sticky
    let one := 2 ^ longBits
    let z : Int := if x.neg then -(mag : Int) - (if lost then 1 else 0) else mag
    let n := z / (one : Int)
    let fr := (z % (one : Int)).toNat
    { neg := false, m := exp2Frac fr, e := n - (longBits : Int), sticky := fr != 0 || lost }

/-- 2^x. -/
def exp2F (v : FVal) : FRes :=
  match v with
  | .fin x => (.fin (exp2Ex x), 0)
  | .inf n => if n then (.fin (Ex.zero false), 0) else (.inf false, 0)
  | w => (w, 0)

/-- log2 of a positive exact value. -/
def log2Ex (x : Ex) : Ex :=
  let k := x.m.log2
  let ee : Int := x.e + k
  let fr := log2Frac x.m k
  let z : Int := ee * (2 ^ longBits : Nat) + fr
  if x.m == 2 ^ k then { neg := ee < 0, m := ee.natAbs, e := 0, sticky := false }
  else if z < 0 then { neg := true, m := z.natAbs - 1, e := -(longBits : Int), sticky := true }
  else { neg := false, m := z.natAbs, e := -(longBits : Int), sticky := true }

/-- log2 x. -/
def log2F (v : FVal) : FRes :=
  match v with
  | .fin x => if x.m == 0 then (.inf true, flagDZ) else if x.neg then invalid else (.fin (log2Ex x), 0)
  | .inf n => if n then invalid else (.inf false, 0)
  | w => (w, 0)

/-- vfrcp at the front end (08 Table 08.5). -/
def execVfrcp (d a : BitVec 5) (s m : BitVec 3) (st : State) : Out :=
  live st (commitVector (.vfrcp d a s m) s.toNat 0 (estOp d a rcpF))

/-- vfrsq at the front end (08 Table 08.5). -/
def execVfrsq (d a : BitVec 5) (s m : BitVec 3) (st : State) : Out :=
  live st (commitVector (.vfrsq d a s m) s.toNat 0 (estOp d a rsqF))

/-- vfexp2 at the front end (08 Table 08.5). -/
def execVfexp2 (d a : BitVec 5) (s m : BitVec 3) (st : State) : Out :=
  live st (commitVector (.vfexp2 d a s m) s.toNat 0 (estOp d a exp2F))

/-- vflog2 at the front end (08 Table 08.5). -/
def execVflog2 (d a : BitVec 5) (s m : BitVec 3) (st : State) : Out :=
  live st (commitVector (.vflog2 d a s m) s.toNat 0 (estOp d a log2F))

/-- vsettle (08 R177): round of each part in either tail mode. -/
def vsettleOp (d a : BitVec 5) : VOp :=
  ewOp fmtTail d [a] false (fun x e r i =>
    let f := entryFmt e
    match consume x f (a.toNat + r) i with
    | .error t => .error t
    | .ok p =>
      let (el, fl) := elemOfParts f (e.cap.fpctl ||| 8) ((partsOf f p).map (fun v => (v, (0 : Flags))))
      .ok ((x.setElem f (d.toNat + r) i el).addFlags fl))

/-- vsettle at the front end. -/
def execVsettle (d a : BitVec 5) (s m : BitVec 3) (st : State) : Out :=
  live st (commitVector (.vsettle d a s m) s.toNat 0 (vsettleOp d a))

/-- vtail (08 R178): the tail as an unsigned integer in each container; poison is copied and nothing consumed. -/
def vtailOp (d a : BitVec 5) : VOp :=
  ewOp fmtTail d [a] false (fun x e r i =>
    let c := fun (k : Nat) => let b := x.getC (a.toNat + r) k; mkC (cPsn b) 0 (cTail b)
    if entryFmt e == 13 then
      .ok ((x.setC (d.toNat + r) (2 * i) (c (2 * i))).setC (d.toNat + r) (2 * i + 1) (c (2 * i + 1)))
    else .ok (x.setC (d.toNat + r) i (c i)))

/-- vtail at the front end. -/
def execVtail (d a : BitVec 5) (s m : BitVec 3) (st : State) : Out :=
  live st (commitVector (.vtail d a s m) s.toNat 0 (vtailOp d a))

/-- Formats of vcvt, as source and as target (08 Table 08.1). -/
def fmtCvt (f : Nat) : Bool := fmtInt f || fmtFloat f || f == 14 || f == 15

/-- vcvt (08 R175, R176) from the captured format to T. -/
def vcvtOp (d a : BitVec 5) (t : Nat) : VOp :=
  { ewOp fmtCvt d [a] false (fun x _ _ _ => .ok x) with
    legal := fun _ c =>
      let n := shRows c.shape
      shapeOk c.slices c.shape fmtCvt && fmtCvt t && groupsFit [d, a] c &&
      shVL c.shape ≤ (if fmtTwo t || fmtTwo (shFmt c.shape) then 64 * c.slices else 128 * c.slices) &&
      (if fmtTwo t == fmtTwo (shFmt c.shape) then sameOrDisjoint d.toNat a.toNat n else disjointGroups d.toNat n a.toNat n)
    conts := fun c => max (capConts c) (rowContainers t (shVL c.shape))
    wconts := fun c => rowContainers t (shVL c.shape)
    rlines := fun c => linesOf (fieldGroup a c) (capConts c)
    hwm := fun c => some (if fmtTwo t then 2 * shVL c.shape else shVL c.shape, d.toNat + shRows c.shape - 1)
    run := .pos (atActive d (fun _ => t) (fun x e r i =>
      let f := entryFmt e
      match consume x f (a.toNat + r) i with
      | .error w => .error w
      | .ok p =>
        let (v, fl) := elemVal f p.bits p.tail
        let (el, fl2) := writeElem t e.cap.fpctl v
        .ok ((x.setElem t (d.toNat + r) i el).addFlags (fl ||| fl2)))) }

/-- vcvt at the front end. -/
def execVcvt (d a t : BitVec 5) (s m : BitVec 3) (st : State) : Out :=
  live st (commitVector (.vcvt d a t s m) s.toNat 0 (vcvtOp d a t.toNat))

/-! Reductions and scans (08 R179 to R183). -/

/-- Integer and float formats of sums, and of maxima. -/
def fmtSum (f : Nat) : Bool := fmtInt f || fmtTailed f
def fmtMax (f : Nat) : Bool := fmtInt f || fmtFloat f

/-- One addition of a sum (08 R180): integers wrap, floats add exactly and are written once. -/
def addElem (f : Nat) (fpctl : Word) (a b : Elem) : Elem × Flags :=
  if fmtInt f then (intElem f (intOf f a.bits + intOf f b.bits), 0)
  else elemOfParts f fpctl ((List.zip (partsOf f a) (partsOf f b)).map (fun p => fAdd (rndDown fpctl) p.1 p.2))

/-- The write of a value that no addition made (08 R180, R183). -/
def rewriteElem (f : Nat) (fpctl : Word) (a : Elem) : Elem × Flags :=
  if fmtInt f then (a, 0) else elemOfParts f fpctl ((partsOf f a).map (fun v => (v, (0 : Flags))))

/-- The active elements of a row, consumed, with their indices; fails at the position of the first poisoned one. -/
def activeRow (x : Hart) (f m v r vl : Nat) : List Nat → Except (Nat × Trap) (List (Nat × Elem))
  | [] => .ok []
  | i :: is =>
    if !x.maskBit m i then activeRow x f m v r vl is
    else
      let e := x.elem f (v + r) i
      if e.psn then .error (r * vl + i, poisonReg (v + r))
      else
        match activeRow x f m v r vl is with
        | .error t => .error t
        | .ok es => .ok ((i, e) :: es)

/-- A result for each row in order, all committed together (08 R179). -/
def eachRow (g : Hart → Nat → Except (Nat × Trap) Hart) : List Nat → Hart → Except (Nat × Trap) Hart
  | [], x => .ok x
  | r :: rs, x =>
    match g x r with
    | .error t => .error t
    | .ok y => eachRow g rs y

/-- A reduction of each row into element 0 (08 R179): g gives the result of a row from its active elements. -/
def redOp (accept : Nat → Bool) (d a : BitVec 5) (more : List (BitVec 5)) (m : Nat)
    (g : Hart → VEntry → Nat → List (Nat × Elem) → Except (Nat × Trap) (Elem × Flags)) : VOp :=
  { legal := fun x c => legalApart accept d (a :: more) x c
    reads := fun c => (a :: more).flatMap (fun v => fieldGroup v c)
    writes := fieldGroup d
    mreads := [m], mwrites := [], sweep := fun c => c.shape, conts := capConts, hwm := hwmGroup d
    perm := true, mem := false, fin := finNone
    run := .whole (fun s h e =>
      let sh := e.cap.shape
      let f := shFmt sh
      if shVL sh == 0 then .ok s
      else
        match eachRow (fun x r =>
            match g x e r [] with
            | .error (p, t) => if more.isEmpty then .ok x else .error (p, t)
            | .ok _ =>
              match activeRow x f m a.toNat r (shVL sh) (List.range (realLen sh)) with
              | .error t => .error t
              | .ok es =>
                match g x e r es with
                | .error t => .error t
                | .ok (el, fl) => .ok ((x.setElem f (d.toNat + r) 0 el).addFlags fl))
            (List.range (shRows sh)) (getHart s h) with
        | .error t => .error t
        | .ok x => .ok (putHart s h x)) }

/-- A running sum from a start, with flags. -/
def foldSum (f : Nat) (fpctl : Word) (acc : Elem × Flags) (es : List (Nat × Elem)) : Elem × Flags :=
  es.foldl (fun a e => let (s, fl) := addElem f fpctl a.1 e.2; (s, a.2 ||| fl)) acc

/-- vredsum.ord (08 R180): the initial value, then the active elements in ascending index. -/
def vredsumOrdOp (d a b : BitVec 5) (m : Nat) : VOp :=
  redOp fmtSum d a [b] m (fun x e r es =>
    let f := entryFmt e
    let c := e.cap.fpctl
    let i0 := x.elem f (b.toNat + r) 0
    if i0.psn then .error (r * shVL e.cap.shape, poisonReg (b.toNat + r))
    else if es.isEmpty then .ok (rewriteElem f c i0)
    else .ok (foldSum f c (i0, 0) es))

/-- vredsum.ord at the front end. -/
def execVredsumOrd (d a b : BitVec 5) (s m : BitVec 3) (st : State) : Out :=
  live st (commitVector (.vredsumOrd d a b s m) s.toNat 0 (vredsumOrdOp d a b m.toNat))

/-- One level of the tree of 02 R44: pairs in order, holes passed through. -/
def treeLevel (f : Nat) (fpctl : Word) : List (Option Elem) → List (Option Elem) × Flags
  | a :: b :: rest =>
    let (ys, fl) := treeLevel f fpctl rest
    match a, b with
    | some p, some q => let (s, fl2) := addElem f fpctl p q; (some s :: ys, fl2 ||| fl)
    | some p, none => (some p :: ys, fl)
    | none, q => (q :: ys, fl)
  | short => (short, 0)

/-- The levels of the tree; ten levels cover 512 positions. -/
def treeSum (f : Nat) (fpctl : Word) : Nat → List (Option Elem) × Flags → List (Option Elem) × Flags
  | 0, a => a
  | n + 1, a =>
    let (ys, fl) := treeLevel f fpctl a.1
    treeSum f fpctl n (ys, a.2 ||| fl)

/-- The elements of a row by position, holes where inactive or padding. -/
def withHoles (vl : Nat) (es : List (Nat × Elem)) : List (Option Elem) :=
  (List.range vl).map (fun i => (es.find? (fun e => e.1 == i)).map (fun e => e.2))

/-- vredsum.tree (08 R180, 02 R44): a sole active element is written as any value that no addition made (02 R34). -/
def vredsumTreeOp (d a : BitVec 5) (m : Nat) : VOp :=
  redOp fmtSum d a [] m (fun _ e _ es =>
    match es with
    | [p] => .ok (rewriteElem (entryFmt e) e.cap.fpctl p.2)
    | _ =>
      let (ys, fl) := treeSum (entryFmt e) e.cap.fpctl 10 (withHoles (shVL e.cap.shape) es, 0)
      match ys with
      | [some y] => .ok (y, fl)
      | _ => .ok (Elem.zero, fl))

/-- vredsum.tree at the front end. -/
def execVredsumTree (d a : BitVec 5) (s m : BitVec 3) (st : State) : Out :=
  live st (commitVector (.vredsumTree d a s m) s.toNat 0 (vredsumTreeOp d a m.toNat))

/-- Whether b replaces a in a maximum or minimum (08 R181): strictly beyond it, or the preferred zero among equals. -/
def replaces (f : Nat) (wantMax : Bool) (a b : Elem) : Bool :=
  if fmtInt f then
    if wantMax then intOf f a.bits < intOf f b.bits else intOf f b.bits < intOf f a.bits
  else
    let va := valOf f a
    let vb := valOf f b
    match fcompare va vb with
    | .lt => wantMax
    | .gt => !wantMax
    | .eq => signOf va != signOf vb && signOf va == wantMax
    | .un => false

/-- vredmax and vredmin (08 R181). -/
def vredmmOp (d a : BitVec 5) (m : Nat) (wantMax : Bool) : VOp :=
  redOp fmtMax d a [] m (fun _ e _ es =>
    let f := entryFmt e
    let nums := es.filter (fun p => !(fmtFloat f && isNan (valOf f p.2)))
    let sig := flagIf (fmtFloat f && es.any (fun p => isSig (valOf f p.2))) flagNV
    match nums with
    | p :: ps =>
      let best := ps.foldl (fun b q => if replaces f wantMax b q.2 then q.2 else b) p.2
      let (el, fl) := writeChosen f e.cap.fpctl best
      .ok (el, fl ||| sig)
    | [] =>
      match es with
      | p :: _ => let (el, fl) := writeChosen f e.cap.fpctl p.2; .ok (el, fl ||| sig)
      | [] =>
        if fmtInt f then .ok (intElem f (if wantMax then intLo f else intHi f), 0)
        else .ok ({ bits := (fpOf f).infCode wantMax, tail := 0, tail2 := 0, psn := false }, 0))

/-- vredmax at the front end. -/
def execVredmax (d a : BitVec 5) (s m : BitVec 3) (st : State) : Out :=
  live st (commitVector (.vredmax d a s m) s.toNat 0 (vredmmOp d a m.toNat true))

/-- vredmin at the front end. -/
def execVredmin (d a : BitVec 5) (s m : BitVec 3) (st : State) : Out :=
  live st (commitVector (.vredmin d a s m) s.toNat 0 (vredmmOp d a m.toNat false))

/-- Whether a ranks strictly above b in the selection order (08 R184). -/
def ranksAbove (f : Nat) (a b : Elem) : Bool :=
  if fmtInt f then intOf f b.bits < intOf f a.bits
  else
    let va := valOf f a
    let vb := valOf f b
    if isNan va then false else if isNan vb then true else fcompare va vb == .gt

/-- The active elements of every row, with their sweep positions. -/
def activeAll (x : Hart) (f m v vl n : Nat) : List Nat → Except (Nat × Trap) (List (Nat × Elem))
  | [] => .ok []
  | r :: rs =>
    match activeRow x f m v r vl (List.range n) with
    | .error t => .error t
    | .ok es =>
      match activeAll x f m v vl n rs with
      | .error t => .error t
      | .ok fs => .ok (es.map (fun p => (r * vl + p.1, p.2)) ++ fs)

/-- vargmax (08 R182): the position of the highest-ranked active element, or −1. -/
def vargmaxOp (a : BitVec 5) (m : Nat) : VOp :=
  syncOp (fun _ c => shapeOk c.slices c.shape fmtMax && groupsFit [a] c) (fieldGroup a) [m] (fun x e =>
    let sh := e.cap.shape
    let f := shFmt sh
    match activeAll x f m a.toNat (shVL sh) (realLen sh) (List.range (shRows sh)) with
    | .error t => .error t
    | .ok es =>
      let y := x.addFlags (flagIf (fmtFloat f && es.any (fun p => isSig (valOf f p.2))) flagNV)
      match es with
      | [] => .ok (BitVec.allOnes 64, y)
      | p :: ps => .ok (word (ps.foldl (fun b q => if ranksAbove f q.2 b.2 then q else b) p).1, y))

/-- vargmax at the front end. -/
def execVargmax (d a : BitVec 5) (s m : BitVec 3) (st : State) : Out :=
  live st (commitVector (.vargmax d a s m) s.toNat 0 (vargmaxOp a m.toNat))

/-- The running results of a scan, with indices (08 R183). -/
def scanRow (f : Nat) (fpctl : Word) (g : Elem → Elem → Elem × Flags) :
    Option Elem → List (Nat × Elem) → List (Nat × Elem) × Flags
  | _, [] => ([], 0)
  | acc, (i, e) :: es =>
    let (a, fl) := match acc with
      | none => rewriteElem f fpctl e
      | some p => g p e
    let (rest, fl2) := scanRow f fpctl g (some a) es
    ((i, a) :: rest, fl ||| fl2)

/-- A scan (08 R183): each active position takes the running result, padding is written zero, all at completion. -/
def scanOp (accept : Nat → Bool) (d a : BitVec 5) (m : Nat) (g : Nat → Word → Elem → Elem → Elem × Flags) : VOp :=
  { redOp accept d a [] m (fun _ _ _ _ => .ok (Elem.zero, 0)) with
    run := .whole (fun s h e =>
      let sh := e.cap.shape
      let f := shFmt sh
      if shVL sh == 0 then .ok s
      else
        match eachRow (fun x r =>
            match activeRow x f m a.toNat r (shVL sh) (List.range (realLen sh)) with
            | .error t => .error t
            | .ok es =>
              let (out, fl) := scanRow f e.cap.fpctl (g f e.cap.fpctl) none es
              let y := out.foldl (fun (x : Hart) p => x.setElem f (d.toNat + r) p.1 p.2) x
              let z := ((List.range (shVL sh)).drop (realLen sh)).foldl (fun (x : Hart) i => x.zeroElem f (d.toNat + r) i) y
              .ok (z.addFlags fl))
            (List.range (shRows sh)) (getHart s h) with
        | .error t => .error t
        | .ok x => .ok (putHart s h x)) }

/-- vscan.add at the front end. -/
def execVscanAdd (d a : BitVec 5) (s m : BitVec 3) (st : State) : Out :=
  live st (commitVector (.vscanAdd d a s m) s.toNat 0 (scanOp fmtSum d a m.toNat addElem))

/-- The step of vscan.max: the choice of vfmax with the running result as operand a; integers by signedness. -/
def scanMax (f : Nat) (fpctl : Word) (p q : Elem) : Elem × Flags :=
  if fmtInt f then (if intOf f p.bits < intOf f q.bits then q else p, 0)
  else
    let (el, fl) := writeChosen f fpctl (chooseF f true p q)
    (el, fl ||| flagIf (isSig (valOf f p) || isSig (valOf f q)) flagNV)

/-- vscan.max at the front end. -/
def execVscanMax (d a : BitVec 5) (s m : BitVec 3) (st : State) : Out :=
  live st (commitVector (.vscanMax d a s m) s.toNat 0 (scanOp fmtMax d a m.toNat scanMax))

/-- The candidate passed down the slots of one element (08 R185): k slots from n on. An index moves with the poison of its container; the
manual's pseudocode names its bits 31:0 and tail 0b00 alone (DESIGN CHOICE, log entry 91). -/
def topkStep (f : Nat) (fpctl : Word) (d k i : Nat) : List Nat → Elem → BitVec 36 → Hart → Hart
  | [], _, _, x => x
  | n :: ns, cand, j, x =>
    let held := x.elem f (d + n) i
    let sig := fmtFloat f && (isSig (valOf f cand) || isSig (valOf f held))
    let x1 := x.addFlags (flagIf sig flagNV)
    if ranksAbove f cand held then
      let (el, fl) := if isNan (valOf f cand) && fmtFloat f then (cand, (0 : Flags)) else writeChosen f fpctl cand
      let jj := x1.getC (d + k + n) i
      let y := (x1.setElem f (d + n) i el).addFlags fl
      topkStep f fpctl d k i ns held jj (y.setC (d + k + n) i (mkC (cPsn j) 0 (cData j)))
    else topkStep f fpctl d k i ns cand j x1

/-- vtopk (08 R185): keeps the k best candidates of each element. -/
def vtopkOp (d a : BitVec 5) (k : Nat) : VOp :=
  { legal := fun _ c =>
      shapeOk c.slices c.shape fmtMax && shRows c.shape == 1 && 1 ≤ k && k ≤ 8 && a.toNat < 31 && groupOk d.toNat (2 * k) &&
      disjointGroups d.toNat (2 * k) a.toNat 2
    reads := fun _ => groupRegs a.toNat 2 ++ groupRegs d.toNat (2 * k)
    writes := fun _ => groupRegs d.toNat (2 * k)
    mreads := [], mwrites := [], sweep := fun c => c.shape, conts := capConts
    hwm := fun c => some (if fmtTwo (shFmt c.shape) then 2 * shVL c.shape else shVL c.shape, d.toNat + 2 * k - 1)
    perm := false, mem := false, fin := finNone
    run := .pos (fun s h e _ i =>
      let x := getHart s h
      let f := entryFmt e
      if realLen e.cap.shape ≤ i then
        .ok (putHart s h ((List.range k).foldl
          (fun (x : Hart) n => (x.zeroElem f (d.toNat + n) i).setC (d.toNat + k + n) i 0) x))
      else if !x.maskBit (maskField e.instr) i then .ok s
      else
        .ok (putHart s h
          (topkStep f e.cap.fpctl d.toNat k i (List.range k) (x.elem f a.toNat i) (x.getC (a.toNat + 1) i) x))) }

/-- vtopk at the front end. -/
def execVtopk (d a k : BitVec 5) (s m : BitVec 3) (st : State) : Out :=
  live st (commitVector (.vtopk d a k s m) s.toNat 0 (vtopkOp d a k.toNat))

end Sys2Proof.Machine
end

