-- ==== Sys2Proof/Machine/Exchange.lean ====
section
/-! DEFINITION. The sorted exchange (10 R216 to R240, R242): rendezvous, sending, merging, delivery, the Beacon and status. -/

namespace Sys2Proof.Machine

/-! Contexts and members. -/

/-- The member that a context of a hart is, if it has not left. -/
def XCtx.memberOf (c : XCtx) (ctx : Nat) : Option XMember := c.members.find? (fun m => m.ctx == ctx && !m.left)

/-- The exchange context with the member of a rank changed. -/
def XCtx.setMember (c : XCtx) (rank : Nat) (f : XMember → XMember) : XCtx :=
  { c with members := c.members.map (fun m => if m.rank == rank then f m else m) }

/-- The state with a slot's exchange context changed. -/
def putX (s : State) (slot : Nat) (c : XCtx) : State := { s with xctx := smPut s.xctx slot c }

/-- KEYW in bits. -/
def XCtx.keyBits (c : XCtx) : Nat := 16 * 2 ^ c.keyw

/-- Counts of zero (10 Table 10.9). -/
def XStats.zero : XStats :=
  { primary := 0, overflow := 0, dropped := 0, unposted := 0, sentUnposted := 0, unreachable := 0, flags := 0 }

/-- A member that begins at a rendezvous. -/
def XMember.fresh (rank pkg hart ctx : Nat) (buf : Option XBuf) : XMember :=
  { rank := rank, pkg := pkg, hart := hart, ctx := ctx, arrived := false, waiting := none, ended := false,
    sent := 0, left := false, lastKey := none, trains := [], cur := buf, next := none, split := none, delivered := 0,
    stats := XStats.zero, last := XStats.zero }

/-- The check of a handle (10 R219, Table 10.4): the slot, the context, and this hart's membership. member: the hart must be one;
partly: a context closed with partial status is accepted. -/
def xcheck (s : State) (v : Word) (member partly : Bool) : Except Trap (Nat × XCtx × Option XMember) :=
  match (if v.toNat < 64 then smFind s.xctx v.toNat else none) with
  | none => .error (badtile v 64)
  | some c =>
    if c.forLens then .error (badtile v 64)
    else
      let m := c.memberOf (curHart s).ctx
      if member && m.isNone then .error (badtile v 65)
      else if c.isPartial && !partly then .error (badtile v 66)
      else .ok (v.toNat, c, m)

/-- The lowest free slot of the package (10 R217). -/
def freeXSlot (s : State) : Option Nat := (List.range 64).find? (fun n => (smFind s.xctx n).isNone)

/-- Memberships that a context of a hart holds (10 R217). -/
def membershipsOf (s : State) (ctx : Nat) : Nat := (s.xctx.filter (fun c => (c.2.memberOf ctx).isSome)).length

/-- Queued commands that name a slot end when the slot is freed. -/
def XKind.released (slot : Nat) (k : XKind) : XKind :=
  match k with
  | .xend n _ _ => if n == slot then .nothing else k
  | .post n _ => if n == slot then .nothing else k
  | .close n => if n == slot then .nothing else k
  | _ => k

/-- The queue without its leading completed commands, and the timeline past them (05 R117). -/
def settleXch : List XchCmd → Timeline → List XchCmd × Timeline
  | [], t => ([], t)
  | c :: q, t => if c.kind == .nothing then settleXch q (t.complete 0 none) else (c :: q, t)

/-- The engines with the leading completed commands of the exchange context counted. -/
def Engines.settleX (g : Engines) : Engines :=
  let (q, t) := settleXch g.xchQ g.xch
  { g with xchQ := q, xch := t }

/-- The engines once a slot is freed. -/
def Engines.releaseSlot (g : Engines) (slot : Nat) : Engines :=
  { g with xchQ := g.xchQ.map (fun (c : XchCmd) => { c with kind := c.kind.released slot }) }.settleX

/-- The state with a slot freed (10 R223). -/
def freeX (s : State) (slot : Nat) : State :=
  { s with
    xctx := smErase s.xctx slot
    harts := s.harts.map (fun (p : Nat × Hart) => (p.1, { p.2 with eng := p.2.eng.releaseSlot slot }))
    saved := s.saved.map (fun (v : Saved) => { v with eng := v.eng.releaseSlot slot }) }

/-! Rendezvous (10 R216 to R218). -/

/-- The offset of the first field of an exchange descriptor that breaks Table 10.2. -/
def xopenDescError (bs : List Byte) : Option Nat :=
  let nmem := fieldAt bs 4 4
  let ctrl := fieldAt bs 16 8
  let plen := ctrl / 4 % 128
  let ptype := ctrl / 2 ^ 9 % 8
  let comb := ctrl / 2 ^ 12 % 8
  let samp := ctrl / 2 ^ 19 % 32
  if nmem = 0 || 65536 < nmem then some 4
  else if nmem ≤ fieldAt bs 8 4 then some 8
  else if fieldAt bs 12 4 = 0 || nmem < fieldAt bs 12 4 then some 12
  else if ctrl % 4 = 3 || 64 < plen || 4 < ptype || 4 < comb || 4 < ctrl / 2 ^ 15 % 8 || (16 ≤ samp && samp ≤ 30) || ctrl / 2 ^ 24 != 0 ||
      (ptype == 3 && plen % 2 == 1) || (ptype == 4 && comb != 0) || (comb == 4 && (plen != 1 || ptype != 2)) ||
      (1 ≤ comb && comb ≤ 3 && plen == 0) then some 16
  else if fieldAt bs 40 8 != 0 || fieldAt bs 48 8 != 0 || fieldAt bs 56 8 != 0 then some 40
  else none

/-- A gathering whose arrivals are complete (10 R216): offset of the count in the first arrival's descriptor. -/
def Gathering.full (g : Gathering) (off len : Nat) : Bool :=
  match g.arrivals with
  | [] => false
  | a :: _ => fieldAt a.desc off len ≤ g.arrivals.length

/-- The gatherings with an arrival joined to the open one of its tag, or opening one (10 R216). -/
def joinGathering (full : Gathering → Bool) (tag : BitVec 32) (a : Arrival) : List Gathering → List Gathering
  | [] => [{ tag := tag, arrivals := [a] }]
  | g :: gs =>
    if g.tag == tag && !full g then { g with arrivals := g.arrivals ++ [a] } :: gs else g :: joinGathering full tag a gs

/-- The identity of a context that runs on a hart of another package. -/
def remoteCtx (pkg hart : Nat) : Nat := 2 ^ 40 + pkg * 4096 + hart % 4096

/-- Whether an identity is that of a context of another package. -/
def isRemote (ctx : Nat) : Bool := 2 ^ 40 ≤ ctx

/-- Gatherings of an exchange count to NMEM. -/
def xFull (g : Gathering) : Bool := g.full 4 4

/-- The arrival of the executing hart. -/
def arrivalOf (s : State) (bs : List Byte) (pages : PageMap) : Arrival :=
  let x := curHart s
  { ctx := x.ctx, pkg := Config.pkg.toNat, hart := s.cur, desc := bs, user := x.user, root := x.csr.ptroot, pages := pages,
    splits := [], room := true, held := 0 }

/-- The gatherings without the arrivals of a context. -/
def withdrawArrivals (gs : List Gathering) (ctx : Nat) : List Gathering :=
  (gs.map (fun g => { g with arrivals := g.arrivals.filter (fun a => a.ctx != ctx) })).filter (fun g => !g.arrivals.isEmpty)

/-- The executing hart takes its rendezvous result: the value to sD, then the trap of a failed read, whose TPC is the next instruction
(10 R218). -/
def takeOpened (s : State) (d : BitVec 5) (o : OpenResult) : State :=
  let s1 := retireS { s with opened := s.opened.filter (fun p => p != o) } d o.value
  match o.trap with
  | none => s1
  | some t => trapHere s1 t

/-- xopen (10 R216): its arrival is made once, and the hart waits at it for the result. The descriptor is read behind every older access of the
hart (12 R264). -/
def execXopen (d a : BitVec 5) (st : State) : Out :=
  live st (orderedIssue (fun s =>
    let x := curHart s
    let va := x.getS a
    match s.opened.find? (fun o => o.ctx == x.ctx && !o.lens) with
    | some o => takeOpened s d o
    | none =>
      if s.xgather.any (fun g => g.arrivals.any (fun q => q.ctx == x.ctx)) then s
      else if va.toNat % 64 != 0 then trapHere s (alignTrap va)
      else
        match readWords s (agentOf s s.cur) va va 8 with
        | .error e => trapHere e.state e.trap
        | .ok (ws, s1) =>
          let bs := bytesOfWords ws
          match xopenDescError bs with
          | some off => trapHere s1 (badtile va off)
          | none =>
            let g := joinGathering xFull (BitVec.ofNat 32 (fieldAt bs 0 4)) (arrivalOf s1 bs []) s1.xgather
            { s1 with xgather := g }))

/-- The agent of an arrival: its hart's own paths while its context is bound. -/
def arrivalAgent (s : State) (a : Arrival) : Agent :=
  { core := coreOf a.hart, root := a.root, user := a.user, hart := (hartOfCtx s a.ctx).getD 4096 }

/-- The even division of the key words (10 R218). -/
def evenSplits (bits nrecv : Nat) : List Nat := (List.range (nrecv - 1)).map (fun i => (i + 1) * 2 ^ bits / nrecv)

/-- Whether splitters stand in ascending or equal order (10 R225). -/
def ascending : List Nat → Bool
  | [] => true
  | x :: xs => (match xs with | [] => true | y :: _ => decide (x ≤ y)) && ascending xs

/-- Splitters read from memory (10 R225, R226): a value that reaches 2^KEYW takes effect as 2^KEYW. The words must ascend as they are stored:
10 R225 does not say whether its order holds before or after a large value takes its effect (DESIGN CHOICE, log entry 121). -/
def readSplits (s : State) (a : Agent) (va : Word) (bits nrecv : Nat) : Except Stop (List Nat × State) :=
  if va.toNat % 8 != 0 then .error { trap := alignTrap va, state := s }
  else
    match readWords s a va va (nrecv - 1) with
    | .error t => .error t
    | .ok (ws, s1) =>
      if ascending ws then .ok (ws.map (fun w => min w (2 ^ bits)), s1) else .error { trap := badtile va 67, state := s1 }

/-- The offset of the first field of a receive-buffer descriptor that breaks Table 10.8. -/
def bufDescError (bs : List Byte) : Option Nat :=
  if fieldAt bs 0 8 % 8 != 0 then some 0
  else if fieldAt bs 16 8 % 8 != 0 then some 16
  else if fieldAt bs 24 8 != 0 || fieldAt bs 32 8 != 0 || fieldAt bs 40 8 != 0 || fieldAt bs 48 8 != 0 || fieldAt bs 56 8 != 0 then some 24
  else none

/-- A receive-buffer descriptor read at an address (10 R233). -/
def readBuf (s : State) (a : Agent) (va : Word) : Except Stop (XBuf × State) :=
  if va.toNat % 64 != 0 then .error { trap := alignTrap va, state := s }
  else
    match readWords s a va va 8 with
    | .error t => .error t
    | .ok (ws, s1) =>
      let bs := bytesOfWords ws
      match bufDescError bs with
      | some off => .error { trap := badtile va off, state := s1 }
      | none =>
        .ok ({ prim := word (fieldAt bs 0 8), pcap := fieldAt bs 8 4, ocap := fieldAt bs 12 4, ovf := word (fieldAt bs 16 8),
               root := a.root, user := a.user, core := a.core, pages := [] }, s1)

/-- Pages of a region translated one by one; those that fault are left out (10 R233). -/
def translateEach (a : Agent) (va : Word) (n : Nat) : List Nat → State → PageMap × State
  | [], s => ([], s)
  | p :: ps, s =>
    let first := if p = va.toNat / 65536 then va else word (p * 65536)
    match translate s a first .store with
    | .error e => translateEach a va n ps e.state
    | .ok (e, s1) =>
      let (m, s2) := translateEach a va n ps s1
      (keptPage e first :: m, s2)

/-- A buffer made active: its regions are translated (10 R233). -/
def activate (s : State) (plen : Nat) (b : XBuf) : XBuf × State :=
  let a : Agent := { core := b.core, root := b.root, user := b.user, hart := 4096 }
  let n1 := b.pcap * recordBytes plen
  let n2 := b.ocap * recordBytes plen
  let (m1, s1) := translateEach a b.prim n1 (pageList b.prim.toNat n1) s
  let (m2, s2) := translateEach a b.ovf n2 (pageList b.ovf.toNat n2) s1
  ({ b with pages := m1 ++ m2 }, s2)

/-- The failure of a rendezvous, if there is one, in the order of R216. -/
def xopenFailure (s : State) (as : List Arrival) : Option Int :=
  let ranks := as.map (fun a => fieldAt a.desc 8 4)
  let same := match as with
    | [] => true
    | a :: rest => rest.all (fun b =>
        fieldAt a.desc 4 4 == fieldAt b.desc 4 4 && fieldAt a.desc 12 4 == fieldAt b.desc 12 4 &&
        fieldAt a.desc 16 8 == fieldAt b.desc 16 8)
  if !same then some (-2)
  else if ranks.eraseDups.length != ranks.length then some (-3)
  else if as.any (fun a => 8 ≤ (if isRemote a.ctx then a.held else membershipsOf s a.ctx)) then some (-4)
  else if (freeXSlot s).isNone || as.any (fun a => !a.room) then some (-1)
  else none

/-- The results that a rendezvous leaves for the harts of this package. -/
def ownResults (os : List OpenResult) : List OpenResult := os.filter (fun o => !isRemote o.ctx)

/-- Each member's step-0 buffer, with the trap of a failed read; a member of another package has its buffer there. -/
def openBuffers (plen : Nat) : List Arrival → State → List (Option XBuf × Option Trap) × State
  | [], s => ([], s)
  | a :: as, s =>
    let va := word (fieldAt a.desc 32 8)
    let (r, s1) : (Option XBuf × Option Trap) × State :=
      if va = 0 || isRemote a.ctx then ((none, none), s)
      else
        match readBuf s (arrivalAgent s a) va with
        | .error e => ((none, some e.trap), e.state)
        | .ok (b, s2) => let (c, s3) := activate s2 plen b; ((some c, none), s3)
    let (rs, s4) := openBuffers plen as s1
    (r :: rs, s4)

/-- The rendezvous of a complete gathering: a context in the lowest free slot, and each member's result (10 R216 to R218). A member whose reads
of SPLIT and of BUF0 both fail takes the trap of SPLIT alone: the manual has one trap, and gives no order (DESIGN CHOICE, log entry 98). A
package that holds no member takes no part (R217). -/
def formExchange (s : State) (as : List Arrival) : State :=
  if as.all (fun a => isRemote a.ctx) then s
  else
  match xopenFailure s as, freeXSlot s, as with
  | some v, _, _ =>
    let out := as.map (fun a => ({ ctx := a.ctx, lens := false, value := wordOfInt v, trap := none } : OpenResult))
    { s with opened := s.opened ++ ownResults out }
  | none, some slot, first :: _ =>
    let ctrl := fieldAt first.desc 16 8
    let nrecv := fieldAt first.desc 12 4
    let keyw := ctrl % 4
    let bits := 16 * 2 ^ keyw
    let plen := ctrl / 4 % 128
    let zero := as.find? (fun a => fieldAt a.desc 8 4 == 0)
    let even := evenSplits bits nrecv
    let (splits, bad, s1) : List Nat × Option Trap × State :=
      match zero with
      | none => (even, none, s)
      | some a =>
        let va := word (fieldAt a.desc 24 8)
        if isRemote a.ctx then (if a.splits.isEmpty then even else a.splits, none, s)
        else if va = 0 then (even, none, s)
        else
          match readSplits s (arrivalAgent s a) va bits nrecv with
          | .error e => (even, some e.trap, e.state)
          | .ok (l, s2) => (l, none, s2)
    let (bufs, s2) := openBuffers plen as s1
    let members := (List.zip as bufs).map (fun p => XMember.fresh (fieldAt p.1.desc 8 4) p.1.pkg p.1.hart p.1.ctx p.2.1)
    let c : XCtx :=
      { tag := BitVec.ofNat 32 (fieldAt first.desc 0 4), nmem := fieldAt first.desc 4 4, nrecv := nrecv, keyw := keyw,
        plen := plen, ptype := ctrl / 2 ^ 9 % 8, comb := ctrl / 2 ^ 12 % 8, drnd := ctrl / 2 ^ 15 % 8, pin := bitOf ctrl 18,
        samp := ctrl / 2 ^ 19 % 32, splits := splits, pendHw := none, step := 0,
        members := sortBy (fun a b => a.rank < b.rank) members, flight := [], tails := [], away := [], landed := [], injected := [],
        samples := [], lastSamples := [], hist := [], lastHist := [], isPartial := false, forLens := false }
    let result := fun (p : Arrival × (Option XBuf × Option Trap)) =>
      let t := if fieldAt p.1.desc 8 4 == 0 then bad.or p.2.2 else p.2.2
      ({ ctx := p.1.ctx, lens := false, value := word slot, trap := t } : OpenResult)
    putX { s2 with opened := s2.opened ++ ownResults ((List.zip as bufs).map result) } slot c
  | _, _, _ => s

/-- XOPEN_RENDEZVOUS (10 R216): the first complete gathering of a tag forms its rendezvous. -/
def xopenRendezvous (s : State) (tag : BitVec 32) : State :=
  match s.xgather.find? (fun g => g.tag == tag && xFull g) with
  | none => s
  | some g => formExchange { s with xgather := s.xgather.erase g } g.arrivals

/-- The event of a rendezvous. -/
def execXopenRendezvous (tag : BitVec 32) (st : State) : Out := live st (fun s => xopenRendezvous s tag)

/-! Commands. -/

/-- Queues an exchange command at the executing hart; a command that completes at once does so when none before it is left. -/
def issueXch (s : State) (k : XKind) (pages : PageMap) : State :=
  let x := curHart s
  let g := x.eng
  let c : XchCmd := { num := g.xch.issued + 1, kind := k, pages := pages }
  putCur s { x with eng := { g with xch := g.xch.issue, xchQ := g.xchQ ++ [c] }.settleX }

/-- The number that the executing hart's next exchange command receives. -/
def nextXch (s : State) : Word := (curHart s).eng.xch.issued + 1

/-- An exchange command issued, its number written to sD. -/
def commandXch (s : State) (d : BitVec 5) (k : XKind) (pages : PageMap) : State :=
  let n := nextXch s
  retireS (issueXch s k pages) d n

/-- Whether an xsend of the hart has not run yet. -/
def xsendPending (x : Hart) : Bool := x.viq.any (fun e => match e.instr with | .xsend .. => true | _ => false)

/-- The tails of a member sent to every receiver (10 R221). -/
def endTrains (c : XCtx) (rank : Nat) : XCtx :=
  let d := c.setMember rank (fun m => { m with ended := true })
  { d with tails := d.tails ++ (List.range d.nrecv).map (fun r => (rank, r)) }

/-- The xend of a member: the trains closed, and the command issued. -/
def performXend (s : State) (slot : Nat) (c : XCtx) (m : XMember) : State :=
  issueXch (putX s slot (endTrains c m.rank)) (.xend slot c.step m.rank) []

/-- xend (10 R221). -/
def execXend (d a : BitVec 5) (st : State) : Out :=
  live st (orderedIssue (fun s =>
    match xcheck s ((curHart s).getS a) true false with
    | .error t => trapHere s t
    | .ok (slot, c, some m) =>
      if xsendPending (curHart s) then s
      else if m.ended then commandXch s d .nothing []
      else
        let n := nextXch s
        retireS (performXend s slot c m) d n
    | .ok _ => s))

/-- A command of a slot that an arrival at the Beacon waits for (18 R363). -/
def XKind.holdsStep (slot : Nat) (k : XKind) : Bool :=
  match k with
  | .xend n _ _ => n == slot
  | .post n _ => n == slot
  | _ => false

/-- Whether the executing hart still has such a command. -/
def stepHeld (s : State) (slot : Nat) : Bool := (curHart s).eng.xchQ.any (fun c => c.kind.holdsStep slot)

/-- One visit of a member to its xstep (10 R222): what is left of the xend and of the arrival is done, and the hart waits. The result is
the completed step once the Beacon has released it. -/
def stepVisit (s : State) (slot : Nat) (c : XCtx) (m : XMember) : State × Option Nat :=
  match m.waiting with
  | some k => if k < c.step then (putX s slot (c.setMember m.rank (fun n => { n with waiting := none })), some k) else (s, none)
  | none =>
    if xsendPending (curHart s) then (s, none)
    else if !m.ended then (performXend s slot c m, none)
    else if stepHeld s slot then (s, none)
    else (putX s slot (c.setMember m.rank (fun n => { n with arrived := true, waiting := some c.step })), none)

/-- xstep (10 R222): every older access of the hart is performed before its arrival (12 R272). -/
def execXstep (d a : BitVec 5) (st : State) : Out :=
  live st (orderedIssue (fun s =>
    match xcheck s ((curHart s).getS a) true true with
    | .error t => trapHere s t
    | .ok (slot, c, some m) =>
      if c.isPartial then retireS s d (wordOfInt (-1))
      else
        match stepVisit s slot c m with
        | (s1, some k) => retireS s1 d (word k)
        | (s1, none) => s1
    | .ok _ => s))

/-- Whether every member of a context has left. -/
def XCtx.deserted (c : XCtx) : Bool := c.members.all (fun m => m.left)

/-- A member leaves (10 R223): its later buffers are withdrawn. -/
def leaveX (c : XCtx) (rank : Nat) (dropCur : Bool) : XCtx :=
  c.setMember rank (fun m => { m with left := true, arrived := true, waiting := none, next := none, cur := if dropCur then none else m.cur })

/-- One visit of a member to its close (10 R223): the xstep of a member that has sent records comes first, and its buffer for the step after
that, which it does not take part in, is withdrawn with it (DESIGN CHOICE, log entry 99: the manual withdraws buffers for a step that the
member does not reach, and does not say whether it reaches this one). Whether the close command has been issued. -/
def closeVisit (s : State) (slot : Nat) (c : XCtx) (m : XMember) : State × Bool :=
  let shut := fun (s : State) (c : XCtx) (dropCur : Bool) => (issueXch (putX s slot (leaveX c m.rank dropCur)) (.close slot) [], true)
  if c.isPartial then shut s c true
  else if xsendPending (curHart s) then (s, false)
  else if m.waiting.isSome || 0 < m.sent then
    match stepVisit s slot c m with
    | (s1, some _) => shut s1 c true
    | (s1, none) => (s1, false)
  else if (curHart s).eng.xchQ.any (fun q => match q.kind with | .post n _ => n == slot | _ => false) then (s, false)
  else if m.ended then shut s c false
  else shut (performXend s slot c m) (endTrains c m.rank) false

/-- xclose (10 R223). -/
def execXclose (d a : BitVec 5) (st : State) : Out :=
  live st (orderedIssue (fun s =>
    match xcheck s ((curHart s).getS a) true true with
    | .error t => trapHere s t
    | .ok (slot, c, some m) =>
      (match closeVisit s slot c m with
       | (s1, true) => retireS s1 d (curHart s1).eng.xch.issued
       | (s1, false) => s1)
    | .ok _ => s))

/-- xsplit (10 R226). -/
def execXsplit (d a b : BitVec 5) (st : State) : Out :=
  live st (orderedIssue (fun s =>
    let x := curHart s
    match xcheck s (x.getS a) true false with
    | .error t => trapHere s t
    | .ok (slot, c, some m) =>
      (match readSplits s (agentOf s s.cur) (x.getS b) c.keyBits c.nrecv with
       | .error e => trapHere e.state e.trap
       | .ok (l, s1) => commandXch (putX s1 slot (c.setMember m.rank (fun n => { n with split := some l }))) d .nothing [])
    | .ok _ => s))

/-- xpost (10 R233): a second one in a step replaces the first. -/
def execXpost (d a b : BitVec 5) (st : State) : Out :=
  live st (orderedIssue (fun s =>
    let x := curHart s
    match xcheck s (x.getS a) true false with
    | .error t => trapHere s t
    | .ok (slot, c, some m) =>
      (match readBuf s (agentOf s s.cur) (x.getS b) with
       | .error e => trapHere e.state e.trap
       | .ok (buf, s1) =>
         commandXch (putX s1 slot (c.setMember m.rank (fun n => { n with next := some buf }))) d (.post slot c.step) [])
    | .ok _ => s))

/-- xfence (10 R236): every released step has landed in this model, so it waits for nothing. -/
def execXfence (a : BitVec 5) (st : State) : Out :=
  live st (fun s =>
    match xcheck s ((curHart s).getS a) false true with
    | .error t => trapHere s t
    | .ok _ => retire s (fun x => x))

/-- A count of 32 bits that saturates. -/
def sat32 (n : Nat) : Nat := min n (2 ^ 32 - 1)

/-- The value of an xstat item (10 Table 10.9). -/
def xstatItem (c : XCtx) (m : Option XMember) (item : Nat) : Nat :=
  let l := match m with | some m => m.last | none => XStats.zero
  match item with
  | 0 => sat32 c.step
  | 1 => sat32 l.primary
  | 2 => sat32 l.overflow
  | 3 => sat32 l.dropped
  | 4 => sat32 l.unposted
  | 5 => sat32 l.sentUnposted
  | 6 => l.flags.toNat
  | 7 => (if c.isPartial then 1 else 0) + (if c.pin then 2 else 0) +
      (if c.pendHw.isSome || c.members.any (fun m => m.split.isSome) then 4 else 0) + (if m.isSome then 8 else 0)
  | 8 => sat32 c.lastSamples.length
  | _ => sat32 (match m with | some m => m.stats.unreachable | none => 0)

/-- xstat (10 R237). -/
def execXstat (d a : BitVec 5) (i : BitVec 4) (st : State) : Out :=
  live st (fun s =>
    if 10 ≤ i.toNat then illegal s (.xstat d a i)
    else
      match xcheck s ((curHart s).getS a) (i != 0 && i != 7) true with
      | .error t => trapHere s t
      | .ok (_, c, m) => retireS s d (word (xstatItem c m i.toNat)))

/-- Splitters computed from samples (10 R239). -/
def sampleSplits (samples : List Nat) (nrecv : Nat) : List Nat :=
  let u := sortBy (fun a b => a < b) samples
  (List.range (nrecv - 1)).map (fun i => u.getD ((i + 1) * u.length / nrecv) 0)

/-- xsample in hardware mode (10 R239). -/
def execXsample (d a : BitVec 5) (st : State) : Out :=
  live st (orderedIssue (fun s =>
    match xcheck s ((curHart s).getS a) true false with
    | .error t => trapHere s t
    | .ok (slot, c, _) =>
      let c1 := if c.pin || c.lastSamples.isEmpty then c else { c with pendHw := some (sampleSplits c.lastSamples c.nrecv) }
      commandXch (putX s slot c1) d .nothing []))

/-- Offset of KEYS in a sample area (10 Table 10.10). -/
def keysOffset (nrecv : Nat) : Nat := (16 + 4 * nrecv + 7) / 8 * 8

/-- xsample.host (10 R239): the area's pages are translated now; the samples and counts are those of the last step. -/
def execXsampleHost (d a b : BitVec 5) (st : State) : Out :=
  live st (orderedIssue (fun s =>
    let x := curHart s
    let va := x.getS b
    match xcheck s (x.getS a) true false with
    | .error t => trapHere s t
    | .ok (slot, c, some m) =>
      if va.toNat % 8 != 0 then trapHere s (alignTrap va)
      else
        (match loadNat s (agentOf s s.cur) va 4 with
         | .error e => trapHere e.state e.trap
         | .ok (cap, s1) =>
           let keys := (sortBy (fun p q => p < q) c.lastSamples).take cap
           let n := keysOffset c.nrecv + 8 * keys.length
           let hist := (List.range c.nrecv).map (fun r => smGet 0 c.lastHist r)
           match translatePages s1 (agentOf s1 s.cur) va n .store (pageList va.toNat n) with
           | .error e => trapHere e.state e.trap
           | .ok (pages, s2) =>
             let sat := hist.any (fun k => 2 ^ 32 ≤ k)
             let c1 := c.setMember m.rank (fun n =>
               { n with last := { n.last with flags := setFlags n.last.flags (flagIf sat flagSAT) } })
             commandXch (putX s2 slot c1) d (.sampleHost va (hist.map sat32) keys c.lastSamples.length) pages)
    | .ok _ => s))

/-- The bytes of a sample area written (10 Table 10.10). -/
def writeSamples (s : State) (core : Nat) (c : XchCmd) (va : Word) (hist keys : List Nat) (count : Nat) : State :=
  let put := fun (s : State) (off v n : Nat) => keptWrite s core c.pages 0 (va + word off) v n
  let s1 := put (put (put s 4 count 4) 8 hist.length 4) 12 0 4
  let s2 := (List.zip (List.range hist.length) hist).foldl (fun s p => put s (16 + 4 * p.1) p.2 4) s1
  (List.zip (List.range keys.length) keys).foldl (fun s p => put s (keysOffset hist.length + 8 * p.1) p.2 8) s2

/-- Whether a queued exchange command can complete. -/
def xchDone (s : State) (k : XKind) : Bool :=
  let ctx := fun (slot : Nat) => smFind s.xctx slot
  match k with
  | .nothing => false
  | .post .. => true
  | .sampleHost .. => true
  | .xend slot step rank =>
    (match ctx slot with
     | none => true
     | some c => c.isPartial || step < c.step || (List.range c.nrecv).all (fun r => c.landed.contains (rank, r)))
  | .close slot =>
    (match ctx slot with
     | none => true
     | some c => c.isPartial || c.deserted)

/-- EXCHANGE_COMMAND_COMPLETE (10 R242): the first command that can complete does so, and the counter passes every command that has. -/
def exchangeComplete (s : State) (w : Holder) : State :=
  let g := getEng s w
  match g.xchQ.find? (fun c => xchDone s c.kind) with
  | none => s
  | some c =>
    let core := match w with
      | .hart h => coreOf h
      | .saved ctx => match savedCtx s ctx with | some v => v.core | none => 0
    let s1 := match c.kind with
      | .sampleHost va hist keys count => writeSamples s core c va hist keys count
      | _ => s
    let g1 := getEng s1 w
    let done := { g1 with xchQ := g1.xchQ.map (fun (q : XchCmd) => if q.num == c.num then { q with kind := .nothing } else q) }
    let s2 := putEng s1 w done.settleX
    match c.kind with
    | .close slot =>
      (match smFind s2.xctx slot with
       | some x => if x.deserted then freeX s2 slot else s2
       | none => s2)
    | _ => s2

/-- The event of a completing exchange command. -/
def execExchangeCommandComplete (h : Nat) (st : State) : Out := live st (fun s => exchangeComplete s (holderOf h))

/-! Sending (10 R225, R227 to R229). -/

/-- Payload registers that a context reads (10 Table 10.5). -/
def payloadRegs (c : XCtx) : Nat := if c.comb == 4 then 0 else if c.ptype == 1 then 2 * c.plen else c.plen

/-- The receiver of a key word (10 R225). -/
def receiverOf (c : XCtx) (key : Nat) : Nat := (c.splits.filter (fun p => p ≤ key)).length

/-- The register format in which a stream supplies payload elements (log entry 24). -/
def payloadFmt (c : XCtx) : Nat :=
  match c.ptype with
  | 0 => 12
  | 1 => 11
  | 2 => 2
  | 3 => 3
  | _ => 6

/-- The first payload register that is bound to an in-stream (10 R227). -/
def payloadStream (x : Hart) (c : XCtx) (b : Nat) : Option Nat :=
  (groupRegs b (payloadRegs c)).find? (fun v => match x.streamAt v with | some t => !t.out | none => false)

/-- A payload container with what its type keeps of it. -/
def payloadWord (ptype : Nat) (c : BitVec 36) : BitVec 36 :=
  if ptype == 0 then mkC false (cTail c) (cData c)
  else if ptype == 1 then mkC false (cTail c) (cData c % 65536)
  else mkC false 0 (cData c)

/-- The payload of record i from registers: POISON at a poisoned container. -/
def payloadFrom (x : Hart) (ptype i : Nat) : List Nat → Except Trap (List (BitVec 36))
  | [] => .ok []
  | v :: vs =>
    let c := x.getC v i
    if cPsn c then .error (poisonReg v)
    else
      match payloadFrom x ptype i vs with
      | .error t => .error t
      | .ok cs => .ok (payloadWord ptype c :: cs)

/-- The next n elements of a stream as the payload of a record; FPFLAGS and every register keep their values (10 R229). A poisoned element
raises POISON. Where one of them faults, all of the record's pops are taken back: the position is not complete, and no rule says where the
stream stands within it (DESIGN CHOICE, log entry 124). -/
def payloadPops (h v f ptype : Nat) (fpctl : Word) : Nat → State → Except Stop (List (BitVec 36) × State)
  | 0, s => .ok ([], s)
  | n + 1, s =>
    match (getHart s h).streamAt v with
    | none => .ok ([], s)
    | some t =>
      let popped : Except Stop (Elem × State) :=
        if streamLen t ≤ t.pos then .ok (Elem.zero, s)
        else
          match streamNext s h t with
          | .error e => .error e
          | .ok (d, s1) => .ok ({ streamElem t f fpctl d with psn := d.psn }, s1)
      match popped with
      | .error e => .error e
      | .ok (el, s1) =>
        if el.psn then .error { trap := poisonReg v, state := s1 }
        else
          match payloadPops h v f ptype fpctl n (streamPast s1 h v t) with
          | .error e => .error e
          | .ok (rest, s2) =>
            let word := fun (bits tail : Nat) => payloadWord ptype (mkC false tail bits)
            .ok ((if ptype == 3 then [word el.bits 0, word (el.bits / 2 ^ 32) 0] else [word el.bits el.tail]) ++ rest, s2)

/-- One record sent (10 R225, R228): the receiver, the train's count, the histogram. -/
def sendRecord (c : XCtx) (m : XMember) (key : Nat) (elems : List (BitVec 36)) : XCtx :=
  let r := receiverOf c key
  let n := smGet 0 m.trains r
  let rec1 : XRecord := { sender := m.rank, recv := r, key := key, no := m.sent, elems := elems, psn := false, flags := 0 }
  let d := c.setMember m.rank (fun k =>
    { k with sent := k.sent + 1, lastKey := some key, trains := smPut k.trains r (n + 1) })
  { d with flight := d.flight ++ [rec1], hist := smPut d.hist r (smGet 0 d.hist r + 1) }

/-- ORDER (15 Table 15.1). -/
def orderTrap (key code : Nat) : Trap := { cause := .order, tval := word key, tval2 := word code }

/-- xsend at a position (10 R227 to R229). -/
def xsendAt (s : State) (h : Nat) (e : VEntry) (a b mk i : Nat) : Except Stop State :=
  let x := getHart s h
  let stop := fun (t : Trap) => (.error { trap := t, state := s } : Except Stop State)
  let f := entryFmt e
  match smFind s.xctx e.cap.sa.toNat with
  | none => .ok s
  | some c =>
    match c.memberOf x.ctx with
    | none => .ok s
    | some m =>
      if i == 0 && m.ended then stop (orderTrap (keyWord f false (x.elem f a 0)) 1)
      else if realLen e.cap.shape ≤ i || !x.maskBit mk i || c.isPartial then .ok s
      else
        let el := x.elem f a i
        let key := keyWord f false el
        let n := if c.ptype == 3 then c.plen / 2 else payloadRegs c
        if el.psn then stop (poisonReg a)
        else if (match m.lastKey with | some k => decide (key < k) | none => false) then stop (orderTrap key 0)
        else if 2 ^ 32 ≤ smGet 0 m.trains (receiverOf c key) + 1 then
          stop { cause := .train, tval := word (receiverOf c key), tval2 := 0 }
        else
          let payload : Except Stop (List (BitVec 36) × State) :=
            if c.comb == 4 then .ok ([mkC false 0 1], s)
            else
              match payloadStream x c b with
              | some v => payloadPops h v (payloadFmt c) c.ptype e.cap.fpctl n s
              | none =>
                match payloadFrom x c.ptype i (groupRegs b (payloadRegs c)) with
                | .error t => .error { trap := t, state := s }
                | .ok cs => .ok (cs, s)
          match payload with
          | .error t => .error t
          | .ok (cs, s1) => .ok (putX s1 e.cap.sa.toNat (sendRecord c m key cs))

/-- Registers that an xsend reads besides its keys: none for a count or where a stream supplies the payload. -/
def xsendRegs (s : State) (h : Nat) (handle : Word) (b : Nat) : List Nat :=
  match smFind s.xctx handle.toNat with
  | none => []
  | some c => if (payloadStream (getHart s h) c b).isSome then [] else groupRegs b (payloadRegs c)

/-- xsend as the VIQ sees it; regs: the payload registers of its context. A stream that supplies the payload need not pair with the payload type:
10 R227 makes its pops the exception to 05 R111 and names no check (DESIGN CHOICE, log entry 123). -/
def xsendOp (a b : BitVec 5) (mk : BitVec 3) (regs : List Nat) : VOp :=
  { legal := fun _ c => shapeOk c.slices c.shape fmtKey && shRows c.shape == 1
    reads := fun _ => a.toNat :: regs
    writes := fun _ => []
    mreads := [mk.toNat], mwrites := [], sweep := fun c => c.shape, conts := capConts, hwm := fun _ => none
    perm := false, mem := true, quiet := true, fin := finNone
    run := .pos (fun s h e _ i => xsendAt s h e a.toNat b.toNat mk.toNat i) }

/-- BADTILE 68 (10 R227): the key format is wider than KEYW, the payload passes v31, or a count context names a register. -/
def xsendMisfit (x : Hart) (c : XCtx) (f b : Nat) : Bool :=
  decide (c.keyBits < fmtWidth f) || (c.comb == 4 && b != 0) ||
    ((payloadStream x c b).isNone && !groupOk b (payloadRegs c))

/-- xsend at the front end: the captures that are ILLEGAL first, then the checks of the handle and of the payload, made at capture
(10 R219, R227). -/
def execXsend (d a b : BitVec 5) (n m : BitVec 3) (st : State) : Out :=
  live st (fun s =>
    let x := curHart s
    let i : Instr := .xsend d a b n m
    let op := xsendOp a b m (xsendRegs s s.cur (x.getS d) b.toNat)
    let cap := captureOf s s.cur i n.toNat 0
    if x.vq || !op.legal x cap || !streamsOk x op cap then illegal s i
    else
      match xcheck s (x.getS d) true false with
      | .error t => trapHere s t
      | .ok (_, c, _) =>
        if xsendMisfit x c (shFmt cap.shape) b.toNat then trapHere s (badtile (x.getS d) 68)
        else commitVector i n.toNat 0 op s)

/-! Merging, combining and delivery (10 R230 to R235). -/

/-- A container as an element. -/
def elemOfC (c : BitVec 36) : Elem := { bits := cData c, tail := cTail c, tail2 := 0, psn := false }

/-- The combination of two integers of w bits. -/
def combInt (comb w a b : Nat) : Nat × Flags :=
  let x := signedOf w a
  let y := signedOf w b
  match comb with
  | 1 => let (z, fl) := saturate (-(2 ^ (w - 1) : Nat)) ((2 ^ (w - 1) : Nat) - 1) (x + y); ((z % (2 ^ w : Nat)).toNat, fl)
  | 2 => (if y < x then b else a, 0)
  | 3 => (if x < y then b else a, 0)
  | _ => (sat32 (a + b), flagIf (2 ^ 32 ≤ a + b) flagSAT)

/-- The combination of two FP32 or BF16 elements (10 Table 10.7): rto to the type, whatever FPCTL holds. -/
def combFloat (comb f : Nat) (down : Bool) (a b : BitVec 36) : BitVec 36 × Flags :=
  let p := elemOfC a
  let q := elemOfC b
  if comb == 1 then
    let r := fAdd down (valOf f p) (valOf f q)
    let w := writeRto (fpOf f) r.1
    (mkC false w.tail w.code, r.2 ||| w.flags)
  else
    let (e, fl) := writeChosen f 0 (chooseF f (comb == 3) p q)
    (mkC false e.tail e.bits, fl ||| flagIf (isSig (valOf f p) || isSig (valOf f q)) flagNV)

/-- The combination of two payloads, element by element. -/
def combPayload (ptype comb drnd : Nat) : List (BitVec 36) → List (BitVec 36) → List (BitVec 36) × Flags
  | a :: as, b :: bs =>
    if ptype == 3 then
      match as, bs with
      | a2 :: as', b2 :: bs' =>
        let (z, fl) := combInt comb 64 (cData a + cData a2 * 2 ^ 32) (cData b + cData b2 * 2 ^ 32)
        let (rest, fl2) := combPayload ptype comb drnd as' bs'
        (mkC false 0 z :: mkC false 0 (z / 2 ^ 32) :: rest, fl ||| fl2)
      | _, _ => ([], 0)
    else
      let (c, fl) := if ptype ≤ 1 then combFloat comb (if ptype == 0 then 12 else 11) (drnd == 2) a b
        else let (z, g) := combInt comb 32 (cData a) (cData b); (mkC false 0 z, g)
      let (rest, fl2) := combPayload ptype comb drnd as bs
      (c :: rest, fl ||| fl2)
  | _, _ => ([], 0)

/-- A payload at a node of the tree, named by package and unit (10 R231). -/
structure TreeNode where
  pkg  : Nat
  unit : Nat
  val  : List (BitVec 36)
  deriving DecidableEq, Repr

/-- The fold of neighbouring nodes that lie in the same unit. -/
def foldNodes (comb : List (BitVec 36) → List (BitVec 36) → List (BitVec 36) × Flags) : List TreeNode → List TreeNode × Flags
  | [] => ([], 0)
  | n :: ns =>
    let step := fun (acc : List TreeNode × Flags) (m : TreeNode) =>
      match acc.1.reverse with
      | [] => ([m], acc.2)
      | l :: ls =>
        if l.pkg == m.pkg && l.unit == m.unit then
          let (v, fl) := comb l.val m.val
          (({ l with val := v } :: ls).reverse, acc.2 ||| fl)
        else (acc.1 ++ [m], acc.2)
    ns.foldl step ([n], 0)

/-- The nodes one level up, each unit of k children. -/
def levelUp (comb : List (BitVec 36) → List (BitVec 36) → List (BitVec 36) × Flags) (k : Nat) (p : List TreeNode × Flags) :
    List TreeNode × Flags :=
  let (ns, fl) := foldNodes comb (p.1.map (fun n => { n with unit := n.unit / k }))
  (ns, p.2 ||| fl)

/-- The combined payload of some leaves over the canonical tree (10 R231): hart, core, cluster, stack, package, span. The leaves stand in
the order of their senders' places. -/
def treeFold (comb : List (BitVec 36) → List (BitVec 36) → List (BitVec 36) × Flags) (leaves : List TreeNode) :
    List (BitVec 36) × Flags :=
  let up := fun k p => levelUp comb k p
  let hart := up 1 (leaves, 0)
  let pkg := up 8 (up 10 (up 8 (up 4 hart)))
  let (v, fl) := levelUp comb 1 ((pkg.1.map (fun n => { n with pkg := 0, unit := 0 })), pkg.2)
  match v with
  | [] => ([], fl)
  | n :: _ => (n.val, fl)

/-- The combined payload of the records of one key word (10 R231). -/
def combineTree (c : XCtx) (leaves : List TreeNode) : List (BitVec 36) × Flags :=
  treeFold (combPayload c.ptype c.comb c.drnd) leaves

/-- The payload words that land in memory, with the flags of delivery rounding (10 R231, R232). -/
def payloadOut (ptype : Nat) (r : Rnd) : List (BitVec 36) → List Nat × Flags
  | [] => ([], 0)
  | a :: as =>
    if ptype == 0 then
      let w := settle fFP32 r (valOf 12 (elemOfC a))
      let (ws, fl) := payloadOut ptype r as
      (w.code :: ws, w.flags ||| fl)
    else if ptype == 1 then
      match as with
      | [] => ([], 0)
      | b :: bs =>
        let w := settle fBF16 r (valOf 11 (elemOfC a))
        let v := settle fBF16 r (valOf 11 (elemOfC b))
        let (ws, fl) := payloadOut ptype r bs
        ((w.code + v.code * 65536) :: ws, w.flags ||| v.flags ||| fl)
    else
      let (ws, fl) := payloadOut ptype r as
      (cData a :: ws, fl)

/-- Whether every byte of a record's place is mapped. -/
def placeMapped (s : State) (core : Nat) (b : XBuf) (va : Word) (n : Nat) : Bool :=
  (List.range ((n + 3) / 4)).all (fun i => (keptKey s core b.pages (va + word (4 * i)) .store).isSome)

/-- A record written at its place. -/
def writeRecord (s : State) (core writer : Nat) (b : XBuf) (va : Word) (key : Nat) (ws : List Nat) : State :=
  let s1 := keptWrite s core b.pages writer va key 8
  (List.zip (List.range ws.length) ws).foldl (fun s p => keptWrite s core b.pages writer (va + word (8 + 4 * p.1)) p.2 4) s1

/-- The chunks of a record's place poisoned (16 R360). -/
def poisonPlace (s : State) (b : XBuf) (va : Word) (n : Nat) : State :=
  (List.range n).foldl (fun s i => match keptKey s b.core b.pages (va + word i) .store with | some key => poisonChunk s key | none => s) s

/-- Delivery of one record to a receiver with a posted buffer (10 R234): in the primary region, in the overflow region, or dropped. The
record of a failed switch buffer poisons its chunks (16 R360). -/
def deliver (s : State) (c : XCtx) (m : XMember) (b : XBuf) (key : Nat) (elems : List (BitVec 36)) (fl : Flags) (psn : Bool) :
    State × XMember :=
  let n := m.delivered
  let size := recordBytes c.plen
  let (ws, fl2) := payloadOut c.ptype (Rnd.ofCode c.drnd) elems
  let core := b.core
  let va := if n < b.pcap then b.prim + word (n * size) else b.ovf + word ((n - b.pcap) * size)
  let st := m.stats
  let m1 := { m with delivered := n + 1 }
  if n < b.pcap + b.ocap && placeMapped s core b va size then
    let st1 := if n < b.pcap then { st with primary := st.primary + 1 } else { st with overflow := st.overflow + 1 }
    let s1 := writeRecord s core (2 ^ 55 + s.steps) b va key ws
    (if psn then poisonPlace s1 b va size else s1, { m1 with stats := { st1 with flags := setFlags st.flags (fl ||| fl2) } })
  else (s, { m1 with stats := { st with dropped := st.dropped + 1, flags := setFlags st.flags fl } })

/-- A sample of the stack merge switch of a domain (10 R238): the first record and every 2^SAMP-th after it, at most 1,024. The switches of
another package sample what its own senders inject. -/
def sampleRecord (c : XCtx) (r : XRecord) : XCtx :=
  match c.members.find? (fun m => m.rank == r.sender && !isRemote m.ctx) with
  | none => c
  | some m =>
    let dom := m.pkg * 8 + domainOf (coreOf m.hart)
    let n := smGet 0 c.injected dom
    let old := smGet [] c.samples dom
    let take := c.samp < 16 && n % 2 ^ c.samp == 0 && old.length < 1024
    { c with injected := smPut c.injected dom (n + 1), samples := if take then smPut c.samples dom (old ++ [r.key]) else c.samples }

/-- Whether the merge point may pass a key word of a receiver: every sender has left, has sent its tail, or holds a record that follows
(10 R230, R231). Records for a receiver of another package pass here on their way out, whatever its other inputs hold. -/
def mayPass (c : XCtx) (recv key : Nat) (strict : Bool) : Bool :=
  let far := c.members.any (fun m => m.rank == recv && isRemote m.ctx)
  c.members.all (fun m => m.left || (far && isRemote m.ctx) || c.tails.contains (m.rank, recv) || c.landed.contains (m.rank, recv) ||
    c.flight.any (fun r => r.sender == m.rank && r.recv == recv && (if strict then decide (key < r.key) else true)))

/-- The lowest record for a receiver: by key word, then by sender rank, then by send order (10 R230). -/
def lowestRecord (c : XCtx) (recv : Nat) : Option XRecord :=
  (c.flight.filter (fun r => r.recv == recv)).foldl (fun best r =>
    match best with
    | none => some r
    | some b => if r.key < b.key || (r.key == b.key && r.sender < b.sender) then some r else some b) none

/-- A leaf for each sender of some records, in the order of the senders' places. -/
def leavesOf (c : XCtx) (rs : List XRecord) : List TreeNode :=
  let place := fun (r : XRecord) =>
    match c.members.find? (fun m => m.rank == r.sender) with
    | some m => (m.pkg, m.hart)
    | none => (0, 0)
  let before := fun (a b : XRecord) =>
    let p := place a
    let q := place b
    p.1 < q.1 || (p.1 == q.1 && (p.2 < q.2 || (p.2 == q.2 && a.sender < b.sender)))
  (sortBy before rs).map (fun r => { pkg := (place r).1, unit := (place r).2, val := r.elems })

/-- Some records of an exchange context counted as unreachable at their senders (10 R240, 16 R349). -/
def loseRecords (c : XCtx) (senders : List Nat) : XCtx :=
  senders.foldl (fun c r => c.setMember r (fun k =>
    { k with stats := { k.stats with unreachable := k.stats.unreachable + 1 } })) c

/-- Some records counted at their senders as dropped for want of a posted buffer (10 R234). -/
def dropUnposted (c : XCtx) (senders : List Nat) : XCtx :=
  senders.foldl (fun c r => c.setMember r (fun k =>
    { k with stats := { k.stats with sentUnposted := k.stats.sentUnposted + 1 } })) c

/-- The senders of other packages among some, with their packages. -/
def farSenders (c : XCtx) (senders : List Nat) : List (Nat × Nat) :=
  senders.filterMap (fun r => (c.members.find? (fun m => m.rank == r && isRemote m.ctx)).map (fun m => (m.pkg, r)))

/-- Each other package told which records of its senders were dropped for want of a posted buffer (10 R234). -/
def answerUnposted (s : State) (slot : Nat) (far : List (Nat × Nat)) : State :=
  ((far.map (fun p => p.1)).eraseDups).foldl (fun s p =>
    linkSend s p 3 (plainRecord s 16) (.answer slot ((far.filter (fun q => q.1 == p)).map (fun q => q.2)))) s

/-- The bytes of an exchange record on a link: its key word, then the DATA of its payload containers, 16 bits each for BF16 (16 R347). -/
def recordOnLink (c : XCtx) (key : Nat) (elems : List (BitVec 36)) : List Byte :=
  let le := fun (v n : Nat) => (List.range n).map (fun i => BitVec.ofNat 8 (v / 256 ^ i))
  le key 8 ++ elems.flatMap (fun e => le (cData e) (if c.ptype == 1 then 2 else 4))

/-- MERGE_PASS (10 R230): the lowest key word of a receiver passes, as one record, or as all records of that key word combined; then it is
delivered or dropped (R234), or leaves for its receiver's package, or is dropped where no route works (R240). Each record that went into a
combined one counts when it is dropped as unposted or unreachable: R234 does not say whether they count as one (DESIGN CHOICE, log entry 122). -/
def mergePass (s : State) (slot recv : Nat) : State :=
  match smFind s.xctx slot with
  | none => s
  | some c =>
    match lowestRecord c recv with
    | none => s
    | some low =>
      if c.isPartial || !mayPass c recv low.key (c.comb != 0) then s
      else
        let rs := if c.comb == 0 then [low] else c.flight.filter (fun r => r.recv == recv && r.key == low.key)
        let c1 := { c with flight := c.flight.filter (fun r => !rs.contains r) }
        let c2 := rs.foldl sampleRecord c1
        let (elems, fc) := if c.comb == 0 then (low.elems, (0 : Flags)) else combineTree c (leavesOf c rs)
        let fl := rs.foldl (fun f r => f ||| r.flags) fc
        let psn := rs.any (fun r => r.psn)
        let senders := rs.map (fun r => r.sender)
        match c2.members.find? (fun m => m.rank == recv) with
        | none => putX s slot c2
        | some m =>
          if isRemote m.ctx then
            (match portTo s m.pkg with
             | none => putX s slot (loseRecords c2 senders)
             | some _ =>
               if linkStalled s m.pkg 0 (recordBytes c.plen) then s
               else putX (linkSend s m.pkg 0 (recordOnLink c low.key elems) (.records slot senders fl psn)) slot c2)
          else
          match m.cur with
          | some b =>
            let (s1, m1) := deliver s c2 m b low.key elems fl psn
            putX s1 slot (c2.setMember recv (fun _ => m1))
          | none =>
            let far := farSenders c2 senders
            if far.any (fun p => linkStalled s p.1 3 16) then s
            else
              putX (answerUnposted s slot far) slot ((dropUnposted c2 senders).setMember recv (fun k => { k with stats := { k.stats with
                unposted := k.stats.unposted + rs.length, flags := setFlags k.stats.flags fl } }))

/-- The event of a merge point. -/
def execMergePass (slot recv : Nat) (st : State) : Out := live st (fun s => mergePass s slot recv)

/-- A tail that has landed, wherever it was on its way. -/
def XCtx.land (c : XCtx) (sender recv : Nat) : XCtx :=
  { c with
    tails := c.tails.erase (sender, recv), away := c.away.erase (sender, recv)
    landed := if c.landed.contains (sender, recv) then c.landed else c.landed ++ [(sender, recv)] }

/-- TAIL_LAND (10 R221): a tail lands once every record of its train has passed; one for another package leaves for it, and has landed once that
package says so; where no route works its train counts as landed (R240). -/
def tailLand (s : State) (slot sender recv : Nat) : State :=
  match smFind s.xctx slot with
  | none => s
  | some c =>
    if c.tails.contains (sender, recv) && !c.flight.any (fun r => r.sender == sender && r.recv == recv) then
      match c.members.find? (fun m => m.rank == recv && isRemote m.ctx) with
      | none => putX s slot (c.land sender recv)
      | some m =>
        match portTo s m.pkg with
        | none => putX s slot (c.land sender recv)
        | some _ =>
          if linkStalled s m.pkg 0 16 then s
          else
            putX (linkSend s m.pkg 0 (plainRecord s 16) (.tail slot sender recv)) slot
              { c with tails := c.tails.erase (sender, recv), away := c.away ++ [(sender, recv)] }
    else s

/-- The event of a landing tail. -/
def execTailLand (slot sender recv : Nat) (st : State) : Out := live st (fun s => tailLand s slot sender recv)

/-! The Beacon (10 R220). -/

/-- Whether the Beacon may release the running step. -/
def XCtx.complete (c : XCtx) : Bool :=
  !c.isPartial && !c.deserted && c.tails.isEmpty && c.away.isEmpty && c.flight.isEmpty && c.members.all (fun m => m.left || (m.arrived && m.ended))

/-- The splitters of the next step (10 R226): the xsplit of the member of lowest rank, else a hardware sample's, else the same. -/
def nextSplits (c : XCtx) : List Nat :=
  match c.members.findSome? (fun m => m.split) with
  | some l => l
  | none => match c.pendHw with | some l => l | none => c.splits

/-- A member at the start of the next step: its counts are kept for xstat, and its posted buffer is the current one. -/
def XMember.advance (m : XMember) (cur : Option XBuf) : XMember :=
  { m with
    arrived := m.left, ended := false, sent := 0, lastKey := none, trains := [], cur := cur, next := none,
    split := none, delivered := 0, last := m.stats, stats := { XStats.zero with unreachable := m.stats.unreachable } }

/-- The posted buffers of every member made active. -/
def activateAll (plen : Nat) : List XMember → State → List XMember × State
  | [], s => ([], s)
  | m :: ms, s =>
    let (b, s1) : Option XBuf × State :=
      match (if m.left then none else m.next) with
      | none => (none, s)
      | some b => let (c, t) := activate s plen b; (some c, t)
    let (rest, s2) := activateAll plen ms s1
    (m.advance b :: rest, s2)

/-- BEACON_RELEASE (10 R220). -/
def beaconRelease (s : State) (slot : Nat) : State :=
  match smFind s.xctx slot with
  | none => s
  | some c =>
    if !c.complete then s
    else
      let (ms, s1) := activateAll c.plen c.members s
      putX s1 slot { c with
        splits := nextSplits c, pendHw := none, step := c.step + 1, members := ms, landed := [], injected := [], samples := [],
        lastSamples := (c.samples.flatMap (fun p => p.2)).take 65536, hist := [], lastHist := c.hist }

/-- The event of a release. -/
def execBeaconRelease (slot : Nat) (st : State) : Out := live st (fun s => beaconRelease s slot)

/-! Contexts that move and contexts that go (10 R217, R224). -/

/-- The memberships and arrivals of a context that runs on a hart from now on: its records enter the fabric there (10 R231). -/
def rehartX (s : State) (ctx h : Nat) : State :=
  { s with
    xctx := s.xctx.map (fun (p : Nat × XCtx) => (p.1, { p.2 with
      members := p.2.members.map (fun m => if m.ctx == ctx then { m with hart := h } else m) }))
    xgather := s.xgather.map (fun g => { g with
      arrivals := g.arrivals.map (fun a => if a.ctx == ctx then { a with hart := h } else a) }) }

/-- An exchange context closed with partial status by a member that goes: records in flight are discarded, and the buffers of the running
step are no longer protected. -/
def closePartly (c : XCtx) (ctx : Nat) : XCtx :=
  match c.memberOf ctx with
  | none => c
  | some _ =>
    { c with
      isPartial := true, flight := [], tails := [], away := []
      members := c.members.map (fun m =>
        { m with cur := none, next := none, waiting := none, left := m.left || m.ctx == ctx }) }

/-- The slots freed whose context every member has left. -/
def freeDeserted (s : State) : State :=
  (s.xctx.filter (fun (p : Nat × XCtx) => p.2.deserted && !p.2.forLens)).foldl (fun (s : State) (p : Nat × XCtx) => freeX s p.1) s

/-- Every exchange of a discarded context closed, its arrivals at a rendezvous withdrawn, and slots that nobody holds freed. -/
def discardExchanges (s : State) (ctx : Nat) : State :=
  freeDeserted { s with
    xctx := s.xctx.map (fun (p : Nat × XCtx) => (p.1, closePartly p.2 ctx))
    xgather := withdrawArrivals s.xgather ctx
    opened := s.opened.filter (fun o => o.ctx != ctx) }

end Sys2Proof.Machine
end

