-- ==== Sys2Proof/Machine/Lens.lean ====
section
/-! DEFINITION. Lens (chapter 11): states and their rendezvous, the commands of the Lens context, the meeting of collective commands, the
swap superstep, gates, probabilities and projection. -/

namespace Sys2Proof.Machine

/-! States and members (11 R243 to R247). -/

/-- The state with a Lens slot changed. -/
def putL (s : State) (slot : Nat) (l : LensState) : State := { s with lens := smPut s.lens slot l }

/-- Local bits L. -/
def LensState.local (l : LensState) : Nat := l.n - l.p.log2

/-- The member that a context is, if it has not left. -/
def LensState.memberOf (l : LensState) (ctx : Nat) : Option LMember := l.members.find? (fun m => m.ctx == ctx && !m.left)

/-- The slot and state that a context is a member of (11 Table 11.1: at most one). -/
def lensOf (s : State) (ctx : Nat) : Option (Nat × LensState) := s.lens.find? (fun p => (p.2.memberOf ctx).isSome)

/-- Where the engines of a context are now. -/
def holderOfCtx (s : State) (ctx : Nat) : Option Holder :=
  match hartOfCtx s ctx with
  | some h => some (.hart h)
  | none => if (savedCtx s ctx).isSome then some (.saved ctx) else none

/-- The head of a context's Lens queue. -/
def lensHead (s : State) (ctx : Nat) : Option LensCmd :=
  match holderOfCtx s ctx with
  | none => none
  | some w => (getEng s w).lensQ.head?

/-- The state with the head of a context's Lens queue changed. -/
def mapLensHead (s : State) (ctx : Nat) (f : LensCmd → LensCmd) : State :=
  match holderOfCtx s ctx with
  | none => s
  | some w =>
    let g := getEng s w
    match g.lensQ with
    | [] => s
    | c :: q => putEng s w { g with lensQ := f c :: q }

/-- The offset of the first field of a Lens descriptor that breaks Table 11.2 or Table 11.1. -/
def qopenDescError (bs : List Byte) : Option Nat :=
  let n := fieldAt bs 4 4
  let p := fieldAt bs 8 4
  if n = 0 || 44 < n then some 4
  else if p = 0 || 32768 < p || 2 ^ p.log2 != p then some 8
  else if n ≤ p.log2 || 29 < n - p.log2 then some 8
  else if p ≤ fieldAt bs 12 4 then some 12
  else if fieldAt bs 16 8 % 512 != 0 then some 16
  else if 4 < fieldAt bs 24 8 then some 24
  else if fieldAt bs 32 8 != 0 || fieldAt bs 40 8 != 0 || fieldAt bs 48 8 != 0 || fieldAt bs 56 8 != 0 then some 32
  else none

/-- The windows in which a region may lie (11 Table 11.2). -/
def inRegionWindow (pa : Nat) : Bool := pa < 0x6000000000 || (0x8000000000 ≤ pa && pa < 0x10000000000)

/-- Every page of a region of n bytes translated for reads and writes; a page of the windows must have memory behind each of its pieces that
the region holds (11 R244, 04 R86). -/
def regionPages (s : State) (a : Agent) (base : Word) (n : Nat) : List Nat → Except Stop (PageMap × State)
  | [] => .ok ([], s)
  | p :: ps =>
    let va := if p = base.toNat / 65536 then base else word (p * 65536)
    match translate s a va .load with
    | .error t => .error t
    | .ok (_, s1) =>
      match translate s1 a va .store with
      | .error t => .error t
      | .ok (e, s2) =>
        let page := keptPage e va
        match (if inRegionWindow page.pa then resolvePieces s2 a.core base.toNat n p page.pa .load else none) with
        | some t => .error { trap := t, state := s2 }
        | none =>
          match regionPages s2 a base n ps with
          | .error e => .error e
          | .ok (m, s3) => .ok (page :: m, s3)

/-- A Lens gathering counts to NMEM. -/
def qFull (g : Gathering) : Bool := g.full 8 4

/-- The lowest free Lens slot of the package. -/
def freeLSlot (s : State) : Option Nat := (List.range 64).find? (fun n => (smFind s.lens n).isNone)

/-- The state once every member has left a Lens state: its slots are freed (11 R245). -/
def releaseLens (s : State) (slot : Nat) : State :=
  match smFind s.lens slot with
  | none => s
  | some l =>
    if l.members.all (fun m => m.left) then
      let s1 := { s with lens := smErase s.lens slot }
      match l.xslot with
      | some x => { s1 with xctx := smErase s1.xctx x }
      | none => s1
    else s

/-- Whether some member other than a context has a collective command queued that has not started. -/
def othersIssue (s : State) (l : LensState) (slot ctx : Nat) : Bool :=
  l.members.any (fun m => m.ctx != ctx && !m.left &&
    (!m.issued.isEmpty ||
     (match holderOfCtx s m.ctx with
      | some w => (getEng s w).lensQ.any (fun c => c.slot == slot && c.coll.isSome && !c.started)
      | none => false)))

/-- A member leaves its state (11 R245): the state fails where others still issue collective commands. -/
def leaveLens (s : State) (ctx : Nat) (fail : Bool) : State :=
  match lensOf s ctx with
  | none => s
  | some (slot, l) =>
    let members := l.members.map (fun m => if m.ctx == ctx then { m with left := true, done := true } else m)
    let bad := l.failed || fail || othersIssue s l slot ctx
    releaseLens (putL s slot { l with members := members, failed := bad }) slot

/-- qopen (11 R244, R245): with sA = 0 the member leaves; else its arrival is made once and the hart waits for the result. The descriptor is read
behind every older access of the hart (12 R264). -/
def execQopen (d a : BitVec 5) (st : State) : Out :=
  live st (orderedIssue (fun s =>
    let x := curHart s
    let va := x.getS a
    if va = 0 then (if x.eng.lensQ.isEmpty then retireS (leaveLens s x.ctx false) d 0 else s)
    else
      match s.opened.find? (fun o => o.ctx == x.ctx && o.lens) with
      | some o => takeOpened s d o
      | none =>
        if s.qgather.any (fun g => g.arrivals.any (fun q => q.ctx == x.ctx)) then s
        else if va.toNat % 64 != 0 then trapHere s (alignTrap va)
        else
          match readWords s (agentOf s s.cur) va va 8 with
          | .error e => trapHere e.state e.trap
          | .ok (ws, s1) =>
            let bs := bytesOfWords ws
            match qopenDescError bs with
            | some off => trapHere s1 (badtile va off)
            | none =>
              let base := word (fieldAt bs 16 8)
              let bytes := 8 * 2 ^ (fieldAt bs 4 4 - (fieldAt bs 8 4).log2)
              match regionPages s1 (agentOf s1 s.cur) base bytes (pageList base.toNat bytes) with
              | .error e => trapHere e.state e.trap
              | .ok (pages, s2) =>
                if pages.any (fun p => !inRegionWindow p.pa) then trapHere s2 (badtile va 16)
                else
                  let g := joinGathering qFull (BitVec.ofNat 32 (fieldAt bs 0 4)) (arrivalOf s2 bs pages) s2.qgather
                  { s2 with qgather := g }))

/-- The failure of a Lens rendezvous, if there is one, in the order of R244. -/
def qopenFailure (s : State) (as : List Arrival) : Option Int :=
  let ranks := as.map (fun a => fieldAt a.desc 12 4)
  let same := match as with
    | [] => true
    | a :: rest => rest.all (fun b =>
        fieldAt a.desc 4 4 == fieldAt b.desc 4 4 && fieldAt a.desc 8 4 == fieldAt b.desc 8 4 &&
        fieldAt a.desc 24 8 == fieldAt b.desc 24 8)
  if !same then some (-2)
  else if ranks.eraseDups.length != ranks.length then some (-3)
  else if as.any (fun a => if isRemote a.ctx then 0 < a.held else (lensOf s a.ctx).isSome) then some (-4)
  else if (freeLSlot s).isNone || (1 < as.length && (freeXSlot s).isNone) || as.any (fun a => !a.room) then some (-1)
  else none

/-- The exchange context that a state of several members holds (11 R245). -/
def lensExchange (tag : BitVec 32) (p : Nat) : XCtx :=
  { tag := tag, nmem := p, nrecv := p, keyw := 2, plen := 2, ptype := 0, comb := 0, drnd := 0, pin := true, samp := 31,
    splits := [], pendHw := none, step := 0, members := [], flight := [], tails := [], away := [], landed := [], injected := [],
    samples := [], lastSamples := [], hist := [], lastHist := [], isPartial := false, forLens := true }

/-- The count of collective commands of a context begins again. -/
def resetColls (s : State) (ctx : Nat) : State :=
  match holderOfCtx s ctx with
  | none => s
  | some w => putEng s w { getEng s w with colls := 0 }

/-- The rendezvous of a complete Lens gathering (11 R244). A package that holds no member takes no part. -/
def formLens (s : State) (as : List Arrival) : State :=
  if as.all (fun a => isRemote a.ctx) then s
  else
  match qopenFailure s as, freeLSlot s, as with
  | some v, _, _ =>
    let out := as.map (fun a => ({ ctx := a.ctx, lens := true, value := wordOfInt v, trap := none } : OpenResult))
    { s with opened := s.opened ++ ownResults out }
  | none, some slot, first :: _ =>
    let tag : BitVec 32 := BitVec.ofNat 32 (fieldAt first.desc 0 4)
    let n := fieldAt first.desc 4 4
    let p := fieldAt first.desc 8 4
    let xslot := if 1 < p then freeXSlot s else none
    let s1 := match xslot with | some x => putX s x (lensExchange tag p) | none => s
    let member := fun (a : Arrival) =>
      ({ rank := fieldAt a.desc 12 4, pkg := a.pkg, hart := a.hart, ctx := a.ctx, pages := a.pages,
         base := word (fieldAt a.desc 16 8), left := false, done := false, issued := [] } : LMember)
    let l : LensState :=
      { tag := tag, n := n, p := p, wrnd := fieldAt first.desc 24 8 % 8,
        members := sortBy (fun a b => a.rank < b.rank) (as.map member), map := List.range n, failed := false, next := 0,
        run := false, swap := [], inbox := [], xslot := xslot }
    let out := as.map (fun a => ({ ctx := a.ctx, lens := true, value := word slot, trap := none } : OpenResult))
    as.foldl (fun s a => resetColls s a.ctx) (putL { s1 with opened := s1.opened ++ ownResults out } slot l)
  | _, _, _ => s

/-- QOPEN_RENDEZVOUS (11 R244). -/
def qopenRendezvous (s : State) (tag : BitVec 32) : State :=
  match s.qgather.find? (fun g => g.tag == tag && qFull g) with
  | none => s
  | some g => formLens { s with qgather := s.qgather.erase g } g.arrivals

/-- The event of a Lens rendezvous. -/
def execQopenRendezvous (tag : BitVec 32) (st : State) : Out := live st (fun s => qopenRendezvous s tag)

/-- A discarded context's Lens state fails, and its arrivals are withdrawn (11 R245). -/
def discardLens (s : State) (ctx : Nat) : State :=
  leaveLens { s with qgather := withdrawArrivals s.qgather ctx } ctx true

/-- A context's memberships and arrivals, at the hart that it runs on from now on. -/
def rehart (s : State) (ctx h : Nat) : State :=
  let s1 := rehartX s ctx h
  { s1 with
    lens := s1.lens.map (fun (p : Nat × LensState) => (p.1, { p.2 with
      members := p.2.members.map (fun m => if m.ctx == ctx then { m with hart := h } else m) }))
    qgather := s1.qgather.map (fun g => { g with
      arrivals := g.arrivals.map (fun a => if a.ctx == ctx then { a with hart := h } else a) }) }

/-! Commands at the front end (11 R248). -/

/-- Byte i of a record. -/
def recByte (bs : List Byte) (i : Nat) : Nat := fieldAt bs i 1

/-- Whether a list is a permutation of 0 to n − 1. -/
def isPerm (l : List Nat) (n : Nat) : Bool := l.length == n && (List.range n).all (fun i => l.contains i)

/-- Bytes of a record before its matrix. -/
def recordHead (i : Instr) : Nat :=
  match i with
  | .qmap .. => 72
  | .qinit .. => 8
  | .qgate .. => 32
  | .qdiag .. => 32
  | .qswap .. => 8
  | .qprob .. => 16
  | .qproj .. => 16
  | _ => 24

/-- Bytes of the matrix of a qgate or qdiag with k targets. -/
def matrixBytes (i : Instr) (k : Nat) : Nat :=
  match i with
  | .qgate .. => 8 * 4 ^ k
  | .qdiag .. => 8 * 2 ^ k
  | _ => 0

/-- Bits at and above n of a 64-bit field are 0. -/
def below (v n : Nat) : Bool := v / 2 ^ n == 0

/-- The fields of a gate record that Table 11.5 allows. -/
def gateRecordOk (l : LensState) (bs : List Byte) : Bool :=
  let k := recByte bs 0
  let ts := (List.range k).map (fun t => recByte bs (1 + t))
  let cmask := fieldAt bs 8 8
  1 ≤ k && k ≤ 5 && k ≤ l.local && ts.all (fun t => t < l.n) && ts.eraseDups.length == k &&
    ((List.range 5).drop k).all (fun t => recByte bs (1 + t) == 0xFF) && fieldAt bs 6 2 == 0 && below cmask l.n &&
    ts.all (fun t => !bitOf cmask t) && (fieldAt bs 16 8 &&& cmask) == fieldAt bs 16 8 && fieldAt bs 24 8 == 0

/-- A record that Table 11.5 allows. -/
def recordOk (l : LensState) (i : Instr) (bs : List Byte) : Bool :=
  match i with
  | .qmap .. =>
    recByte bs 0 ≤ 1 && fieldAt bs 1 7 == 0 &&
      (recByte bs 0 == 0 ||
        (isPerm ((List.range l.n).map (fun q => recByte bs (8 + q))) l.n &&
          ((List.range 64).drop l.n).all (fun q => recByte bs (8 + q) == 0xFF)))
  | .qinit .. => below (fieldAt bs 0 8) l.n
  | .qgate .. => gateRecordOk l bs
  | .qdiag .. => gateRecordOk l bs
  | .qswap .. => recByte bs 0 < l.n && recByte bs 1 < l.n && fieldAt bs 2 6 == 0
  | .qprob .. => recByte bs 0 < l.n && fieldAt bs 1 7 == 0
  | .qproj .. => recByte bs 0 < l.n && recByte bs 1 ≤ 1 && fieldAt bs 2 6 == 0 && fieldAt bs 12 4 == 0
  | _ => fieldAt bs 0 8 + fieldAt bs 8 8 ≤ 2 ^ l.local && fieldAt bs 16 8 % 8 == 0

/-- Whether a command is collective (11 Table 11.4). -/
def collective (i : Instr) (bs : List Byte) : Bool :=
  match i with
  | .qread .. => false
  | .qmap .. => recByte bs 0 == 1
  | _ => true

/-- n bytes of a core's scratchpad, with whether one is poisoned. -/
def scrBytes (s : State) (core off n : Nat) : List Byte × Bool :=
  ((List.range n).map (fun i => memByte s (scrKey core (off + i))),
   (List.range n).any (fun i => isPoisoned s (scrKey core (off + i))))

/-- The destination pages of a qread, translated at issue (11 R259). -/
def readPages (s : State) (i : Instr) (bs : List Byte) : Except Stop (PageMap × State) :=
  match i with
  | .qread .. =>
    let va := word (fieldAt bs 16 8)
    let n := 8 * fieldAt bs 8 8
    translatePages s (agentOf s s.cur) va n .copyStore (pageList va.toNat n)
  | _ => .ok ([], s)

/-- A Lens command at the front end (11 R248). -/
def queueLens (i : Instr) (d a b : BitVec 5) (s : State) : State :=
  let x := curHart s
  let handle := x.getS a
  let off := x.getS b
  let core := coreOf s.cur
  let size := scratchBytes s core
  match (if handle.toNat < 64 then smFind s.lens handle.toNat else none) with
  | none => trapHere s (badtile handle 80)
  | some l =>
    if (l.memberOf x.ctx).isNone then trapHere s (badtile handle 81)
    else if off.toNat % 8 != 0 || size < off.toNat + recordHead i then trapHere s (badtile off 82)
    else
      let (bs, psn) := scrBytes s core off.toNat (recordHead i)
      let k := recByte bs 0
      if psn then trapHere s (poisonTrap off)
      else if k ≤ 5 && size < off.toNat + recordHead i + matrixBytes i k then trapHere s (badtile off 82)
      else if !recordOk l i bs then trapHere s (badtile off 83)
      else
        match readPages s i bs with
        | .error e => trapHere e.state e.trap
        | .ok (pages, s1) =>
          let coll := collective i bs
          let l1 := if coll && l.members.any (fun m => m.left) then { l with failed := true } else l
          let s2 := putL s1 handle.toNat l1
          retire s2 (fun y =>
            let g := y.eng
            let c : LensCmd :=
              { num := g.lens.issued + 1, instr := i, slot := handle.toNat, off := off.toNat, record := bs,
                coll := if coll then some g.colls else none, pages := pages, started := false, noop := false, core := core,
                matrix := [], flags := 0, report := none }
            let z := y.setS d c.num
            { z with eng := { g with lens := g.lens.issue, lensQ := g.lensQ ++ [c], colls := if coll then g.colls + 1 else g.colls } })

/-- qmap (11 R250). -/
def execQmap (d a b : BitVec 5) (st : State) : Out := live st (orderedIssue (queueLens (.qmap d a b) d a b))

/-- qinit (11 R251). -/
def execQinit (d a b : BitVec 5) (st : State) : Out := live st (orderedIssue (queueLens (.qinit d a b) d a b))

/-- qgate (11 R252). -/
def execQgate (d a b : BitVec 5) (st : State) : Out := live st (orderedIssue (queueLens (.qgate d a b) d a b))

/-- qdiag (11 R255). -/
def execQdiag (d a b : BitVec 5) (st : State) : Out := live st (orderedIssue (queueLens (.qdiag d a b) d a b))

/-- qswap (11 R256). -/
def execQswap (d a b : BitVec 5) (st : State) : Out := live st (orderedIssue (queueLens (.qswap d a b) d a b))

/-- qprob (11 R257). -/
def execQprob (d a b : BitVec 5) (st : State) : Out := live st (orderedIssue (queueLens (.qprob d a b) d a b))

/-- qproj (11 R258). -/
def execQproj (d a b : BitVec 5) (st : State) : Out := live st (orderedIssue (queueLens (.qproj d a b) d a b))

/-- qread (11 R259). -/
def execQread (d a b : BitVec 5) (st : State) : Out := live st (orderedIssue (queueLens (.qread d a b) d a b))

/-! Amplitudes. -/

/-- An amplitude as memory holds it (11 R243), with its poison. -/
structure Amp where
  re  : Nat
  im  : Nat
  psn : Bool
  deriving DecidableEq, Repr

/-- The address of the amplitude at a local offset. -/
def LMember.addr (m : LMember) (x : Nat) : Word := m.base + word (8 * x)

/-- Reads an amplitude of a member. -/
def readAmp (s : State) (m : LMember) (x : Nat) : Amp :=
  let (v, p) := keptNat s (coreOf m.hart) m.pages (m.addr x) 8
  { re := v % 2 ^ 32, im := v / 2 ^ 32, psn := p }

/-- Writes an amplitude of a member. -/
def writeAmp (s : State) (m : LMember) (x re im : Nat) : State :=
  keptWrite s (coreOf m.hart) m.pages (2 ^ 58 + s.steps) (m.addr x) (re % 2 ^ 32 + im % 2 ^ 32 * 2 ^ 32) 8

/-- The state with the chunk of an amplitude poisoned. -/
def poisonAmp (s : State) (m : LMember) (x : Nat) : State :=
  match keptKey s (coreOf m.hart) m.pages (m.addr x) .store with
  | some key => poisonChunk s key
  | none => s

/-- POISON at an amplitude: the first address of its chunk (11 R248). -/
def ampPoison (m : LMember) (x : Nat) : Trap := poisonTrap (m.addr x &&& ~~~31#64)

/-- The exact value of an FP32 code. -/
def fp32 (c : Nat) : FVal := fFP32.value c 0

/-- The operand with its sign turned, a NaN's too (11 R254). -/
def flipSign (v : FVal) : FVal :=
  match v with
  | .nan n f => .nan (!n) f
  | w => fNeg w

/-- The fma of R254 onto a carried sum, which may be empty. -/
def lensFma (down : Bool) (x y : FVal) (acc : Option Elem) : Option Elem × Flags :=
  let r := match acc with
    | none => fMul x y
    | some a => fMulAdd down x y (fFP32.value a.bits a.tail)
  let w := writeRto fFP32 r.1
  (some { bits := w.code, tail := w.tail, tail2 := 0, psn := false }, r.2 ||| w.flags)

/-- round of a carried sum under WRND; an empty one is +0. -/
def lensRound (r : Rnd) (acc : Option Elem) : Nat × Flags :=
  match acc with
  | none => (0, 0)
  | some a => let w := settle fFP32 r (fFP32.value a.bits a.tail); (w.code, w.flags)

/-- Terms of a complex sum: pairs of a matrix element and an amplitude (11 R254, R255). -/
def lensSum (r : Rnd) (terms : List ((Nat × Nat) × Amp)) : (Nat × Nat) × Flags :=
  let down := r == .down
  let step := fun (acc : (Option Elem × Option Elem) × Flags) (t : (Nat × Nat) × Amp) =>
    let ur := fp32 t.1.1
    let ui := fp32 t.1.2
    let ar := fp32 t.2.re
    let ai := fp32 t.2.im
    let (re1, f1) := lensFma down ur ar acc.1.1
    let (re2, f2) := lensFma down (flipSign ui) ai re1
    let (im1, f3) := lensFma down ur ai acc.1.2
    let (im2, f4) := lensFma down ui ar im1
    ((re2, im2), acc.2 ||| f1 ||| f2 ||| f3 ||| f4)
  let (s, fl) := terms.foldl step ((none, none), 0)
  let (re, f5) := lensRound r s.1
  let (im, f6) := lensRound r s.2
  ((re, im), fl ||| f5 ||| f6)

/-- A matrix element of a command. -/
def matrixAt (bs : List Byte) (i : Nat) : Nat × Nat := (fieldAt bs (8 * i) 4, fieldAt bs (8 * i + 4) 4)

/-- The physical bit of a logical qubit. -/
def LensState.phys (l : LensState) (q : Nat) : Nat := l.map.getD q 0

/-- The physical index of a member's local offset (11 R246). -/
def LensState.index (l : LensState) (m : LMember) (x : Nat) : Nat := m.rank * 2 ^ l.local + x

/-- The targets of a gate record. -/
def targetsOf (bs : List Byte) : List Nat := (List.range (recByte bs 0)).map (fun t => recByte bs (1 + t))

/-- The controls of a gate record hold at a physical index. -/
def controlsHold (l : LensState) (bs : List Byte) (idx : Nat) : Bool :=
  (List.range l.n).all (fun q => !bitOf (fieldAt bs 8 8) q || bitOf idx (l.phys q) == bitOf (fieldAt bs 16 8) q)

/-- The number that target bits spell at a physical index. -/
def spelled (l : LensState) (ts : List Nat) (idx : Nat) : Nat :=
  ((List.zip (List.range ts.length) ts).map (fun p => if bitOf idx (l.phys p.2) then 2 ^ p.1 else 0)).sum

/-- The local offset of a group's member whose target bits spell col, from the offset with all of them 0. -/
def groupOffset (l : LensState) (ts : List Nat) (x0 col : Nat) : Nat :=
  x0 + ((List.zip (List.range ts.length) ts).map (fun p => if bitOf col p.1 then 2 ^ l.phys p.2 else 0)).sum

/-- What a command does to a member: the state, its flags, and the first poisoned amplitude that left something unwritten. -/
abbrev LensStep := State × Flags × Option Trap

/-- One group of a qgate (11 R252, R254). -/
def gateGroup (l : LensState) (m : LMember) (bs matrix : List Byte) (acc : LensStep) (x0 : Nat) : LensStep :=
  let ts := targetsOf bs
  let k := ts.length
  if spelled l ts x0 != 0 || !controlsHold l bs (l.index m x0) then acc
  else
    let offs := (List.range (2 ^ k)).map (fun c => groupOffset l ts x0 c)
    let as := offs.map (fun x => (x, readAmp acc.1 m x))
    match as.find? (fun p => p.2.psn) with
    | some p => (acc.1, acc.2.1, acc.2.2.or (some (ampPoison m p.1)))
    | none =>
      let r := Rnd.ofCode l.wrnd
      let out := (List.range (2 ^ k)).map (fun row =>
        lensSum r ((List.zip (List.range (2 ^ k)) as).map (fun p => (matrixAt matrix (row * 2 ^ k + p.1), p.2.2))))
      let s1 := (List.zip offs out).foldl (fun s p => writeAmp s m p.1 p.2.1.1 p.2.1.2) acc.1
      (s1, out.foldl (fun f p => f ||| p.2) acc.2.1, acc.2.2)

/-- One amplitude of a qdiag (11 R255). -/
def diagAmp (l : LensState) (m : LMember) (bs matrix : List Byte) (acc : LensStep) (x : Nat) : LensStep :=
  let idx := l.index m x
  if !controlsHold l bs idx then acc
  else
    let a := readAmp acc.1 m x
    if a.psn then (acc.1, acc.2.1, acc.2.2.or (some (ampPoison m x)))
    else
      let (v, fl) := lensSum (Rnd.ofCode l.wrnd) [(matrixAt matrix (spelled l (targetsOf bs) idx), a)]
      (writeAmp acc.1 m x v.1 v.2, acc.2.1 ||| fl, acc.2.2)

/-! The meeting (11 R248) and the swap stage (11 R253). -/

/-- A physical index with the bits of every pair exchanged. -/
def exchangeBits (pairs : List (Nat × Nat)) (idx : Nat) : Nat :=
  pairs.foldl (fun i p =>
    let a := bitOf idx p.1
    let b := bitOf idx p.2
    if a == b then i else if a then i - 2 ^ p.1 + 2 ^ p.2 else i - 2 ^ p.2 + 2 ^ p.1) idx

/-- The map with the bits of every pair exchanged. -/
def exchangeMap (pairs : List (Nat × Nat)) (map : List Nat) : List Nat :=
  map.map (fun b => pairs.foldl (fun c p => if b == p.1 then p.2 else if b == p.2 then p.1 else c) b)

/-- The pairs that the swap stage chooses for the targets on member bits, in list order; none where a target finds no local bit. -/
def choosePairs (l : LensState) (busy : List Nat) : List Nat → Option (List (Nat × Nat))
  | [] => some []
  | q :: qs =>
    let b := l.phys q
    if b < l.local then choosePairs l busy qs
    else
      match (List.range l.local).find? (fun c => !busy.contains c) with
      | none => none
      | some c =>
        match choosePairs l (c :: busy) qs with
        | none => none
        | some ps => some ((c, b) :: ps)

/-- The physical bits of a gate's targets and controls. -/
def busyBits (l : LensState) (bs : List Byte) : List Nat :=
  (targetsOf bs).map l.phys ++ ((List.range l.n).filter (fun q => bitOf (fieldAt bs 8 8) q)).map l.phys

/-- What a command's start decides: the pairs of its superstep, or none where it ends with code 2. -/
def swapPlan (l : LensState) (c : LensCmd) : Option (List (Nat × Nat)) :=
  match c.instr with
  | .qgate .. => choosePairs l (busyBits l c.record) (targetsOf c.record)
  | .qswap .. =>
    let p := l.phys (recByte c.record 0)
    let b := recByte c.record 1
    some (if p == b || (p < l.local && b < l.local) then [] else [(min p b, max p b)])
  | _ => some []

/-- The bytes of a command that the members compare: everything but its results. -/
def comparedBytes (c : LensCmd) : List Byte :=
  match c.instr with
  | .qprob .. => c.record.take 8
  | .qproj .. => c.record.take 8 ++ c.record.drop 12
  | _ => c.record

/-- The function number of a Lens command (11 Table 11.4). -/
def lensFn (i : Instr) : Nat :=
  match i with
  | .qmap .. => 1
  | .qinit .. => 2
  | .qgate .. => 3
  | .qdiag .. => 4
  | .qswap .. => 5
  | .qprob .. => 6
  | .qproj .. => 7
  | _ => 8

/-- The matrix that a command reads at its start. -/
def startMatrix (s : State) (c : LensCmd) : List Byte :=
  (scrBytes s c.core (c.off + recordHead c.instr) (matrixBytes c.instr (recByte c.record 0))).1

/-- What a member's part of a probability of one value is (11 R257): its sum, the flags of forming it, and the first poisoned amplitude. -/
structure ProbPart where
  sum   : Option Elem
  flags : Flags
  bad   : Option Trap
  deriving DecidableEq, Repr

/-- A part with one more amplitude. -/
def ProbPart.add (down : Bool) (m : LMember) (x : Nat) (a : Amp) (p : ProbPart) : ProbPart :=
  if a.psn then { p with bad := p.bad.or (some (ampPoison m x)) }
  else
    let (s1, f1) := lensFma down (fp32 a.re) (fp32 a.re) p.sum
    let (s2, f2) := lensFma down (fp32 a.im) (fp32 a.im) s1
    { p with sum := s2, flags := p.flags ||| f1 ||| f2 }

/-- A part with nothing summed. -/
def ProbPart.empty : ProbPart := { sum := none, flags := 0, bad := none }

/-- A member's parts of the probabilities of 0 and of 1 (11 R257). -/
def probSums (s : State) (l : LensState) (m : LMember) (q : Nat) : ProbPart × ProbPart :=
  let down := Rnd.ofCode l.wrnd == .down
  (List.range (2 ^ l.local)).foldl (fun acc x =>
    let a := readAmp s m x
    if bitOf (l.index m x) (l.phys q) then (acc.1, acc.2.add down m x a) else (acc.1.add down m x a, acc.2))
    (ProbPart.empty, ProbPart.empty)

/-- The parts that a member in another package has sent. -/
def farParts (i : LensIssue) : ProbPart × ProbPart :=
  let part := fun (c : Option (BitVec 36)) (b : Option Word) =>
    ({ sum := c.map (fun e => { bits := cData e, tail := cTail e, tail2 := 0, psn := false }), flags := 0, bad := b.map poisonTrap } : ProbPart)
  (part i.s0 i.bad0, part i.s1 i.bad1)

/-- A total over the members in the canonical tree, rounded (11 R257): its code and the flags of combining and rounding. -/
def probTotal (l : LensState) (parts : List (LMember × Option Elem)) : Nat × Flags :=
  let r := Rnd.ofCode l.wrnd
  let leaf := fun (p : LMember × Option Elem) =>
    p.2.map (fun e => ({ pkg := p.1.pkg, unit := p.1.hart, val := [mkC false e.tail e.bits] } : TreeNode))
  let place := fun (a b : LMember × Option Elem) => a.1.pkg < b.1.pkg || (a.1.pkg == b.1.pkg && a.1.hart < b.1.hart)
  let leaves := (sortBy place parts).filterMap leaf
  let (v, fl) := treeFold (combPayload 0 1 (if r == .down then 2 else 0)) leaves
  match v with
  | [] => (0, fl)
  | c :: _ => let w := settle fFP32 r (fFP32.value (cData c) (cTail c)); (w.code, fl ||| w.flags)

/-- A 32-bit number as bytes. -/
def bytes4 (v : Nat) : List Byte := [BitVec.ofNat 8 v, BitVec.ofNat 8 (v / 2 ^ 8), BitVec.ofNat 8 (v / 2 ^ 16), BitVec.ofNat 8 (v / 2 ^ 24)]

/-- The totals of a qprob or qproj, found at the meeting: each own member's command takes them, with the flags of the sums that it needs and
the poison report. far: the parts of the members in other packages. -/
def startProb (s : State) (l : LensState) (ms : List LMember) (far : List (LMember × (ProbPart × ProbPart))) (q : Nat)
    (need0 need1 : Bool) : State :=
  let own := ms.map (fun m => (m, probSums s l m q))
  let sums := own ++ far
  let (p0, f0) := probTotal l (sums.map (fun p => (p.1, p.2.1.sum)))
  let (p1, f1) := probTotal l (sums.map (fun p => (p.1, p.2.2.sum)))
  let bad0 := sums.findSome? (fun p => p.2.1.bad)
  let bad1 := sums.findSome? (fun p => p.2.2.bad)
  let bad := (if need0 then bad0 else none).or (if need1 then bad1 else none)
  let mark := fun (b : Option Trap) => if b.isSome then (1 : Byte) else 0
  own.foldl (fun s p => mapLensHead s p.1.ctx (fun c =>
    let fl := (if need0 then p.2.1.flags ||| f0 else 0) ||| (if need1 then p.2.2.flags ||| f1 else 0)
    { c with matrix := bytes4 p0 ++ bytes4 p1 ++ [mark bad0, mark bad1], flags := setFlags c.flags fl, report := bad })) s

/-- QMAP for a command (11 R249). -/
def qmapTrap (num : Word) (code : Nat) : Trap := { cause := .qmap, tval := num, tval2 := word code }

/-- Every member's command starts as one that does nothing, reporting a code. -/
def startNoop (s : State) (ms : List LMember) (code : Nat) : State :=
  ms.foldl (fun s m => mapLensHead s m.ctx (fun c => { c with started := true, noop := true, report := some (qmapTrap c.num code) })) s

/-- The map after the start of a command that changes it without a superstep (11 R250, R251, R256). -/
def startMap (l : LensState) (c : LensCmd) : List Nat :=
  match c.instr with
  | .qmap .. => (List.range l.n).map (fun q => recByte c.record (8 + q))
  | .qinit .. => List.range l.n
  | .qswap .. => exchangeMap [(l.phys (recByte c.record 0), recByte c.record 1)] l.map
  | _ => l.map

/-- LENS_COMMAND_START (11 R248): once every member has the next collective command at the head of its queue, their bytes are compared;
the command starts, or the state fails. Members in other packages have sent what is compared. -/
def lensStart (s : State) (slot : Nat) : State :=
  match smFind s.lens slot with
  | none => s
  | some l =>
    let ms := l.members.filter (fun m => !m.left && !isRemote m.ctx)
    let others := l.members.filter (fun m => !m.left && isRemote m.ctx)
    let heads := ms.filterMap (fun m => lensHead s m.ctx)
    let far := others.filterMap (fun m => m.issued.head?.map (fun i => (m, i)))
    let ready := heads.length == ms.length && heads.all (fun c => c.slot == slot && c.coll == some l.next && !c.started) &&
      far.length == others.length
    if l.run || l.failed || ms.isEmpty || !ready then s
    else
      let full := heads.map (fun c => (lensFn c.instr, comparedBytes c, startMatrix s c)) ++
        far.map (fun p => (p.2.fn, p.2.record, p.2.matrix))
      let l := { l with members := l.members.map (fun m => { m with issued := m.issued.drop 1 }) }
      match heads, full with
      | c :: _, f :: fs =>
        if !fs.all (fun g => g == f) then
          startNoop (putL s slot { l with failed := true, run := true }) ms 1
        else
          match swapPlan l c with
          | none => startNoop (putL s slot { l with run := true }) ms 2
          | some pairs =>
            let l1 := { l with run := true, swap := pairs, inbox := [] }
            let l2 := if pairs.isEmpty then { l1 with map := startMap l c } else l1
            let kept := match c.instr with
              | .qswap .. => [BitVec.ofNat 8 (l.phys (recByte c.record 0))]
              | _ => f.2.2
            let s1 := ms.foldl (fun s m =>
              mapLensHead s m.ctx (fun c => { c with started := true, matrix := kept })) (putL s slot l2)
            let parts := far.map (fun p => (p.1, farParts p.2))
            match c.instr with
            | .qprob .. => startProb s1 l ms parts (recByte c.record 0) true true
            | .qproj .. => startProb s1 l ms parts (recByte c.record 0) (recByte c.record 1 == 0) (recByte c.record 1 == 1)
            | _ => s1
      | _, _ => s

/-- The event of a meeting. -/
def execLensCommandStart (slot : Nat) (st : State) : Out := live st (fun s => lensStart s slot)

/-- The member with a rank. -/
def LensState.ranked (l : LensState) (r : Nat) : Option LMember := l.members.find? (fun m => m.rank == r)

/-- The amplitudes of some own members moved by an exchange of bits: every leaving amplitude is read before any arriving one is written, bits
and poison moving unchanged (11 R253). What comes from another package is in the inbox, what leaves for one is not written here. -/
def moveAmps (s : State) (l : LensState) (pairs : List (Nat × Nat)) (ms : List LMember) : State :=
  let near := ms.flatMap (fun m => (List.range (2 ^ l.local)).filterMap (fun x =>
    let i := l.index m x
    let j := exchangeBits pairs i
    if j == i then none else some (j, readAmp s m x)))
  let far := l.inbox.map (fun p => (p.1, ({ re := p.2.1.toNat % 2 ^ 32, im := p.2.1.toNat / 2 ^ 32, psn := p.2.2 } : Amp)))
  (near ++ far).foldl (fun s p =>
    match ms.find? (fun m => m.rank == p.1 / 2 ^ l.local) with
    | none => s
    | some m =>
      let x := p.1 % 2 ^ l.local
      let s1 := writeAmp s m x p.2.re p.2.im
      if p.2.psn then poisonAmp s1 m x else s1) s

/-- The amplitudes of a superstep that come from other packages, or leave for them, as the packages with their bytes on the links: 16 for
each amplitude, as a record of the state's exchange context. -/
def swapTraffic (l : LensState) (ms : List LMember) : List (Nat × Nat) :=
  let pkgs := (l.members.filter (fun m => isRemote m.ctx)).map (fun m => m.pkg)
  pkgs.eraseDups.map (fun p => (p, 16 * (ms.map (fun m => ((List.range (2 ^ l.local)).filter (fun x =>
    match l.ranked (exchangeBits l.swap (l.index m x) / 2 ^ l.local) with
    | some k => isRemote k.ctx && k.pkg == p
    | none => false)).length)).sum))

/-- LENS_SWAP_SUPERSTEP (11 R253): one superstep of the state's exchange context under the Beacon, once what comes from other packages is
here; where what leaves finds no route, the state fails (16 R349). -/
def lensSwap (s : State) (slot : Nat) : State :=
  match smFind s.lens slot with
  | none => s
  | some l =>
    let ms := l.members.filter (fun m => !isRemote m.ctx)
    let out := (swapTraffic l ms).filter (fun p => p.2 != 0)
    if !l.run || l.swap.isEmpty || l.failed || (out.map (fun p => p.2)).sum != 16 * l.inbox.length ||
        out.any (fun p => linkStalled s p.1 0 p.2) then s
    else if out.any (fun p => (portTo s p.1).isNone) then putL s slot { l with failed := true }
    else
      let s1 := out.foldl (fun s p => linkSend s p.1 0 (plainRecord s p.2) (.swap slot)) (moveAmps s l l.swap ms)
      let s2 := putL s1 slot { l with map := exchangeMap l.swap l.map, swap := [], inbox := [] }
      match l.xslot with
      | none => s2
      | some x =>
        match smFind s2.xctx x with
        | none => s2
        | some c => putX s2 x { c with step := c.step + 1 }

/-- The event of a superstep. -/
def execLensSwapSuperstep (slot : Nat) (st : State) : Out := live st (fun s => lensSwap s slot)

/-! Completion (11 R250 to R259). -/

/-- part / √p, the exact quotient rounded (11 R258): the quotient's square is part² / p, and its root is taken to 100 bits and a sticky
bit. -/
def rootQuotient (x p : Ex) : Ex :=
  let e := 2 * x.e - p.e
  let odd := e % 2 != 0
  let a := x.m * x.m * (if odd then 2 else 1)
  let e2 := if odd then e - 1 else e
  let t := 100 + p.m.log2
  let r := isqrt (a * 4 ^ t / p.m)
  { neg := x.neg, m := r, e := e2 / 2 - (t : Int), sticky := r * r * p.m != a * 4 ^ t }

/-- A part divided by √p and rounded. -/
def projectPart (r : Rnd) (p part : Nat) : Nat × Flags :=
  let v := fp32 part
  let q : FRes := match v, fp32 p with
    | .fin x, .fin y => if x.m == 0 then (.fin (Ex.zero x.neg), 0) else (.fin (rootQuotient x y), 0)
    | a, b => fDiv a (fSqrt b).1
  let w := settle fFP32 r q.1
  (w.code, q.2 ||| w.flags)

/-- One amplitude of a projection onto V; a poisoned one that it reads stays as it is and is reported (11 R248). An amplitude whose Q is not V
becomes zero even where a part of it is a NaN: 11 R258 says of every such part that it becomes +0, and of a NaN part that it stays NaN (DESIGN
CHOICE, log entry 125). -/
def projectAmp (l : LensState) (m : LMember) (q v p : Nat) (acc : LensStep) (x : Nat) : LensStep :=
  if bitOf (l.index m x) (l.phys q) == (v == 1) then
    let a := readAmp acc.1 m x
    if a.psn then (acc.1, acc.2.1, acc.2.2.or (some (ampPoison m x)))
    else
      let r := Rnd.ofCode l.wrnd
      let (re, f1) := projectPart r p a.re
      let (im, f2) := projectPart r p a.im
      (writeAmp acc.1 m x re im, acc.2.1 ||| f1 ||| f2, acc.2.2)
  else (writeAmp acc.1 m x 0 0, acc.2)

/-- Writes 4 bytes of a command's record in the scratchpad. -/
def putRecord (s : State) (c : LensCmd) (off v n : Nat) : State := writeNat s 0 (scrKey c.core (c.off + off)) v n

/-- What a started command does at a member. A qproj whose sum for V met poison changes no amplitude, those of the other value included: 11 R248
says that nothing is written for the sum that needed it, and every new amplitude of a qproj needs p or belongs to that projection (DESIGN
CHOICE, log entry 126). -/
def lensApply (s : State) (l : LensState) (m : LMember) (c : LensCmd) : LensStep :=
  let all := List.range (2 ^ l.local)
  match c.instr with
  | .qinit .. =>
    (all.foldl (fun s x => writeAmp s m x (if l.index m x == fieldAt c.record 0 8 then 0x3F800000 else 0) 0) s, 0, none)
  | .qgate .. => all.foldl (gateGroup l m c.record c.matrix) (s, 0, none)
  | .qdiag .. => all.foldl (diagAmp l m c.record c.matrix) (s, 0, none)
  | .qswap .. => (s, 0, none)
  | .qprob .. =>
    let s1 := if recByte c.matrix 8 == 0 then putRecord s c 8 (fieldAt c.matrix 0 4) 4 else s
    (if recByte c.matrix 9 == 0 then putRecord s1 c 12 (fieldAt c.matrix 4 4) 4 else s1, 0, none)
  | .qproj .. =>
    let v := recByte c.record 1
    let p := fieldAt c.matrix (4 * v) 4
    if recByte c.matrix (8 + v) != 0 then (s, 0, none)
    else
      let s1 := putRecord s c 8 p 4
      if p % 2 ^ 31 == 0 then (s1, flagDZ, some (qmapTrap c.num 4))
      else all.foldl (projectAmp l m (recByte c.record 0) v p) (s1, 0, none)
  | _ => (s, 0, none)

/-- The local permutation of a qswap between two local bits (11 R256): the map has changed at the start, so the command's own former bit is
the one that its partner holds now. -/
def localSwap (s : State) (l : LensState) (m : LMember) (pairs : List (Nat × Nat)) : State := moveAmps s { l with inbox := [] } pairs [m]

/-- Some bytes of a qread, each with its poison, written from byte n of its destination on, until one cannot be (11 R259): the state, the fault,
and the keys written. Backing areas alone are refused: 11 R247 and R259 name no outcome for a destination in a region or a posted buffer
(DESIGN CHOICE, log entry 127). -/
def readOut (c : LensCmd) : List (Nat × Bool) → Nat → State → (State × Option Trap) × List Nat
  | [], _, s => ((s, none), [])
  | (b, psn) :: bs, n, s =>
    let va := word (fieldAt c.record 16 8) + word n
    let stop := fun (r : Nat) => ({ cause := .storepf, tval := va, tval2 := word r } : Trap)
    match keptKey s c.core c.pages va .copyStore with
    | none => ((s, some (stop 2)), [])
    | some key =>
      if inAnyBacking s key then ((s, some (stop 1)), [])
      else
        let s1 := putNat s (2 ^ 57 + s.steps) key b 1
        let r := readOut c bs (n + 1) (if psn then poisonChunk s1 key else s1)
        (r.1, key :: r.2)

/-- The byte copy of a qread: every source byte is read before any destination byte is written (05 R121, 11 R259). -/
def copyOut (s : State) (m : LMember) (c : LensCmd) : State × Option Trap :=
  let src := (List.range (8 * fieldAt c.record 8 8)).map (fun n =>
    keptByte s (coreOf m.hart) m.pages (m.base + word (8 * fieldAt c.record 0 8 + n)))
  let s0 := keptFetch s (coreOf m.hart) m.pages (m.base + word (8 * fieldAt c.record 0 8)) src.length
  let r := readOut c src 0 s0
  let va := word (fieldAt c.record 16 8)
  let bs := r.2.map (fun k => ({ key := k, mask := 0xFF, val := 0 } : MaskedByte))
  (keptTouch (notePartial r.1.1 r.2) c.core c.pages bs va r.2.length, r.1.2)

/-- A command that is not collective, performed (11 R250, R259). -/
def lensAlone (s : State) (l : LensState) (m : LMember) (c : LensCmd) : State × Option Trap :=
  match c.instr with
  | .qread .. => copyOut s m c
  | _ =>
    ((List.range 64).foldl (fun s q => putRecord s c (8 + q) (if q < l.n then l.phys q else 0xFF) 1) s, none)

/-- The state with a member's part of the running command done; when it was the last, the members go on to the next (11 R248). -/
def memberDone (s : State) (slot ctx : Nat) : State :=
  match smFind s.lens slot with
  | none => s
  | some l =>
    let ms := l.members.map (fun m => if m.ctx == ctx then { m with done := true } else m)
    if ms.all (fun m => m.left || m.done || isRemote m.ctx) then
      putL s slot { l with members := ms.map (fun m => { m with done := m.left }), run := false, next := l.next + 1 }
    else putL s slot { l with members := ms }

/-- The head of a Lens queue completed with flags and a report. -/
def finishLens (s : State) (w : Holder) (c : LensCmd) (fl : Flags) (report : Option Trap) : State :=
  let g := getEng s w
  putEng s w { g with lens := g.lens.complete (setFlags c.flags fl) report, lensQ := g.lensQ.drop 1 }

/-- The pair of local bits that a qswap exchanges within each member: its start keeps the bit that the qubit had. -/
def swapLocal (l : LensState) (c : LensCmd) : List (Nat × Nat) :=
  match c.instr with
  | .qswap .. =>
    let b := recByte c.record 1
    let p := fieldAt c.matrix 0 1
    if p != b && p < l.local && b < l.local then [(p, b)] else []
  | _ => []

/-- The Lens engine has served a holder (01 R16). -/
def lensServed (s : State) (w : Holder) : State := served s (lensUnit (clusterOf (coreOf (holderHart s w)))) (holderHart s w)

/-- LENS_COMMAND_COMPLETE (11 R248): the head of a Lens queue completes at its member; one whose superstep fails does nothing more and
reports that its state has failed (log entry 53). -/
def lensComplete (s : State) (w : Holder) : State :=
  match (getEng s w).lensQ with
  | [] => s
  | c :: _ =>
    let ctx := match w with | .hart h => (getHart s h).ctx | .saved n => n
    match smFind s.lens c.slot with
    | none => finishLens s w c 0 (some (qmapTrap c.num 3))
    | some l =>
      match l.memberOf ctx with
      | none => finishLens s w c 0 (some (qmapTrap c.num 3))
      | some m =>
        if !c.started then
          if l.failed then finishLens s w c 0 (some (qmapTrap c.num 3))
          else if c.coll.isSome then s
          else let (s1, rep) := lensAlone (lensServed s w) l m c; finishLens s1 w c 0 rep
        else if c.noop then memberDone (finishLens s w c 0 c.report) c.slot ctx
        else if !l.swap.isEmpty then
          (if l.failed then memberDone (finishLens s w c 0 (some (qmapTrap c.num 3))) c.slot ctx else s)
        else
          let s0 := localSwap (lensServed s w) l m (swapLocal l c)
          let (s1, fl, rep) := lensApply s0 l m c
          memberDone (finishLens s1 w c fl (c.report.or rep)) c.slot ctx

/-- The event of a completing Lens command. -/
def execLensCommandComplete (h : Nat) (st : State) : Out := live st (fun s => lensComplete s (holderOf h))

end Sys2Proof.Machine
end

