-- ==== Sys2Proof/Machine/Lanes.lean ====
section
/-! DEFINITION. Ownership of the lane slices (13 R284 to R291, 07 R145): strip boundaries, requests, fork, join and release, and
what a repartition leaves of the accumulator columns (09 R208). -/

namespace Sys2Proof.Machine

/-! Slices (13 Table 13.6). -/

/-- A slice held by a hart slot, not wanted. -/
def Slice.heldBy (k : Nat) : Slice := { pend := false, req := 0, held := true, owner := BitVec.ofNat 2 k, kid := none, since := 0 }

/-- A slice passing toward a hart slot. -/
def Slice.passing (k : Nat) (kid : Option Nat) : Slice :=
  { pend := true, req := BitVec.ofNat 2 k, held := false, owner := 0, kid := kid, since := 0 }

/-- Held by hart slot k. -/
def Slice.isHeldBy (x : Slice) (k : Nat) : Bool := x.held && x.owner.toNat == k

/-- Held by hart slot k, and wanted. -/
def Slice.wantedFrom (x : Slice) (k : Nat) : Bool := x.isHeldBy k && x.pend

/-- Passing toward hart slot k. -/
def Slice.passingTo (x : Slice) (k : Nat) : Bool := !x.held && x.pend && x.req.toNat == k

/-- Wanted by, or passing toward, hart slot k. -/
def Slice.toward (x : Slice) (k : Nat) : Bool := x.pend && x.req.toNat == k

/-- Neither owned nor wanted. -/
def Slice.isIdle (x : Slice) : Bool := !x.held && !x.pend

/-- The core with every slice changed by its number. -/
def Core.mapSlices (c : Core) (f : Nat → Slice → Slice) : Core :=
  { c with slices := #v[f 0 (c.slice 0), f 1 (c.slice 1), f 2 (c.slice 2), f 3 (c.slice 3)] }

/-- A strip boundary of hart slot k has a change to make (13 R285). -/
def Core.hasChange (c : Core) (k : Nat) : Bool :=
  [0, 1, 2, 3].any (fun j => (c.slice j).wantedFrom k || (c.slice j).passingTo k)

/-- The changes of a strip boundary of the context ctx in hart slot k, together (13 R285). A slice that passes on remembers who gave it (R290). -/
def Core.boundary (c : Core) (k ctx : Nat) : Core :=
  c.mapSlices (fun _ x =>
    if x.wantedFrom k then Slice.passing x.req.toNat (some ctx) else if x.passingTo k then Slice.heldBy k else x)

/-- The requests of hart slot k cancelled (13 R288). -/
def Core.cancel (c : Core) (k : Nat) : Core :=
  c.mapSlices (fun _ x =>
    if !x.toward k then x else if x.held then Slice.heldBy x.owner.toNat else Slice.idle)

/-- Every slice that the context ctx in hart slot k holds passes toward its REQ when wanted; else toward the given slot, else it becomes idle
(13 R287, R291, R292). -/
def Core.release (c : Core) (k ctx : Nat) (dest : Option Nat) : Core :=
  c.mapSlices (fun _ x =>
    if !x.isHeldBy k then x
    else if x.pend then Slice.passing x.req.toNat (some ctx)
    else match dest with
      | some p => Slice.passing p (some ctx)
      | none => Slice.idle)

/-- The slices that hart slot k holds that are not wanted, in ascending number. -/
def Core.free (c : Core) (k : Nat) : List Nat := (c.owned k).filter (fun j => !(c.slice j).pend)

/-- The idle slices of a core, in ascending number. -/
def Core.idle (c : Core) : List Nat := [0, 1, 2, 3].filter (fun j => (c.slice j).isIdle)

/-- Some slices given to hart slot k. -/
def Core.give (c : Core) (k : Nat) (js : List Nat) : Core :=
  c.mapSlices (fun j x => if js.contains j then Slice.heldBy k else x)

/-- The state with a hart's core changed, and what the new count of slices leaves of the hart's accumulator columns (09 R208): columns
beyond it are discarded, columns gained are zero, and each group whose slice changed is to be moved. -/
def withLanes (s : State) (h : Nat) (f : Core → Core) : State :=
  let old := ownedBy s h
  let s1 := putCore s (coreOf h) (f (getCore s (coreOf h)))
  let new := ownedBy s1 h
  let x := getHart s1 h
  let moves := ((List.zip old new).filter (fun p => p.1 != p.2)).length
  putHart s1 h { x with
    acc := if old.length ≤ new.length then x.acc else x.acc.filter (fun p => p.1 % 64 < 16 * new.length)
    colMoves := x.colMoves + moves }

/-- The older work that a strip boundary waits for has completed (13 R285). -/
def Hart.drained (x : Hart) : Bool := x.viq.isEmpty && x.eng.mtxQ.isEmpty

/-- ACC_COLUMN_MOVE (09 R208): one column group reaches the slice of its rank. -/
def execAccColumnMove (h : Nat) (st : State) : Out :=
  live st (fun s => let x := getHart s h; if x.colMoves = 0 then s else putHart s h { x with colMoves := x.colMoves - 1 })

/-! setvl (07 R145). -/

/-- VLMAX of n slices under a format. -/
def vlmax (n f : Nat) : Nat := if fmtTwo f then 64 * n else 128 * n

/-- The grant of setvl: whole blocks, as many as are available and needed. -/
def grantOf (avl blk vmax : Nat) : Nat := min ((avl + blk - 1) / blk * blk) (vmax / blk * blk)

/-- setvl (07 R145). -/
def execSetvl (d a : BitVec 5) (n : BitVec 3) (f : BitVec 5) (k o : BitVec 2) (r : BitVec 3) (st : State) : Out :=
  live st (fun s =>
    let x := curHart s
    let change := (curCore s).hasChange (s.cur % 4)
    if 24 ≤ f.toNat then illegal s (.setvl d a n f k o r)
    else if change && !x.drained then s
    else
      let s1 := if change then withLanes s s.cur (fun c => c.boundary (s.cur % 4) x.ctx) else s
      let avl := (x.getS a).toNat
      let grant := grantOf avl (16 * 2 ^ k.toNat) (vlmax (keptSlices s1 s.cur) f.toNat)
      let pad := grant - avl
      retire s1 (fun y =>
        (y.setSh n.toNat (shapeOf grant pad f.toNat k.toNat r.toNat o.toNat)).setS d (word (grant - pad))))

/-! Families (13 R289). -/

/-- The parent of a context, if it was started by forkl. -/
def parentOf (s : State) (ctx : Nat) : Option Nat :=
  match hartOfCtx s ctx with
  | some h => (getHart s h).parent
  | none => match savedCtx s ctx with | some v => v.parent | none => none

/-- The first member of a context's family; a family has at most four members. -/
def famRootAux (s : State) : Nat → Nat → Nat
  | 0, ctx => ctx
  | n + 1, ctx => match parentOf s ctx with | some p => famRootAux s n p | none => ctx

/-- The first member of a context's family. -/
def famRoot (s : State) (ctx : Nat) : Nat := famRootAux s 4 ctx

/-- A context is live: bound, or saved. -/
def liveCtx (s : State) (ctx : Nat) : Bool := (hartOfCtx s ctx).isSome || (savedCtx s ctx).isSome

/-- The backing areas that live members of a family hold. -/
def famAreas (s : State) (root : Nat) : List Nat :=
  (s.harts.filter (fun p => p.2.bound && famRoot s p.2.ctx == root)).map (fun p => p.2.area) ++
    (s.saved.filter (fun v => famRoot s v.ctx == root)).map (fun v => v.area)

/-- The VBACK of a family's first member. -/
def famVback (s : State) (root : Nat) (dflt : Word) : Word :=
  match hartOfCtx s root with
  | some h => (getHart s h).csr.vback
  | none => dflt

/-- The save slot of a hart for a nest (14 R303, 15 R328). -/
def slotFor (s : State) (nest h : Nat) : Word :=
  match smFind s.nests nest with
  | some n => n.rc.save + word (h * 0x200000)
  | none => word (h * 0x200000)

/-- The child that forkl starts in a slot (13 R289). -/
def forkChild (s : State) (x : Hart) (h : Nat) (pc : Word) (area : Nat) (base : Word) : Hart :=
  let r := Hart.reset
  { r with
    bound := true, ctx := s.nextCtx, nest := x.nest, ordinal := x.ordinal, handout := now s, parent := some x.ctx,
    area := area, famBase := base, back := vbackWritten (base + word (area * backBytes)), saveSlot := slotFor s x.nest h, gpr := x.gpr, pc := pc, shape := x.shape
    csr := { Csrs.reset with
      fpctl := x.csr.fpctl, nestid := x.csr.nestid, deadline := x.csr.deadline, tvec := x.csr.tvec,
      ptroot := x.csr.ptroot, resthr := x.csr.resthr, vback := vbackWritten (base + word (area * backBytes)),
      tstatus := tstatusOf false false x.user } }

/-- The first hart slot of a core that nothing is bound to. -/
def freeSlot (s : State) (core : Nat) : Option Nat := [0, 1, 2, 3].find? (fun k => !(getHart s (4 * core + k)).bound)

/-- forkl (13 R289): what the hart has stored before is performed, so that the child sees it. -/
def execForkl (d a : BitVec 5) (st : State) : Out :=
  live st (fun s =>
    let x := curHart s
    let pc := x.getS a
    let core := coreOf s.cur
    let free := (curCore s).free (s.cur % 4)
    let n := free.length
    if pc.toNat % 4 != 0 then trapHere s (alignTrap pc)
    else if !x.drained then s
    else
      match (if n < 2 then none else freeSlot s core) with
      | none => retireS s d 0
      | some k =>
        let root := famRoot s x.ctx
        let used := famAreas s root
        let area := (([1, 2, 3].find? (fun i => !used.contains i))).getD 1
        let child := forkChild s x (4 * core + k) pc area (famVback s root x.famBase)
        let s0 := if x.storeQ.isEmpty then s else drainAll s s.cur
        let s1 := withLanes s0 s.cur (fun c => c.give k (free.drop (n - n / 2)))
        let s2 := putHart { s1 with nextCtx := s1.nextCtx + 1 } (4 * core + k) child
        retire s2 (fun y => { y.setS d (word (k + 1)) with kids := (k, child.ctx) :: y.kids }))

/-- The slices that an ended child passed to hart slot k, at a boundary of its own or at its end, are held by it (13 R290). -/
def Core.takeKid (c : Core) (k kid : Nat) : Core :=
  c.mapSlices (fun _ x => if x.passingTo k && x.kid == some kid then Slice.heldBy k else x)

/-- The state with a child that is no longer live joined by the executing hart. -/
def joinKid (s : State) (kid : Nat) : State :=
  let s1 := withLanes s s.cur (fun c => c.takeKid (s.cur % 4) kid)
  let x := curHart s1
  putCur s1 { x with kids := x.kids.filter (fun p => p.2 != kid) }

/-- joinl (13 R290): a wait for the child, whose slices the hart then holds; any other value does nothing. -/
def execJoinl (a : BitVec 5) (st : State) : Out :=
  live st (fun s =>
    let x := curHart s
    let v := (x.getS a).toNat
    match x.kids.find? (fun p => p.1 + 1 == v) with
    | none => retire s (fun y => y)
    | some p => if liveCtx s p.2 then s else retire (joinKid s p.2) (fun y => y))

/-! Halts asked for (15 R325, R326). -/

/-- The request that stands after another one: a stop wins over a save (14 Table 14.5). -/
def mergeRequest (old : Option HaltReason) (r : HaltReason) : Option HaltReason :=
  match old with
  | none => some r
  | some o => if !haltStops o && haltStops r then some r else some o

/-- A context and its live descendants (13 R289, 15 R325). -/
def descends (s : State) (root ctx : Nat) : Nat → Bool
  | 0 => ctx == root
  | n + 1 => ctx == root || (match parentOf s ctx with | some p => descends s root p n | none => false)

/-- A halt asked for at a hart: its live children halt with it (15 R325). -/
def requestHalt (s : State) (h : Nat) (r : HaltReason) : State :=
  let x := getHart s h
  if !x.bound then s
  else
    { s with harts := s.harts.map (fun (p : Nat × Hart) =>
        if p.2.bound && descends s x.ctx p.2.ctx 4 then (p.1, { p.2 with request := mergeRequest p.2.request r }) else p) }

/-! lpreq and vrel (13 R286, R291). -/

/-- A slice after the take and cancel bits of hart slot k (13 R286); time: when its LPWAIT count starts. -/
def Slice.asked (x : Slice) (k : Nat) (time : Word) (take cancel : Bool) : Slice :=
  if take then
    if x.isIdle then Slice.passing k none
    else if x.held && !x.isHeldBy k && !x.pend then { x with pend := true, req := BitVec.ofNat 2 k, since := time }
    else x
  else if cancel && x.toward k then (if x.held then Slice.heldBy x.owner.toNat else Slice.idle)
  else x

/-- The result word of lpreq (13 Table 13.7). -/
def lpreqWord (c : Core) (k : Nat) : Word :=
  word (([0, 1, 2, 3].map (fun j =>
    let x := c.slice j
    (if x.toward k then 16 * 2 ^ j else 0) + (if x.isHeldBy k then 2 ^ j else 0))).sum)

/-- The owners of a core's wanted slices are asked to halt (13 R287). -/
def forceWanted (s : State) (core : Nat) : State :=
  [0, 1, 2, 3].foldl (fun s j =>
    let x := (getCore s core).slice j
    if x.held && x.pend then requestHalt s (4 * core + x.owner.toNat) .repartition else s) s

/-- lpreq (13 R286); with LPWAIT = 0 a wanted slice's owner is forced out at once (R287). -/
def execLpreq (d a : BitVec 5) (st : State) : Out :=
  live st (fun s =>
    let v := ((curHart s).getS a).toNat
    let k := s.cur % 4
    let core := coreOf s.cur
    let s1 := withLanes s s.cur (fun c => c.mapSlices (fun j x => x.asked k s.time (bitOf v j) (bitOf v (4 + j))))
    let c := getCore s1 core
    let s2 := if c.lpwait = 0 then forceWanted s1 core else s1
    retireS s2 d (lpreqWord c k))

/-- Whether a slice has been wanted for LPWAIT cycles of 0.625 ns (13 R287, 00 R4). -/
def lpwaitOver (s : State) (core : Nat) (x : Slice) : Bool :=
  x.held && x.pend && 5 * (getCore s core).lpwait.toNat ≤ 8 * (s.time - x.since).toNat

/-- LPWAIT_EXPIRY (13 R287): the owner of a slice that has been wanted for LPWAIT cycles is asked to halt. -/
def lpwaitExpiry (s : State) (core slice : Nat) : State :=
  let x := (getCore s core).slice slice
  if lpwaitOver s core x then requestHalt s (4 * core + x.owner.toNat) .repartition else s

/-- The event of an expiry. -/
def execLpwaitExpiry (core slice : Nat) (st : State) : Out := live st (fun s => lpwaitExpiry s core slice)

/-- The hart with every vector line dead (06 R133). -/
def Hart.killLines (x : Hart) : Hart := { x with vreg := [], vlines := [] }

/-- What vrel does after its boundary's changes (13 R291); dest: where a child's unwanted slices go (R292). -/
def releaseLanes (s : State) (h : Nat) (dest : Option Nat) : State :=
  let s1 := freeStreams s h
  let s2 := withLanes s1 h (fun c => (c.release (h % 4) (getHart s1 h).ctx dest).cancel (h % 4))
  let x := getHart s2 h
  putHart s2 h { x.killLines with acc := [] }

/-- vrel waits while the hart holds a slice or a change is due, and older work is left (13 R285). -/
def boundaryWaits (s : State) (h : Nat) : Bool :=
  let c := getCore s (coreOf h)
  (c.hasChange (h % 4) || !(c.owned (h % 4)).isEmpty) && !(getHart s h).drained

/-- vrel (13 R291). -/
def execVrel (st : State) : Out :=
  live st (fun s =>
    if boundaryWaits s s.cur then s
    else
      let s1 := withLanes s s.cur (fun c => c.boundary (s.cur % 4) (curHart s).ctx)
      retire (releaseLanes s1 s.cur none) (fun y => y))

end Sys2Proof.Machine
end

