-- ==== Sys2Proof/Machine/Nests.lean ====
section
/-! DEFINITION. Loop nests (14 R299 to R306, R314, R319): records and their checks, submission, the iteration space, accounting of
iterations, walkers, and nstat. -/

namespace Sys2Proof.Machine

/-! Records (14 Table 14.1, Table 14.2). -/

/-- Fields of CTRL. -/
def NestRec.field (r : NestRec) (lo bits : Nat) : Nat := r.ctrl.toNat / 2 ^ lo % 2 ^ bits

def NestRec.ndim (r : NestRec) : Nat := r.field 0 3
def NestRec.indm (r : NestRec) : Nat := r.field 3 4
def NestRec.walkOrder (r : NestRec) : Nat := r.field 7 2
def NestRec.slices (r : NestRec) : Nat := r.field 9 3
def NestRec.prio (r : NestRec) : Nat := r.field 12 3
def NestRec.hard (r : NestRec) : Bool := r.field 15 1 == 1
def NestRec.bkn (r : NestRec) : Nat := r.field 16 3
def NestRec.wstat (r : NestRec) : Nat := r.field 19 4

/-- The triple of a record (04 R80). -/
def NestRec.triple (r : NestRec) : Nat × Nat × Nat := (r.preg, r.pscr, r.pl1)

/-- A record of 256 bytes. -/
def nestRecOf (bs : List Byte) : NestRec :=
  { entry := word (fieldAt bs 0 8), param := word (fieldAt bs 8 8), stack := word (fieldAt bs 16 8),
    back := word (fieldAt bs 24 8), save := word (fieldAt bs 32 8),
    cnt := [fieldAt bs 40 4, fieldAt bs 44 4, fieldAt bs 48 4, fieldAt bs 52 4],
    ind := [word (fieldAt bs 56 8), word (fieldAt bs 64 8), word (fieldAt bs 72 8), word (fieldAt bs 80 8)],
    ctrl := word (fieldAt bs 88 8), stksz := fieldAt bs 96 4, preg := fieldAt bs 100 2, pscr := fieldAt bs 102 2,
    pl1 := fieldAt bs 104 2, age := fieldAt bs 108 4, dline := fieldAt bs 112 8,
    waita := [word (fieldAt bs 120 8), word (fieldAt bs 128 8), word (fieldAt bs 136 8), word (fieldAt bs 144 8)],
    waitn := [word (fieldAt bs 152 8), word (fieldAt bs 160 8), word (fieldAt bs 168 8), word (fieldAt bs 176 8)],
    cblk := word (fieldAt bs 184 8), place := fieldAt bs 192 16 }

/-- Whether a placement names a cluster of a stack domain in service (14 R300, 01 R13). -/
def placeServed (fenced : BitVec 8) (place : Nat) : Bool :=
  (List.range 80).any (fun c => bitOf place c && !fenced.getLsbD (c / 10))

/-- The offsets that dimension or wait entry k puts in error. -/
def nestEntryErrors (r : NestRec) (k : Nat) : List (Nat × Bool) :=
  let ind := decide (k < r.ndim) && bitOf r.indm k
  let cnt := r.cnt.getD k 0
  let ia := (r.ind.getD k 0).toNat
  let wa := (r.waita.getD k 0).toNat
  let wn := (r.waitn.getD k 0).toNat
  let ws := bitOf r.wstat k
  [(40 + 4 * k, cnt != 0 && (ind || decide (r.ndim ≤ k))),
   (56 + 8 * k, if ind then ia % 4 != 0 else ia != 0),
   (120 + 8 * k, wa % 8 != 0 || (ws && wa == 0)),
   (152 + 8 * k, wn != 0 && (wa == 0 || ws))]

/-- The offset at which a triple is in error (14 R300, 04 R80). -/
def tripleErrors (r : NestRec) : List (Nat × Bool) :=
  if r.slices = 0 then
    [(if r.pl1 != 0 then 104 else if r.pscr != 0 then 102 else 100, r.preg != 0 || r.pscr != 0 || r.pl1 != 0)]
  else [(100, decide (r.preg < 64)), (104, decide (256 < r.preg + r.pscr + r.pl1))]

/-- Every rule of R299 and R300 with the offset at which its breach is reported. -/
def nestErrors (fenced : BitVec 8) (bs : List Byte) : List (Nat × Bool) :=
  let r := nestRecOf bs
  [(0, r.entry.toNat % 4 != 0), (16, r.stack.toNat % 16 != 0), (24, r.back.toNat % 4096 != 0), (32, r.save.toNat % 4096 != 0),
   (88, r.ctrl.toNat / 2 ^ 23 != 0 || r.ndim == 0 || decide (4 < r.ndim) || r.indm / 2 ^ r.ndim != 0 ||
      (r.indm != 0 && (r.walkOrder == 1 || r.walkOrder == 2)) || decide (4 < r.slices) || r.bkn == 0 || decide (4 < r.bkn)),
   (96, r.stksz % 16 != 0), (106, fieldAt bs 106 2 != 0), (112, decide (2 ^ 63 ≤ r.dline)), (184, r.cblk.toNat % 16 != 0),
   (192, r.place / 2 ^ 80 != 0 || !placeServed fenced r.place), (208, fieldAt bs 208 48 != 0)] ++
    tripleErrors r ++ nestEntryErrors r 0 ++ nestEntryErrors r 1 ++ nestEntryErrors r 2 ++ nestEntryErrors r 3

/-- The lowest offset in error, if there is one. -/
def nestError (fenced : BitVec 8) (bs : List Byte) : Option Nat :=
  (nestErrors fenced bs).foldl (fun m p => if !p.2 then m else match m with | none => some p.1 | some o => some (min o p.1)) none

/-! Walkers (14 R306). -/

/-- The nest of an id, if it is live. -/
def findNest (s : State) (id : Nat) : Option Nest := smFind s.nests id

/-- The state with a live nest changed. -/
def putNest (s : State) (id : Nat) (n : Nest) : State := { s with nests := smPut s.nests id n }

/-- The walker of a number. -/
def getWalker (s : State) (w : Nat) : Walker := smGet Walker.reset s.walkers w

/-- Whether a nest has a saved context. -/
def hasSaved (s : State) (id : Nat) : Bool := s.saved.any (fun v => v.nest == id)

/-- Whether a nest has a context bound to a hart. -/
def hasRunning (s : State) (id : Nat) : Bool := s.harts.any (fun p => p.2.bound && p.2.nest == id)

/-- A nest needs a walker: its walk has not ended, or a saved context of it waits. -/
def needsWalker (s : State) (id : Nat) (n : Nest) : Bool := !n.walk.finished || hasSaved s id

/-- The queue for a walker, first the one to be served: by effective priority and then by acceptance (14 R306). -/
def walkerQueue (s : State) : List (Nat × Nest) :=
  sortBy (fun (p q : Nat × Nest) => q.2.eprio < p.2.eprio || (p.2.eprio == q.2.eprio && p.2.accepted < q.2.accepted))
    (s.nests.filter (fun p => p.2.walker.isNone && needsWalker s p.1 p.2))

/-- Gives the lowest-numbered free walkers to the queue. -/
def assignWalkersAux : Nat → State → State
  | 0, s => s
  | f + 1, s =>
    match (List.range 16).find? (fun w => (getWalker s w).nest.isNone), walkerQueue s with
    | some w, (id, n) :: _ =>
      let s1 := putNest s id { n with walker := some w, ageFrom := now s }
      assignWalkersAux f { s1 with walkers := smPut s1.walkers w { getWalker s1 w with nest := some id } }
    | _, _ => s

/-- Every free walker given away, as far as nests wait for one. -/
def assignWalkers (s : State) : State := assignWalkersAux 16 s

/-- A walker whose nest's walk has ended with no saved context left is freed (14 R306). -/
def settleWalkers (s : State) : State :=
  let idle := fun (p : Nat × Walker) =>
    match p.2.nest with
    | none => false
    | some id => match findNest s id with | none => true | some n => !needsWalker s id n
  let freed := (s.walkers.filter idle).filterMap (fun p => p.2.nest)
  assignWalkers { s with
    walkers := s.walkers.map (fun (p : Nat × Walker) => if idle p then (p.1, { p.2 with nest := none }) else p)
    nests := s.nests.map (fun (p : Nat × Nest) => if freed.contains p.1 then (p.1, { p.2 with walker := none }) else p) }

/-! Submission (14 R301). -/

/-- A walk that has not begun. -/
def Walk.fresh (ndim : Nat) : Walk :=
  { started := false, tuple := List.replicate ndim 0, bounds := List.replicate ndim 0, prefOrd := List.replicate ndim 0, t := 0,
    finished := false }

/-- Who submits a nest: what the nest inherits, its priority limit, and the function that it belongs to. -/
structure Submitter where
  agent  : Agent
  tvec   : Word
  resthr : Word
  nest   : Nat
  limit  : Nat
  fn     : Option Fn
  dispatch : Bool
  deriving DecidableEq, Repr

/-- A record accepted as a live nest (14 R301); a PRIO above the submitter's limit is replaced by it. -/
def newNest (s : State) (u : Submitter) (r : NestRec) : Nest :=
  let prio := if u.agent.user then min r.prio u.limit else r.prio
  { rc := { r with ctrl := r.ctrl - word ((r.prio - prio) * 4096) }, ptroot := u.agent.root, tvec := u.tvec, resthr := u.resthr, user := u.agent.user, submitter := u.nest,
    core := u.agent.core, fn := u.fn, dispatch := u.dispatch, accepted := (s.nests.map (fun p => p.2.accepted)).foldl max 0 + 1, walker := none,
    waitsOk := r.waita.map (fun a => a == 0), walk := Walk.fresh r.ndim, ordinal := 0, out := 0, expn := 0, badref := false,
    stopped := false, withdrawing := false, draining := false, eprio := prio, ageFrom := now s }

/-- The lowest nest id that no live nest holds. -/
def freeNestId (s : State) : Nat := ((List.range 1025).map (· + 1)).find? (fun i => (findNest s i).isNone) |>.getD 65535

/-- A record submitted (14 R301): the result of nest, or the trap. -/
def submitNest (s : State) (u : Submitter) (va : Word) : Except Stop (Word × State) :=
  if va.toNat % 256 != 0 then .error { trap := alignTrap va, state := s }
  else
    match readWords s u.agent va va 32 with
    | .error t => .error t
    | .ok (ws, s1) =>
      let bs := bytesOfWords ws
      match nestError s1.boot.fenced bs with
      | some off => .error { trap := badtile va off, state := s1 }
      | none =>
        if 1024 ≤ s1.nests.length then .ok (wordOfInt (-1), s1)
        else
          let id := freeNestId s1
          .ok (word id, assignWalkers (putNest s1 id (newNest s1 u (nestRecOf bs))))

/-- The base priority of the nest of a hart, after the limit of a user-mode submission (14 R301). -/
def nestPrio (s : State) (id : Nat) : Nat :=
  match findNest s id with
  | some n => n.rc.prio
  | none => 7

/-- The function that a nest belongs to (14 R317). -/
def fnOfNest (s : State) (id : Nat) : Option Fn :=
  match findNest s id with
  | some n => n.fn
  | none => none

/-- The executing hart as a submitter. -/
def submitterOf (s : State) : Submitter :=
  let x := curHart s
  { agent := agentOf s s.cur, tvec := x.csr.tvec, resthr := x.csr.resthr, nest := x.nest, limit := nestPrio s x.nest,
    fn := fnOfNest s x.nest, dispatch := false }

/-- nest (14 R301): every earlier event of the hart precedes the walker's reads. -/
def execNest (d a : BitVec 5) (st : State) : Out :=
  live st (fun s =>
    if !(curHart s).viq.isEmpty then s
    else
      let s0 := if (curHart s).storeQ.isEmpty then s else drainAll s s.cur
      match submitNest s0 (submitterOf s0) ((curHart s).getS a) with
      | .error e => trapHere e.state e.trap
      | .ok (v, s1) => retireS s1 d v)

/-! Status (14 R319). -/

/-- Contexts of a nest that run or are saved (13 R276: a child started by forkl is one). -/
def contextsOf (s : State) (id : Nat) : Nat :=
  (s.harts.filter (fun p => p.2.bound && p.2.nest == id)).length + (s.saved.filter (fun v => v.nest == id)).length

/-- The word of nstat for a live nest (14 Table 14.6). -/
def nstatWord (s : State) (id : Nat) (n : Nest) : Word :=
  word ((if n.withdrawing then 3 else 0) * 2 ^ 61 + (if n.waitsOk.all (fun b => b) then 0 else 2 ^ 60) + n.eprio % 8 * 2 ^ 57 +
    (if n.draining && !n.walk.finished then 2 ^ 56 else 0) + (match n.walker with | some w => w | none => 255) * 2 ^ 48 +
    min 65535 (contextsOf s id) * 2 ^ 32 + min (2 ^ 32 - 1) n.out)

/-- The result of nstat for a value. -/
def nestStatus (s : State) (v : Word) : Word :=
  match findNest s v.toNat with
  | some n => nstatWord s v.toNat n
  | none => wordOfInt (-1)

/-- nstat (14 R319). -/
def execNstat (d a : BitVec 5) (st : State) : Out := live st (fun s => retireS s d (nestStatus s ((curHart s).getS a)))

/-! The walk (14 R302, R304). -/

/-- The agent of the accesses that a walker makes for a nest. -/
def Nest.agent (n : Nest) : Agent := { core := n.core, root := n.ptroot, user := n.user, hart := 4096 }

/-- A word of n bytes that the scheduler reads for a nest: none where it faults or is poisoned. -/
def nestRead (s : State) (n : Nest) (va : Word) (k : Nat) : Option Nat × State :=
  if va.toNat % k != 0 then (none, s)
  else
    match access s n.agent va k .load .front with
    | .error e => (none, e.state)
    | .ok (key, s1) => if isPoisoned s1 key then (none, s1) else (some (memNat s1 key k), s1)

/-- INDIRECT_BOUND_READ: the bound of dimension k under the prefix of ordinal p (14 R304); whether the read failed. -/
def boundOf (s : State) (n : Nest) (k p : Nat) : Nat × Bool × State :=
  if bitOf n.rc.indm k then
    match nestRead s n (n.rc.ind.getD k 0 + word (4 * p)) 4 with
    | (some b, s1) => (b, false, s1)
    | (none, s1) => (0, true, s1)
  else (n.rc.cnt.getD k 0, false, s)

/-- A list with one place changed. -/
def setAt (l : List Nat) (k v : Nat) : List Nat := l.set k v

/-- The next iteration of a row-major or serpentine walk: dimension k is entered, or its index advanced; whether there is one. -/
def rowNext : Nat → State → Nest → Nat → Bool → Bool × Nest × State
  | 0, s, n, _, _ => (false, n, s)
  | f + 1, s, n, k, true =>
    let w := n.walk
    let p := w.prefOrd.getD k 0
    let (b, bad, s1) := boundOf s n k p
    let w1 := { w with bounds := setAt w.bounds k b, prefOrd := setAt w.prefOrd k (p + 1), tuple := setAt w.tuple k 0 }
    let n1 := { n with walk := w1, badref := n.badref || bad }
    if b = 0 then (if k = 0 then (false, n1, s1) else rowNext f s1 n1 (k - 1) false)
    else if k + 1 = n.rc.ndim then (true, n1, s1)
    else rowNext f s1 n1 (k + 1) true
  | f + 1, s, n, k, false =>
    let w := n.walk
    let j := w.tuple.getD k 0 + 1
    if j < w.bounds.getD k 0 then
      let n1 := { n with walk := { w with tuple := setAt w.tuple k j } }
      if k + 1 = n.rc.ndim then (true, n1, s) else rowNext f s n1 (k + 1) true
    else if k = 0 then (false, n, s)
    else rowNext f s n (k - 1) false

/-- The index of dimension k at a walk's place: descending under an odd prefix of a serpentine walk (14 Table 14.3). -/
def walkIndex (n : Nest) (k : Nat) : Nat :=
  let j := n.walk.tuple.getD k 0
  if n.rc.walkOrder == 3 && k != 0 && n.walk.prefOrd.getD k 0 % 2 == 0 then n.walk.bounds.getD k 0 - 1 - j else j

/-- The tuple of t in a column-major walk. -/
def columnTuple : List Nat → Nat → List Nat
  | [], _ => []
  | b :: bs, t => t % b :: columnTuple bs (t / b)

/-- The index that Z-order deals to dimension k of n: its bits of t, one in n (14 Table 14.3). -/
def dealt (n k t : Nat) : Nat :=
  ((List.range 32).map (fun i => if bitOf t (n * i + (n - 1 - k)) then 2 ^ i else 0)).sum

/-- The tuple of t in a Z-order walk of n dimensions. -/
def zTuple (n t : Nat) : List Nat := (List.range n).map (fun k => dealt n k t)

/-- Whether a tuple breaks no bound. -/
def inBounds (cnt tuple : List Nat) : Bool := (List.zip cnt tuple).all (fun p => decide (p.2 < p.1))

/-- The first t from a given one on whose tuple breaks no bound: t itself, or t raised at the lowest clear bit that serves. -/
def zFrom (n : Nat) (cnt : List Nat) (t : Nat) : Option Nat :=
  if inBounds cnt (zTuple n t) && t < 2 ^ (32 * n) then some t
  else
    (((List.range (32 * n)).filter (fun b => !bitOf t b)).map (fun b => (t / 2 ^ b + 1) * 2 ^ b)).find?
      (fun u => decide (u < 2 ^ (32 * n)) && inBounds cnt (zTuple n u))

/-- The next iteration of a walk: its tuple, if there is one, with the walk moved to it. -/
def walkStep (s : State) (n : Nest) : Option (List Nat) × Nest × State :=
  let w := n.walk
  let nd := n.rc.ndim
  let cnt := n.rc.cnt.take nd
  if w.finished then (none, n, s)
  else if n.rc.walkOrder == 1 then
    if w.t < cnt.foldl (· * ·) 1 then
      (some (columnTuple cnt w.t), { n with walk := { w with started := true, t := w.t + 1 } }, s)
    else (none, { n with walk := { w with finished := true } }, s)
  else if n.rc.walkOrder == 2 then
    match zFrom nd cnt w.t with
    | some t => (some (zTuple nd t), { n with walk := { w with started := true, t := t + 1 } }, s)
    | none => (none, { n with walk := { w with finished := true } }, s)
  else
    let (ok, n1, s1) := if w.started then rowNext (2 ^ 140) s n (nd - 1) false
      else rowNext (2 ^ 140) s { n with walk := { w with started := true } } 0 true
    if ok then (some ((List.range nd).map (walkIndex n1)), n1, s1)
    else (none, { n1 with walk := { n1.walk with finished := true } }, s1)

/-- Whether a row-major or serpentine walk ends without a further iteration and without a bound that is still to be read: dimension k is
entered, or its index advanced. -/
def rowEnds : Nat → Nest → Nat → Bool → Bool
  | 0, _, _, _ => false
  | f + 1, n, k, true =>
    if bitOf n.rc.indm k then false
    else
      let b := n.rc.cnt.getD k 0
      let n1 := { n with walk := { n.walk with bounds := setAt n.walk.bounds k b, tuple := setAt n.walk.tuple k 0 } }
      if b = 0 then k = 0 || rowEnds f n1 (k - 1) false
      else if k + 1 = n.rc.ndim then false
      else rowEnds f n1 (k + 1) true
  | f + 1, n, k, false =>
    let j := n.walk.tuple.getD k 0 + 1
    if j < n.walk.bounds.getD k 0 then
      let n1 := { n with walk := { n.walk with tuple := setAt n.walk.tuple k j } }
      if k + 1 = n.rc.ndim then false else rowEnds f n1 (k + 1) true
    else k = 0 || rowEnds f n (k - 1) false

/-- Whether a walk is known to have ended (14 R302, R304): no iteration and no unread bound is left. -/
def walkOver (s : State) (n : Nest) : Bool :=
  if n.rc.walkOrder == 1 || n.rc.walkOrder == 2 then (walkStep s n).1.isNone
  else if n.walk.started then rowEnds (2 ^ 140) n (n.rc.ndim - 1) false
  else rowEnds (2 ^ 140) n 0 true

/-- The next iteration taken, with its ordinal (14 R302). A walk that holds no further one has ended. -/
def walkTake (s : State) (n : Nest) : Option (List Nat × Nat) × Nest × State :=
  match walkStep s n with
  | (none, n1, s1) => (none, n1, s1)
  | (some t, n1, s1) =>
    let n2 := { n1 with ordinal := n1.ordinal + 1 }
    (some (t, n.ordinal), { n2 with walk := { n2.walk with finished := walkOver s1 n2 } }, s1)

/-! Completion blocks (14 R314, R315). -/

/-- A write of the scheduler at a completion block that could not be made: it is dropped and logged (14 R315, 16 R345). -/
def blockDropped (s : State) (n : Nest) (va : Word) : State := uncorrectable s (physOf s n.ptroot va)

/-- Adds 1 to COUNT (14 R314). -/
def countOne (s : State) (n : Nest) : State :=
  if n.rc.cblk = 0 then s
  else
    match access s n.agent n.rc.cblk 8 (.atomic true) .engine with
    | .error e => blockDropped e.state n n.rc.cblk
    | .ok (key, s1) =>
      if isPoisoned s1 key then blockDropped s1 n n.rc.cblk else writeNat s1 0 key (memNat s1 key 8 + 1) 8

/-- An iteration of a nest accounted (14 R314): COUNT, and EXPN when it expired or was stopped at the deadline. -/
def accountOne (s : State) (id : Nat) (expired : Bool) : State :=
  match findNest s id with
  | none => s
  | some n =>
    let n1 := if expired then { n with expn := min (2 ^ 32 - 1) (n.expn + 1) } else n
    countOne (putNest s id n1) n1

/-- The final STATE of a nest: WITHDRAWN, then EXPIRED, then COMPLETE (14 R315). -/
def finalState (n : Nest) : Nat := if n.withdrawing then 3 else if n.expn != 0 || n.stopped then 2 else 1

/-- The status word (14 Table 14.4). -/
def statusWord (n : Nest) : Nat := finalState n * 2 ^ 61 + (if n.badref then 2 ^ 60 else 0) + n.expn

/-- Writes the status word of a nest (14 R315). -/
def writeStatus (s : State) (n : Nest) : State :=
  if n.rc.cblk = 0 then s
  else
    match access s n.agent (n.rc.cblk + 8) 8 .store .engine with
    | .error e => blockDropped e.state n (n.rc.cblk + 8)
    | .ok (key, s1) => if isPoisoned s1 key then blockDropped s1 n (n.rc.cblk + 8) else writeNat s1 0 key (statusWord n) 8

end Sys2Proof.Machine
end

