-- ==== Sys2Proof/Machine/Viq.lean ====
section
/-! DEFINITION. The VIQ's own steps (07 R141 to R144, 13 R282, 15 R322): issue, beats, arrival of load data, completion, the return of a
synchronising read, pending traps and the store queue. They run while the model is relaxed, or while an entry had to wait. -/

namespace Sys2Proof.Machine

/-- What the instruction of a VIQ entry is to the vector core. -/
def vopOf (st : State) (h : Nat) (e : VEntry) : Option VOp :=
  match e.instr with
  | .bvany m _ _ => some (bvOp m.toNat)
  | .bvnone m _ _ => some (bvOp m.toNat)
  | .vadd d a b _ _ => some (vaddOp d a b)
  | .vsub d a b _ _ => some (vsubOp d a b)
  | .vmul d a b _ _ => some (vmulOp d a b)
  | .vmulh d a b _ _ => some (vmulhOp d a b)
  | .vsadd d a b _ _ => some (vsaddOp d a b)
  | .vssub d a b _ _ => some (vssubOp d a b)
  | .vmin d a b _ _ => some (vminOp d a b)
  | .vmax d a b _ _ => some (vmaxOp d a b)
  | .vand d a b _ _ => some (vandOp d a b)
  | .vor d a b _ _ => some (vorOp d a b)
  | .vxor d a b _ _ => some (vxorOp d a b)
  | .vsll d a b _ _ => some (vsllOp d a b)
  | .vsrl d a b _ _ => some (vsrlOp d a b)
  | .vsra d a b _ _ => some (vsraOp d a b)
  | .vmacc d a b _ _ => some (vmaccOp d a b)
  | .vnshrTz d a b _ _ => some (vnshrOp d a b shrTz)
  | .vnshrHu d a b _ _ => some (vnshrOp d a b shrHu)
  | .vnshrHe d a b _ _ => some (vnshrOp d a b shrHe)
  | .vnshrOd d a b _ _ => some (vnshrOp d a b shrOd)
  | .vcmpEq d a b _ _ => some (vcmpOp d a b (fun p q => p == q))
  | .vcmpNe d a b _ _ => some (vcmpOp d a b (fun p q => p != q))
  | .vcmpLt d a b _ _ => some (vcmpOp d a b (fun p q => p < q))
  | .vcmpLe d a b _ _ => some (vcmpOp d a b (fun p q => p ≤ q))
  | .vcmpGt d a b _ _ => some (vcmpOp d a b (fun p q => p > q))
  | .vcmpGe d a b _ _ => some (vcmpOp d a b (fun p q => p ≥ q))
  | .vmv d a _ m => some (vmvOp d a m)
  | .vmerge d a b _ m => some (vmergeOp d a b m)
  | .vsplat d _ _ _ => some (vsplatOp d)
  | .vid d _ _ => some (vidOp d)
  | .viota d a _ _ => some (viotaOp d a)
  | .mand d a b _ => some (maskOp d a b (fun p q => p && q))
  | .mor d a b _ => some (maskOp d a b (fun p q => p || q))
  | .mxor d a b _ => some (maskOp d a b (fun p q => p != q))
  | .mandn d a b _ => some (maskOp d a b (fun p q => p && !q))
  | .mpop _ a _ m => some (mpopOp a m)
  | .mfirst _ a _ m => some (mfirstOp a m)
  | .vmovs _ a _ _ => some (vmovsOp a)
  | .vins d _ _ _ => some (vinsOp d)
  | .vperm d a b _ _ => some (vpermOp d a b)
  | .vslideUp d a _ _ _ => some (vslideUpOp d a)
  | .vslideDn d a _ _ _ => some (vslideDnOp d a)
  | .vbcast d a _ _ _ => some (vbcastOp d a)
  | .vreshape d a _ _ m => some (vreshapeOp d a m)
  | .vunpack d a _ _ => some (vunpackOp d a)
  | .vlut d a b _ _ => some (vlutOp d a b)
  | .vexpand d a _ m => some (vexpandOp d a m)
  | .vcompress d a _ m => some (vcompressOp d a m)
  | .vfadd d a b _ _ => some (vfaddOp d a b)
  | .vfsub d a b _ _ => some (vfsubOp d a b)
  | .vfmul d a b _ _ => some (vfmulOp d a b)
  | .vfma d a b _ _ => some (vfmaOp d a b)
  | .vfms d a b _ _ => some (vfmsOp d a b)
  | .vfnma d a b _ _ => some (vfnmaOp d a b)
  | .vfdiv d a b _ _ => some (vfdivOp d a b)
  | .vfsqrt d a _ _ => some (vfsqrtOp d a)
  | .vfmin d a b _ _ => some (minmaxOp d a b false)
  | .vfmax d a b _ _ => some (minmaxOp d a b true)
  | .vfcmpEq d a b _ _ => some (vfcmpOp d a b true (fun o => o == .eq))
  | .vfcmpNe d a b _ _ => some (vfcmpOp d a b true (fun o => o != .eq))
  | .vfcmpLt d a b _ _ => some (vfcmpOp d a b false (fun o => o == .lt))
  | .vfcmpLe d a b _ _ => some (vfcmpOp d a b false (fun o => o == .lt || o == .eq))
  | .vfcmpGt d a b _ _ => some (vfcmpOp d a b false (fun o => o == .gt))
  | .vfcmpGe d a b _ _ => some (vfcmpOp d a b false (fun o => o == .gt || o == .eq))
  | .vfcmpUn d a b _ _ => some (vfcmpOp d a b true (fun o => o == .un))
  | .vfsgnJ d a b _ _ => some (vfsgnOp d a b (fun _ t => t))
  | .vfsgnJn d a b _ _ => some (vfsgnOp d a b (fun _ t => !t))
  | .vfsgnJx d a b _ _ => some (vfsgnOp d a b (fun p t => p != t))
  | .vfclass d a _ _ => some (vfclassOp d a)
  | .vfrcp d a _ _ => some (estOp d a rcpF)
  | .vfrsq d a _ _ => some (estOp d a rsqF)
  | .vfexp2 d a _ _ => some (estOp d a exp2F)
  | .vflog2 d a _ _ => some (estOp d a log2F)
  | .vsettle d a _ _ => some (vsettleOp d a)
  | .vtail d a _ _ => some (vtailOp d a)
  | .vcvt d a t _ _ => some (vcvtOp d a t.toNat)
  | .vredsumOrd d a b _ m => some (vredsumOrdOp d a b m.toNat)
  | .vredsumTree d a _ m => some (vredsumTreeOp d a m.toNat)
  | .vredmax d a _ m => some (vredmmOp d a m.toNat true)
  | .vredmin d a _ m => some (vredmmOp d a m.toNat false)
  | .vargmax _ a _ m => some (vargmaxOp a m.toNat)
  | .vscanAdd d a _ m => some (scanOp fmtSum d a m.toNat addElem)
  | .vscanMax d a _ m => some (scanOp fmtMax d a m.toNat scanMax)
  | .vtopk d a k _ _ => some (vtopkOp d a k.toNat)
  | .vld d _ b _ _ f => some (vldOp d b f.toNat)
  | .vlds d _ _ _ _ f => some (vldsOp d f.toNat)
  | .vldx d _ b _ _ f => some (vldxOp d b f.toNat)
  | .vldw d _ b _ m f => some (vldwOp d b m f.toNat)
  | .vldseg d _ b _ _ f => some (vldsegOp d b.toNat f.toNat)
  | .vst d _ b _ m f => some (vstOp d b f.toNat m.toNat)
  | .vsts d _ _ _ m f => some (vstsOp d f.toNat m.toNat)
  | .vstx d _ b _ m f => some (vstxOp d b f.toNat m.toNat)
  | .vstseg d _ b _ m f => some (vstsegOp d b.toNat f.toNat m.toNat)
  | .vredAdd d _ b _ m f => some (vredOp d b f.toNat m.toNat .add)
  | .vredMin d _ b _ m f => some (vredOp d b f.toNat m.toNat .min)
  | .vredMax d _ b _ m f => some (vredOp d b f.toNat m.toNat .max)
  | .vspill d _ _ => some (vspillOp d)
  | .vfill d _ _ => some (vfillOp d)
  | .rgen d a b _ m => some (rgenOp d a b m rgenOrder)
  | .rgenTop d a b _ m => some (rgenOp d a b m rgenTop64)
  | .rmerge d a b _ => some (rmergeOp d a b)
  | .mext d _ t _ m => some (mextOp d t m)
  | .mplane d _ _ m => some (mplaneOp d m)
  | .xsend _ a b _ m => some (xsendOp a b m (xsendRegs st h e.cap.sa b.toNat))
  | _ => none

/-- The entry at an index of a hart's VIQ, with its operation. -/
def entryAt (s : State) (h n : Nat) : Option (VEntry × VOp) :=
  match ((getHart s h).viq.drop n).head? with
  | none => none
  | some e => (vopOf s h e).map (fun op => (e, op))

/-- The state with the entry at an index of a hart's VIQ changed. -/
def setEntry (s : State) (h n : Nat) (f : VEntry → VEntry) : State :=
  let x := getHart s h
  match (x.viq.drop n) with
  | [] => s
  | e :: es => putHart s h { x with viq := x.viq.take n ++ f e :: es }

/-- Beats issued. -/
def VEntry.issuedBeats (e : VEntry) : Nat :=
  match e.prog with
  | .beats n => n
  | .sweep _ => 0

/-- Beats whose results stand in the registers. -/
def VEntry.landedBeats (e : VEntry) : Nat := e.issuedBeats - e.inflight.length

/-- Number of beats of an entry (07 R141). -/
def totalBeats (op : VOp) (e : VEntry) : Nat := shRows (op.sweep e.cap) * beatsPerRow op e

/-- Whether an operation runs element by element. -/
def VOp.byBeats (op : VOp) : Bool :=
  !op.perm && (match op.run with | .pos _ => true | .load .. => true | _ => false)

/-- Registers of a list in common. -/
def meets (a b : List Nat) : Bool := a.any (fun v => b.contains v)

/-- The masks that an entry reads: those of its description, and the one that gates it; m0 never changes (06 R128). -/
def maskReads (d : VEntry × VOp) : List Nat := (gateField d.1.instr :: d.2.mreads).filter (fun m => m != 0)

/-- A younger entry depends on an older one (07 R144): it reads or writes what the older one writes, or writes what it reads. -/
def dependsOn (d : VEntry × VOp) (p : VEntry × VOp) : Bool :=
  let dr := d.2.reads d.1.cap
  let dw := d.2.writes d.1.cap
  let pr := p.2.reads p.1.cap
  let pw := p.2.writes p.1.cap
  meets pw dr || meets pw dw || meets pr dw || meets p.2.mwrites (maskReads d) || meets p.2.mwrites d.2.mwrites ||
    meets (maskReads p) d.2.mwrites

/-- Whether every register that two lists of groups of some rows share stands in the same row of both. -/
def rowsAgree (rows : Nat) (a b : List Nat) : Bool :=
  let at' := fun (l : List Nat) => List.zip (List.range l.length) l
  (at' a).all (fun p => (at' b).all (fun q => p.2 != q.2 || p.1 % rows == q.1 % rows))

/-- The classes of 07 Table 07.1 that a chain slot knows: those whose instructions may chain from a producer, with whether they may be one. -/
inductive ChainClass where
  | both | producer | consumer | none
  deriving DecidableEq, Repr

/-- The class of an instruction (07 Table 07.1). -/
def chainClass (i : Instr) : ChainClass :=
  match i with
  | .vadd .. => .both | .vsub .. => .both | .vsadd .. => .both | .vssub .. => .both | .vmin .. => .both | .vmax .. => .both
  | .vand .. => .both | .vor .. => .both | .vxor .. => .both | .vsll .. => .both | .vsrl .. => .both | .vsra .. => .both
  | .vcmpEq .. => .both | .vcmpNe .. => .both | .vcmpLt .. => .both | .vcmpLe .. => .both | .vcmpGt .. => .both | .vcmpGe .. => .both
  | .vmerge .. => .both | .vmv .. => .both | .vsplat .. => .both | .vid .. => .both | .vins .. => .both
  | .vmul .. => .both | .vmulh .. => .both | .vmacc .. => .both
  | .vnshrTz .. => .both | .vnshrHu .. => .both | .vnshrHe .. => .both | .vnshrOd .. => .both
  | .mand .. => .both | .mor .. => .both | .mxor .. => .both | .mandn .. => .both | .viota .. => .both
  | .vfadd .. => .both | .vfsub .. => .both | .vfmul .. => .both | .vfma .. => .both | .vfms .. => .both | .vfnma .. => .both
  | .vfmin .. => .both | .vfmax .. => .both | .vfclass .. => .both | .vcvt .. => .both | .vsettle .. => .both | .vtail .. => .both
  | .vfcmpEq .. => .both | .vfcmpNe .. => .both | .vfcmpLt .. => .both | .vfcmpLe .. => .both | .vfcmpGt .. => .both
  | .vfcmpGe .. => .both | .vfcmpUn .. => .both | .vfsgnJ .. => .both | .vfsgnJn .. => .both | .vfsgnJx .. => .both
  | .vfrcp .. => .both | .vfrsq .. => .both | .vfexp2 .. => .both | .vflog2 .. => .both
  | .vfdiv .. => .consumer | .vfsqrt .. => .consumer
  | .vld .. => .producer | .vlds .. => .producer | .vldx .. => .producer | .vldw .. => .producer | .vldseg .. => .producer
  | .vfill .. => .producer
  | _ => .none

/-- An entry whose positions stand in the beats of their own containers, in sources and destination alike: none has bits in two containers. -/
def plainBeats (q : VEntry × VOp) : Bool :=
  let c := q.1.cap
  q.2.byBeats && (!fmtPacked (shFmt c.shape) || 32 % fmtWidth (shFmt c.shape) == 0) && q.2.wconts c == q.2.conts c && q.2.conts c == rowContainers (shFmt c.shape) (shVL c.shape)

/-- A dependent entry may follow an older one beat by beat (07 R144): their classes allow it, VL, PAD, ROWS and containers per row are equal,
every position stands in the same beat of both, the registers that they share stand in the same rows, and the younger one writes no mask
that the older one reads or writes, nor, while the older one's positions read containers of other beats, any register that it reads. -/
def mayChain (d : VEntry × VOp) (p : VEntry × VOp) : Bool :=
  let rows := shRows (d.2.sweep d.1.cap)
  let pw := p.2.writes p.1.cap
  let dw := d.2.writes d.1.cap
  let pr := p.2.reads p.1.cap
  (chainClass d.1.instr == .both || chainClass d.1.instr == .consumer) &&
    (chainClass p.1.instr == .both || chainClass p.1.instr == .producer) && plainBeats d && plainBeats p &&
    shPad d.1.cap.shape == shPad p.1.cap.shape && !meets (maskReads p) d.2.mwrites && !meets p.2.mwrites d.2.mwrites &&
    (chainClass p.1.instr == .both || !meets pr dw) && shVL (d.2.sweep d.1.cap) == shVL (p.2.sweep p.1.cap) && rows == shRows (p.2.sweep p.1.cap) &&
    d.2.conts d.1.cap == p.2.conts p.1.cap && d.2.conts d.1.cap ≤ 128 &&
    (allPositions d.2 d.1).all (fun i => beatOfPos d.2 d.1 i == beatOfPos p.2 p.1 i) &&
    rowsAgree rows pw (d.2.reads d.1.cap) && rowsAgree rows pw dw && rowsAgree rows (p.2.reads p.1.cap) dw

/-- Whether an entry accesses memory: by its description, or through a bound stream (12 R271). -/
def usesMemory (x : Hart) (d : VEntry × VOp) : Bool :=
  d.2.mem || !(boundAmong x (d.2.reads d.1.cap ++ d.2.writes d.1.cap)).isEmpty

/-- A use of a bound stream register, or of the VIQ's head by its own description, keeps an entry at the head. -/
def headOnly (x : Hart) (e : VEntry) (op : VOp) : Bool :=
  !op.byBeats || (op.mem && !op.isLoad) || !(boundAmong x (op.reads e.cap ++ op.writes e.cap)).isEmpty ||
    (match e.prog with | .sweep p => p != 0 | .beats _ => false)

/-- Beat b of the entry at index n may run as far as older entries go: behind the beats that it depends on, and, if both access memory,
behind every access of the older one, which keeps each chunk and each slice path in program order (12 R262, R264). -/
def beatFree (s : State) (h n b : Nat) (e : VEntry) (op : VOp) : Bool :=
  (List.range n).all (fun k =>
    match entryAt s h k with
    | none => false
    | some p =>
      (!dependsOn (e, op) p || (mayChain (e, op) p && p.1.issued && b < p.1.landedBeats)) &&
      (!(usesMemory (getHart s h) (e, op) && usesMemory (getHart s h) p) ||
        (p.1.issued && totalBeats p.2 p.1 ≤ p.1.issuedBeats)))

/-- The first entry that has not issued. -/
def firstWaiting (s : State) (h : Nat) : Option Nat := (getHart s h).viq.findIdx? (fun e => !e.issued)

/-- No entry of a hart waits for data. -/
def noneInFlight (s : State) (h : Nat) : Bool := (getHart s h).viq.all (fun e => e.inflight.isEmpty)

/-- VIQ_ISSUE (07 R142, 06 R133 to R135): the oldest entry that has not issued, once its lines can all be resident, brings them to the
partition and raises HWM. A check
that traps, and a line that cannot be filled, wait until the entry is the oldest. -/
def viqIssue (s : State) (h : Nat) : State :=
  match firstWaiting s h with
  | none => s
  | some n =>
    match entryAt s h n with
    | none => s
    | some (e, op) =>
      if !op.ready s h e || !canStart s h e.lines || owedFor s (getHart s h).ctx then s
      else
        match op.pre s h e with
        | some t => if n = 0 then vectorTrap s h 0 t else s
        | none =>
          match issueEntry op s h e with
          | .error w => if n = 0 then putHart w.state h ((getHart w.state h).takeRegback w.addr e.pc) else s
          | .ok s1 => setEntry s1 h n (fun e => { e with issued := true })

/-- The event of an issue. -/
def execViqIssue (h : Nat) (st : State) : Out := live st (fun s => viqIssue s h)

/-- One beat's load data: the fetches of its positions in order (05 R98). -/
def fetchBeat (f : State → Nat → VEntry → Nat → Nat → Except Stop (List LoadDatum × State)) (h : Nat) (e : VEntry) (vl : Nat) :
    List Nat → State → List LoadDatum × State
  | [], s => ([], s)
  | p :: ps, s =>
    match f s h e (p / vl) (p % vl) with
    | .error _ => fetchBeat f h e vl ps s
    | .ok (ds, s1) => let (rest, s2) := fetchBeat f h e vl ps s1; (ds ++ rest, s2)

/-- VECTOR_BEAT (07 R141): the next beat of the entry at index n. A position that faults is found before any position at or after it is
written (04 R88), and traps once the entry is the oldest. -/
def vectorBeat (s : State) (h n : Nat) : State :=
  match entryAt s h n with
  | none => s
  | some (e, op) =>
    let b := e.issuedBeats
    if !e.issued || !op.byBeats || (headOnly (getHart s h) e op && n != 0) || totalBeats op e ≤ b || !beatFree s h n b e op then s
    else
      let s := drainBefore op s h e
      match sweepOver (onePos op h e) (positionsLeft op e) s with
      | (s1, some (p, t)) => if n = 0 && noneInFlight s h then vectorTrap s1 h p t else s
      | (s1, none) =>
        if headOnly (getHart s h) e op then setEntry s1 h n (fun e => { e with prog := .beats (totalBeats op e) })
        else
          let ps := (allPositions op e).filter (fun p => beatOfPos op e p == b)
          match op.run with
          | .load fetch _ =>
            let (ds, s2) := fetchBeat fetch h e (shVL (op.sweep e.cap)) ps s
            setEntry s2 h n (fun e => { e with prog := .beats (b + 1), inflight := e.inflight ++ [ds] })
          | _ => setEntry (sweepOver (onePos op h e) ps s).1 h n (fun e => { e with prog := .beats (b + 1) })

/-- The event of a beat. -/
def execVectorBeat (h n : Nat) (st : State) : Out := live st (fun s => vectorBeat s h n)

/-- LOAD_DATA_ARRIVAL (05 R98): the data of the oldest beat in flight of the entry at index n lands. -/
def loadDataArrival (s : State) (h n : Nat) : State :=
  match entryAt s h n with
  | none => s
  | some (e, op) =>
    match e.inflight, op.run with
    | ds :: rest, .load _ land =>
      let s1 := putHart s h (landAll land (getHart s h) e ds)
      setEntry s1 h n (fun e => { e with inflight := rest })
    | _, _ => s

/-- The event of arriving data. -/
def execLoadDataArrival (h n : Nat) (st : State) : Out := live st (fun s => loadDataArrival s h n)

/-- The first entry that can complete: by beats, when its last beat has landed; else the oldest entry. -/
def completable (s : State) (h : Nat) : Option Nat :=
  (List.range (getHart s h).viq.length).find? (fun n =>
    match entryAt s h n with
    | none => false
    | some (e, op) =>
      e.issued && (if op.byBeats then totalBeats op e ≤ e.landedBeats else n == 0 && (getHart s h).sync.isNone && noneInFlight s h))

/-- VECTOR_COMPLETE (07 R142): an entry completes and is freed; an instruction that works as a whole does all of it now (08 R179), and a
synchronising read leaves its result. -/
def vectorComplete (s : State) (h : Nat) : State :=
  match completable s h with
  | none => s
  | some n =>
    match entryAt s h n with
    | none => s
    | some (e, op) =>
      if op.byBeats then
        let x := getHart s h
        let y := op.fin x e
        putHart s h { y with viq := y.viq.take n ++ y.viq.drop (n + 1) }
      else runHead op s h e

/-- The event of a completion. -/
def execVectorComplete (h : Nat) (st : State) : Out := live st (fun s => vectorComplete s h)

/-- SYNC_READ_RETURN (07 R143). -/
def execSyncReadReturn (h : Nat) (st : State) : Out := live st (fun s => syncReturn s h)

/-- TAKE_TRAP (15 R322): a pending trap is taken once every older VIQ entry has completed. -/
def takeTrap (s : State) (h : Nat) : State :=
  let x := getHart s h
  match x.pending with
  | none => s
  | some t => if x.viq.isEmpty then deliverScalar s h t.trap t.tpc else s

/-- The event of a trap. -/
def execTakeTrap (h : Nat) (st : State) : Out := live st (fun s => takeTrap s h)

/-- STORE_QUEUE_DRAIN (12 R264). -/
def execStoreQueueDrain (h : Nat) (st : State) : Out := live st (fun s => drainOne s h)

end Sys2Proof.Machine
end

