-- ==== Sys2Proof/Machine/Context.lean ====
section
/-! DEFINITION. Halts, context images and their loss (15 R325 to R336): the image of Table 15.5, saving, resuming, discarding, owed
writes, the steps of end (13 R292), and ctxsave, ctxrest and tlbinv (R337 to R340). -/

namespace Sys2Proof.Machine

/-! The image (15 Tables 15.5, 15.6, 15.9). -/

/-- The agent of a save, a resume, and of the engine records. -/
def slotAgent (core : Nat) (root : Word) : Agent := { core := core, root := root, user := false, hart := 4096 }

/-- An aligned part of an image: its offset, its bytes, at most 8, and its value. -/
structure Piece where
  off : Nat
  n   : Nat
  val : Nat
  deriving DecidableEq, Repr

/-- The parts of an image written in order by one write, up to the first that is refused, with the keys that they reach; path gives that of the
part at an offset. -/
def writePieces (a : Agent) (path : Nat → Path) (base : Word) : List Piece → State → State × List Nat × Option Trap
  | [], s => (s, [], none)
  | p :: ps, s =>
    match access s a (base + word p.off) p.n .store (path p.off) with
    | .error e => (e.state, [], some e.trap)
    | .ok (key, s1) =>
      let (s2, keys, bad) := writePieces a path base ps (putNat s1 (2 ^ 54 + s.steps) key p.val p.n)
      (s2, key :: keys, bad)

/-- Consecutive words of 8 bytes as parts from an offset on. -/
def wordPieces : Nat → List Nat → List Piece
  | _, [] => []
  | off, w :: ws => { off := off, n := 8, val := w % 2 ^ 64 } :: wordPieces (off + 8) ws

/-- The word of a truth value. -/
def bitWord (b : Bool) : Nat := if b then 1 else 0

/-- The words of a mask register. -/
def maskWords (v : BitVec 512) : List Nat := (List.range 8).map (fun i => v.toNat / 2 ^ (64 * i) % 2 ^ 64)

/-- An engine record. -/
def engineWords (t : Timeline) (det : Bool) : List Nat := [t.issued.toNat, t.done.toNat, bitWord det, 0]

/-- The image of a stream register. -/
def streamWords (t : Option Stream) : List Nat :=
  match t with
  | none => List.replicate 16 0
  | some t =>
    (List.range 8).map (fun i => fieldAt t.desc (8 * i) 8) ++ [t.pos, t.overrun, 1 + 2 * bitWord t.out] ++ List.replicate 5 0

/-- An entry of the matrix queue (15 Table 15.9). -/
def mtxWords (c : MtxCmd) : List Nat :=
  let mac := isMac c.instr
  let mrec := match c.mrec with | some m => m % 512 + 2 ^ 15 | none => 0
  [(instrWord c.instr).toNat + c.kdone * 2 ^ 32, c.num.toNat, c.sa.toNat, if mac then c.sb.toNat else 0,
   if isMaci c.instr then c.srec.toNat else 0, c.shape.toNat, c.fpctl.toNat,
   mrec + (c.flags.toNat % 64 + 64 * bitWord c.poison.isSome) * 2 ^ 16 +
     (if isMspill c.instr && c.started then c.nrows else 0) * 2 ^ 32]

/-- The first element that beat b of a row processes (15 R328). -/
def beatElem (f b : Nat) : Nat :=
  if fmtTwo f then 8 * b else if fmtPacked f then (512 * b + fmtWidth f - 1) / fmtWidth f else 16 * b

/-- The beat of a row whose first element is e. -/
def elemBeat (f e : Nat) : Nat := if fmtTwo f then e / 8 else if fmtPacked f then e * fmtWidth f / 512 else e / 16

/-- The PROG field of an entry. -/
def progImage (op : VOp) (e : VEntry) : Nat :=
  match e.prog with
  | .sweep p => p % 4096
  | .beats n =>
    let k := beatsPerRow op e
    let sh := op.sweep e.cap
    (n / k * shVL sh + beatElem (shFmt sh) (n % k)) % 4096 + 4096

/-- The progress that a PROG field gives. -/
def progOf (op : VOp) (e : VEntry) (w : Nat) : Prog :=
  let sh := op.sweep e.cap
  let p := w % 4096
  if bitOf w 12 then .beats (p / shVL sh * beatsPerRow op e + elemBeat (shFmt sh) (p % shVL sh)) else .sweep p

/-- An entry of the VIQ (15 Table 15.6). -/
def viqWords (s : State) (h : Nat) (e : VEntry) : List Nat :=
  let prog := match vopOf s h e with | some op => progImage op e | none => 0
  [(instrWord e.instr).toNat + prog * 2 ^ 32, e.pc.toNat, e.cap.shape.toNat, e.cap.fpctl.toNat, e.cap.sa.toNat, e.cap.sb.toNat,
   e.cap.sa1.toNat, e.seq.toNat]

/-- The VIQ header. -/
def viqHead (es : List VEntry) : Nat :=
  match es with
  | [] => 0
  | e :: _ => (viqposOf e.seq).toNat + es.length * 2 ^ 32

/-- The system registers in the order of the image. -/
def csrWords (c : Csrs) : List Nat :=
  [c.fpctl.toNat, c.fpflags.toNat, c.tvec.toNat, c.tcause.toNat, c.tpc.toNat, c.tval.toNat, c.tval2.toNat, c.tstatus.toNat,
   c.residx.toNat, c.viqpos.toNat, c.hwm.toNat, c.vback.toNat, c.ptroot.toNat, c.cpyerr.toNat, c.resthr.toNat, 0]

/-- What a save puts into an image beside the registers. -/
structure ImageParts where
  lost    : Bool
  slices  : Nat
  home    : Nat
  det     : Bool
  pc      : Word
  copyDet : Bool
  lensDet : Bool
  xchDet  : Bool
  mtxQ    : List MtxCmd
  viq     : List VEntry
  deriving DecidableEq, Repr

/-- The 1,024 words of an image below the tiles. -/
def imageWords (s : State) (h : Nat) (p : ImageParts) : List Nat :=
  let x := getHart s h
  let hdr := 1 + bitWord p.lost * 2 ^ 8 + p.slices * 2 ^ 9 + p.home * 2 ^ 12 + bitWord p.det * 2 ^ 22
  let mq := (p.mtxQ.take 16).flatMap mtxWords
  let vq := (p.viq.take 32).flatMap (viqWords s h)
  [hdr, p.pc.toNat, x.strip.addr.toNat, x.strip.count.toNat, x.strip.strikes, x.csr.nestid.toNat, x.csr.deadline.toNat, 0] ++
    (List.range 32).map (fun i => (x.getS (BitVec.ofNat 5 i)).toNat) ++
    (List.range 8).flatMap (fun i => maskWords (x.getM i)) ++ (List.range 8).map (fun i => (x.getSh i).toNat) ++ csrWords x.csr ++
    engineWords x.eng.copy p.copyDet ++ engineWords x.eng.mtx false ++ engineWords x.eng.lens p.lensDet ++
    engineWords x.eng.xch p.xchDet ++ List.replicate 16 0 ++ [28, 29, 30, 31].flatMap (fun v => streamWords (x.streamAt v)) ++
    List.replicate 32 0 ++ [p.mtxQ.length] ++ List.replicate 7 0 ++ mq ++ List.replicate (128 - mq.length) 0 ++
    List.replicate 120 0 ++ [viqHead p.viq] ++ List.replicate 7 0 ++ vq ++ List.replicate (256 - vq.length) 0 ++
    List.replicate 248 0

/-- Offset of a tile's image in a slot. -/
def tileOffset (tile : Nat) : Nat := if tile = 0 then 0x2000 else 0x2C000

/-- A tile's image as an mspill writes it (09 R203, R204). -/
def tilePieces (x : Hart) (tile ncol : Nat) : List Piece :=
  let n := min (x.hacc tile) 256
  let base := tileOffset tile
  let hd := bitWord (x.isWf tile) + n * 2 ^ 16 + ncol * 2 ^ 32
  wordPieces base [hd, 0] ++
    (List.range (n * ncol)).flatMap (fun i =>
      let v := slotImage (x.acc74 tile (i / ncol) (i % ncol))
      (List.range 5).map (fun k => { off := base + 16 + 10 * i + 2 * k, n := 2, val := v / 2 ^ (16 * k) % 2 ^ 16 }))

/-- The path of a ctxsave's write at an offset of its image: no fill comes before it where the image covers the chunk (04 R72). -/
def imagePath (x : Hart) (ncol off : Nat) : Path :=
  let last := fun (tile : Nat) => tileOffset tile + 16 + 10 * (min (x.hacc tile) 256 * ncol)
  { Path.scalar with whole := off < tileOffset 0 || off / 32 * 32 + 32 ≤ last (if off < tileOffset 1 then 0 else 1) }

/-- Every part of an image. -/
def imagePieces (s : State) (h : Nat) (p : ImageParts) : List Piece :=
  let x := getHart s h
  wordPieces 0 (imageWords s h p) ++ tilePieces x 0 (16 * p.slices) ++ tilePieces x 1 (16 * p.slices)

/-! What a save writes first (15 R329). -/

/-- The lines of the HWM rectangle (06 R135). -/
def rectLines (hwm : Word) : List Nat :=
  let n := hwm.toNat
  if !bitOf n 15 then []
  else (List.range (n / 1024 % 32 + 1)).flatMap (fun v => (List.range ((n % 1024 + 127) / 128)).map (fun j => 4 * v + j))

/-- The dirty ones of some lines written back, each then clean, with the address of the first that could not be (15 R329, R335). -/
def flushLines (h : Nat) : List Nat → State → Option Word → State × Option Word
  | [], s, lost => (s, lost)
  | l :: ls, s, lost =>
    match (getHart s h).line l with
    | .resident true u =>
      (match writeBackLine s h l (getHart s h).back with
       | .error w => flushLines h ls w.state (lost.or (some w.addr))
       | .ok s1 => flushLines h ls (putHart s1 h ((getHart s1 h).setLine l (.resident false u))) lost)
    | _ => flushLines h ls s lost

/-- The hart at a save or a resume, where VBACK takes effect (06 R137). -/
def takeBack (s : State) (h : Nat) : State :=
  let x := getHart s h
  putHart s h { x with back := x.csr.vback }

/-- Every pushed stream element of a hart written, and every element fetched ahead discarded (15 R329). -/
def settleStreams (s : State) (h : Nat) : State :=
  let s1 := [28, 29, 30, 31].foldl (fun s v => streamDrainAll s h v) s
  let x := getHart s1 h
  putHart s1 h { x with streams := x.streams.map (fun (p : Nat × Stream) => (p.1, { p.2 with fetched := [] })) }

/-! The halt points of a VIQ (15 Table 15.3). -/

/-- The data in flight of an entry as owed writes (15 R331). What landing changes beside vector registers is done now. -/
def oweData (s : State) (h : Nat) (e : VEntry) (op : VOp) : State :=
  match op.run with
  | .load _ land =>
    let x := getHart s h
    let y := e.inflight.foldl (fun x ds => landAll land x e ds) x
    let owed := e.inflight.map (fun ds =>
      ({ ctx := x.ctx, slot := x.saveSlot, entry := { e with inflight := [] }, data := ds, vback := x.csr.vback, root := x.csr.ptroot,
         core := coreOf h } : Owed))
    { putHart s h { y with vreg := x.vreg } with owed := s.owed ++ owed }
  | _ => s

/-- The progress of an entry in beat form, where its positions left begin at a beat; one that resumed inside a beat and has issued none since
keeps its position (15 R328). -/
def beatForm (op : VOp) (e : VEntry) : Prog :=
  match e.prog with
  | .beats n => .beats n
  | .sweep p =>
    let n := beatOfPos op e p
    if positionsLeft op { e with prog := .beats n } == positionsLeft op e then .beats n else .sweep p

/-- One entry brought to its halt point (15 Table 15.3): a synchronising read is discarded, a reduction, a scan, rgen or rmerge starts again,
and any other entry is kept with its progress in beat form. An entry whose every beat has issued is complete. -/
def haltEntry (h : Nat) (s : State) (e : VEntry) : State :=
  let keep := fun (s : State) (e : VEntry) => let x := getHart s h; putHart s h { x with viq := x.viq ++ [e] }
  match vopOf s h e with
  | none => keep s e
  | some op =>
    if isSync e.instr then s
    else if op.byBeats then
      let s1 := oweData s h e op
      if e.issued && totalBeats op e ≤ e.issuedBeats then putHart s1 h (op.fin (getHart s1 h) e)
      else keep s1 { e with issued := false, inflight := [], prog := beatForm op e }
    else
      let whole := match op.run with | .whole _ => true | _ => false
      keep s { e with issued := false, inflight := [], prog := if whole then .sweep 0 else beatForm op e }

/-- Every entry of a hart's VIQ brought to its halt point. -/
def quiesce (s : State) (h : Nat) : State :=
  let x := getHart s h
  x.viq.foldl (haltEntry h) (putHart s h { x with viq := [], sync := none })

/-! Contexts that go (15 R327). -/

/-- A hart slot unbound: its scalar, mask, shape and system registers stay as they are, so that its FPFLAGS can still be read (21 R372). -/
def Hart.unbound (x : Hart) : Hart := { Hart.reset with gpr := x.gpr, mask := x.mask, shape := x.shape, csr := x.csr }

/-- A hart slot unbound: its slices pass to their REQ or become idle, and its requests are cancelled (13 R287, R288). -/
def freeHart (s : State) (h : Nat) : State :=
  let c := getCore s (coreOf h)
  let x := getHart s h
  putHart (putCore s (coreOf h) ((c.release (h % 4) x.ctx none).cancel (h % 4))) h x.unbound

/-- One context gone, with what it shares (15 R327). -/
def dropContext (s : State) (ctx : Nat) : State :=
  let s1 := discardLens (discardExchanges s ctx) ctx
  let s2 := { s1 with owed := s1.owed.filter (fun o => o.ctx != ctx), saved := s1.saved.filter (fun v => v.ctx != ctx) }
  match hartOfCtx s2 ctx with
  | some h => freeHart s2 h
  | none => s2

/-- The live contexts that descend from a context, itself among them. -/
def familyOf (s : State) (ctx : Nat) : List Nat :=
  ((s.harts.filter (fun p => p.2.bound)).map (fun p => p.2.ctx) ++ s.saved.map (fun v => v.ctx)).filter
    (fun c => descends s ctx c 4)

/-- Scratchpad groups without a saved member are gone (14 R311); walkers without work are given away (R306). -/
def settleAll (s : State) : State :=
  settleWalkers { s with groups := s.groups.filter (fun p => s.saved.any (fun v => v.group == some p.1)) }

/-- What discarding needs of a live context: its nest, and whether it is a child. -/
def contextPlace (s : State) (ctx : Nat) : Option (Nat × Bool) :=
  match hartOfCtx s ctx with
  | some h => let x := getHart s h; some (x.nest, x.parent.isSome)
  | none => (savedCtx s ctx).map (fun v => (v.nest, v.parent.isSome))

/-- A nest whose STATE is to be at least EXPIRED (15 R327). -/
def stopNest (s : State) (id : Nat) : State :=
  match findNest s id with
  | none => s
  | some n => putNest s id { n with stopped := true }

/-- A context discarded with its children (15 R327, 14 R313): it is accounted unless it is a child; fault: for one of the four faults of
R327, the slot address that the Keeper logs (R329). -/
def discardContext (s : State) (ctx : Nat) (expired : Bool) (fault : Option Word) : State :=
  match contextPlace s ctx with
  | none => s
  | some (id, child) =>
    let s1 := (familyOf s ctx).foldl dropContext s
    let s2 := if child then s1 else accountOne s1 id expired
    settleAll (match fault with | some slot => keeperLog (stopNest s2 id) 5 slot | none => s2)

/-! Fetch (03 R45, 13 R281, 05 R91). -/

/-- The word at a hart's pc, with the caches moved, or the stop of its fetch. -/
def fetchWord (s : State) (h : Nat) : Except Stop (Nat × State) :=
  let pc := (getHart s h).pc
  match access s (agentOf s h) pc 4 .fetch .front with
  | .error e => .error e
  | .ok (key, s1) => if isPoisoned s1 key then .error { trap := poisonTrap pc, state := s1 } else .ok (memNat s1 key 4, s1)

/-- The instruction that a hart stands at, where it can be fetched. -/
def instrAt (s : State) (h : Nat) : Option Instr :=
  match fetchWord s h with
  | .error _ => none
  | .ok (w, _) => match decodeWord w with | .ok i => some i | .error _ => none

/-! end (13 R292). -/

/-- Step 2: every child joined, one after another; whether all are. -/
def joinAll : List (Nat × Nat) → State → State × Bool
  | [], s => (s, true)
  | p :: ps, s => if liveCtx s p.2 then (s, false) else joinAll ps (joinKid s p.2)

/-- Step 3: every exchange membership closed, one after another; whether all are. -/
def closeAll : List Nat → State → State × Bool
  | [], s => (s, true)
  | n :: ns, s =>
    match smFind s.xctx n with
    | none => closeAll ns s
    | some c =>
      match (if c.forLens then none else c.memberOf (curHart s).ctx) with
      | none => closeAll ns s
      | some m =>
        match closeVisit s n c m with
        | (s1, true) => closeAll ns s1
        | (s1, false) => (s1, false)

/-- The waits of ctxsave, ctxrest and end for the hart's engine commands, one context after another (13 R292). -/
def waitEngines : List EngX → State → TwaitEnd
  | [], s => .passed s
  | w :: ws, s =>
    match twaitOn s w ((curHart s).eng.line w).issued with
    | .waits => .waits
    | .raised s1 t => .raised s1 t
    | .passed s1 => waitEngines ws s1

/-- Steps 1 to 4 of end at the executing hart: the state that they leave, and what its waits for engine commands answer. Its stores are performed
before its xclose arrives at a Beacon (12 R272). -/
def endSteps (s : State) : State × TwaitEnd :=
  if !(curHart s).viq.isEmpty then (s, .waits)
  else
    match joinAll (curHart s).kids s with
    | (s1, false) => (s1, .waits)
    | (s1, true) =>
      match closeAll (s1.xctx.map (fun p => p.1)) (if (curHart s1).storeQ.isEmpty then s1 else drainAll s1 s1.cur) with
      | (s2, false) => (s2, .waits)
      | (s2, true) => (s2, waitEngines [.copy, .mtx, .lens, .xch] s2)

/-- Steps 5 to 7: the Lens state left, the slices released, the slot unbound, and a parent's iteration accounted (14 R314). -/
def finishEnd (s : State) : State :=
  let h := s.cur
  let x := curHart s
  let s1 := withLanes (leaveLens s x.ctx false) h (fun c => c.boundary (h % 4) x.ctx)
  let dest := (x.parent.bind (hartOfCtx s1)).bind (fun p => if coreOf p = coreOf h then some (p % 4) else none)
  let s2 := drainAll (releaseLanes s1 h dest) h
  let s3 := putHart s2 h (getHart s2 h).unbound
  settleAll (if x.parent.isSome then s3 else accountOne s3 x.nest false)

/-- The state after the end that a hart stands at, when its steps 1 to 4 have finished (13 R292, 15 R336). -/
def endNow (s : State) (h : Nat) : Option State :=
  if instrAt s h != some .endIter then none
  else
    match endSteps { s with cur := h } with
    | (_, .passed s1) => some { finishEnd s1 with cur := s.cur }
    | _ => none

/-! tlbinv (15 R340). -/

/-- Entries removed from every TLB of the package. -/
def invalidate (s : State) (gone : TlbEntry → Bool) : State :=
  { s with
    cores := s.cores.map (fun (p : Nat × Core) => (p.1, { p.2 with tlb := p.2.tlb.filter (fun e => !gone e) }))
    clusters := s.clusters.map (fun (p : Nat × Cluster) => (p.1, { p.2 with tlb := p.2.tlb.filter (fun e => !gone e) })) }

/-- The entries that a tlbinv removes; none for another instruction. -/
def tlbinvGone (x : Hart) (i : Instr) : Option (TlbEntry → Bool) :=
  match i with
  | .tlbinvPage a b => some (fun e => e.covers ((x.getS b).toNat % 65536) (x.getS a))
  | .tlbinvCtx b => some (fun e => !e.glb && e.ctxid == (x.getS b).toNat % 65536)
  | .tlbinvAll => some (fun _ => true)
  | _ => none

/-- A halt that finds a hart waiting at a tlbinv: the invalidation completes, and the instruction runs again on resume (15 R336). -/
def tlbinvAtHalt (s : State) (h : Nat) : State :=
  let x := getHart s h
  if x.user || x.viq.isEmpty then s
  else
    match (instrAt s h).bind (tlbinvGone x) with
    | some gone => invalidate s gone
    | none => s

/-! Halts (15 R326). -/

/-- HALT_REQUEST (15 R326, R336): a request that stands reaches the hart. A stop discards its context; an end whose steps 1 to 4 have
finished completes; else the hart halts at its halt point, once a pending trap has been entered. A parity error in its registers is an
uncorrectable error that discards it whenever it is found (R327, 16 R345). -/
def haltRequest (s : State) (h : Nat) (r : HaltReason) : State :=
  let x := getHart s h
  if !x.bound then s
  else if r = .parity then discardContext (uncorrectable s x.saveSlot) x.ctx false (some x.saveSlot)
  else if x.request ≠ some r then s
  else if haltStops r then discardContext s x.ctx (r == .hardDeadline) none
  else if x.halted.isSome || x.pending.isSome then s
  else
    match endNow s h with
    | some s1 => s1
    | none =>
      let s1 := tlbinvAtHalt s h
      putHart s1 h { getHart s1 h with halted := some r, wait := .none, request := none }

/-- The event of a halt request. -/
def execHaltRequest (h : Nat) (r : HaltReason) (st : State) : Out := live st (fun s => haltRequest s h r)

/-- The engines of a halted hart: its copy, Lens and exchange contexts detach (15 R332). -/
def Engines.detach (g : Engines) : Engines :=
  let det := fun (t : Timeline) => { t with detached := true }
  { g with copy := det g.copy, lens := det g.lens, xch := det g.xch }

/-- The engines that go with a hart's context: its copy command stands stopped while CPYERR.V is 1 (05 R123). -/
def Hart.parted (x : Hart) : Engines :=
  let g := x.eng.detach
  if x.csr.cpyerr.getLsbD 63 then g else { g with copyQ := g.copyQ.map (fun (c : CopyCmd) => { c with fault := none }) }

/-- The engines of a resumed hart. -/
def Engines.attach (g : Engines) : Engines :=
  { g with copy := { g.copy with detached := false }, lens := { g.lens with detached := false },
           xch := { g.xch with detached := false } }

/-- A nest that had nothing to hand out holds a ready unit from now on (14 R309). -/
def startAgeing (s : State) (id : Nat) : State :=
  match findNest s id with
  | none => s
  | some n => if n.walk.finished && !hasSaved s id then putNest s id { n with ageFrom := now s } else s

/-- The saved context of a hart. -/
def savedOf (x : Hart) (h slices : Nat) (lost : Option Word) (host : Bool) : Saved :=
  { slot := x.saveSlot, hart := h, ctx := x.ctx, nest := x.nest, ordinal := x.ordinal, parent := x.parent, area := x.area,
    famBase := x.famBase, home := some (coreOf h), group := none, slices := slices, eng := x.parted, root := x.csr.ptroot,
    core := coreOf h, wait := .none, viq := x.viq ++ x.held, kids := x.kids, vseq := x.vseq, lost := lost, lostAtoms := x.lostAtoms, hostWait := host,
    hostRec := none }

/-- The record that a page fault handed to the host posts (16 R344, R346). -/
def pageFaultEvent (s : State) (x : Hart) : HostEvent :=
  { fn := (fnOfNest s x.nest).getD .pf, kind := 1, addr := x.saveSlot, tval := x.csr.tval,
    extra := (x.csr.tcause &&& 0x3F) ||| ((x.csr.tval2 &&& 0x3F) <<< 32), ctx := some x.ctx }

/-- The save of a halted context (15 R329): lines, tiles, streams and the image. A context whose slot cannot be written, or has an
uncorrectable error in a chunk that the image leaves in part, is discarded. -/
def saveContext (s : State) (h : Nat) (r : HaltReason) : State :=
  let s0 := takeBack (drainAll (quiesce s h) h) h
  let (s1, lost) := flushLines h (rectLines (getHart s0 h).csr.hwm) s0 none
  let s2 := settleStreams s1 h
  let x := getHart s2 h
  let n := slicesOf s2 h
  let g := x.parted
  let p : ImageParts :=
    { lost := lost.isSome, slices := n, home := coreOf h, det := g.copy.detached || g.lens.detached || g.xch.detached, pc := x.pc,
      copyDet := g.copy.detached, lensDet := g.lens.detached, xchDet := g.xch.detached, mtxQ := g.mtxQ,
      viq := if x.vq then x.held else x.viq }
  match writePieces (slotAgent (coreOf h) x.csr.ptroot) (fun _ => .engine) x.saveSlot (imagePieces s2 h p) s2 with
  | (s3, keys, some _) => discardContext (notePartial s3 keys) x.ctx false (some x.saveSlot)
  | (s3, keys, none) =>
    if keys.any (isPoisoned s3) then discardContext (notePartial s3 keys) x.ctx false (some x.saveSlot)
    else
    let host := r == .hostPageFault
    let s4 := startAgeing s3 x.nest
    let s5 := { s4 with
      saved := s4.saved ++ [savedOf x h n lost host]
      events := if host then s4.events ++ [pageFaultEvent s4 x] else s4.events }
    settleAll (freeHart s5 h)

/-- CONTEXT_SAVE (15 R329) of a halted hart; its live children are asked to halt with it (R325). A stop that reached it meanwhile discards
the context once it is saved (14 Table 14.5). -/
def contextSave (s : State) (h : Nat) : State :=
  let x := getHart s h
  match x.halted with
  | none => s
  | some r =>
    if !x.bound then s
    else
      let s1 := saveContext (requestHalt s h .preempt) h r
      match x.request with
      | some q => if haltStops q then discardContext s1 x.ctx (q == .hardDeadline) none else s1
      | none => s1

/-- The event of a save. -/
def execContextSave (h : Nat) (st : State) : Out := live st (fun s => contextSave s h)

/-! Resuming (15 R330). -/

/-- Word i of an image. -/
def imgW (ws : List Nat) (i : Nat) : Word := word (ws.getD i 0)

/-- A mask register of an image. -/
def imgMask (ws : List Nat) (m : Nat) : BitVec 512 :=
  BitVec.ofNat 512 (((List.range 8).map (fun k => ws.getD (40 + 8 * m + k) 0 * 2 ^ (64 * k))).sum)

/-- The system registers of an image, with reserved fields as a write keeps them (06 R137). -/
def imgCsrs (ws : List Nat) : Csrs :=
  let w := fun i => imgW ws (112 + i)
  { fpctl := fpctlWritten (w 0), fpflags := w 1 &&& 0x3F, nestid := imgW ws 5 &&& 0xFFFF, deadline := imgW ws 6,
    tvec := w 2 &&& ~~~3#64, tcause := w 3 &&& 0x800000000000003F#64, tpc := w 4 &&& ~~~3#64, tval := w 5, tval2 := w 6,
    tstatus := w 7 &&& 7, residx := w 8 &&& 0xFFF, viqpos := w 9 &&& 0x1FFFFF, hwm := w 10 &&& 0x3FFFFFFFF#64,
    vback := vbackWritten (w 11), ptroot := w 12 &&& 0x000FFFFFFFFFFFFF#64, cpyerr := w 13, resthr := w 14 &&& 0xFFFFFFFF#64 }

/-- The stream of register 28 + k in an image, if it is bound. -/
def imgStream (ws : List Nat) (k : Nat) : Option Stream :=
  let base := 160 + 16 * k
  let bs := bytesOfWords ((List.range 8).map (fun i => ws.getD (base + i) 0))
  if ws.getD (base + 10) 0 % 2 == 1 then some (streamOf bs (ws.getD (base + 8) 0) (ws.getD (base + 9) 0)) else none

/-- The hart with the registers, marks, streams and lines of an image (15 Table 15.5, R339). -/
def loadRegs (x : Hart) (ws : List Nat) : Hart :=
  let c := imgCsrs ws
  let streams := [0, 1, 2, 3].foldl (fun (m : SMap Stream) k =>
    match imgStream ws k with | some t => smPut m (28 + k) t | none => m) []
  let y := { x with
    strip := { addr := imgW ws 2, count := imgW ws 3, strikes := ws.getD 4 0 }
    csr := c, back := c.vback, streams := streams, vreg := []
    vlines := (rectLines c.hwm).foldl (fun (m : SMap LineState) l => smPut m l .away) [] }
  let z := (List.range 32).foldl (fun (y : Hart) i => y.setS (BitVec.ofNat 5 i) (imgW ws (8 + i))) y
  let u := (List.range 8).foldl (fun (y : Hart) i => y.setM i (imgMask ws i)) z
  (List.range 8).foldl (fun (y : Hart) i => y.setSh i (imgW ws (104 + i))) u

/-- Whether an image's header is one of layout version 1 (15 R339, code 96). -/
def headerOk (ws : List Nat) : Bool := ws.getD 0 0 % 256 == 1 && ws.getD 0 0 / 2 ^ 23 == 0

/-- A tile loaded from its image as mfill loads it (15 R339, 09 R204): the state, or the trap; code 5 for an invalid header. -/
def loadTile (s : State) (h : Nat) (a : Agent) (slot : Word) (tile cols : Nat) : Except Stop State :=
  let va := slot + word (tileOffset tile)
  match readWords s a slot va 2 with
  | .error t => .error t
  | .ok (ws, s1) =>
    let w0 := ws.headD 0
    let nrow := w0 / 2 ^ 16 % 65536
    let ncol := w0 / 2 ^ 32 % 256
    if !imageHeaderOk w0 (ws.getD 1 0) cols then .error { trap := badtile slot 5, state := s1 }
    else
      let n := imageBytes nrow ncol
      match translatePages s1 a va n .load (pageList va.toNat n) with
      | .error t => .error t
      | .ok (pages, s2) =>
        let x := getHart s2 h
        let c := { newCmd x (.mfill 0 0 (BitVec.ofNat 1 tile)) va 0 (word (w0 % 256)) 0 with
          nrows := nrow, ncols := ncol, pages := pages }
        let y := (x.setMode tile (w0 % 256 == 1)).zeroRows tile 0 256
        .ok ((List.range nrow).foldl (fun s r => (imageRowIn s h c r).1) (putHart s2 h y))

/-- Both tiles loaded. -/
def loadTiles (s : State) (h : Nat) (a : Agent) (slot : Word) (cols : Nat) : Except Stop State :=
  match loadTile s h a slot 0 cols with
  | .error t => .error t
  | .ok s1 => loadTile s1 h a slot 1 cols

/-- The shape register that a vector instruction names second, which only vreshape does. -/
def secondShape (i : Instr) : Nat :=
  match i with
  | .vreshape _ _ k _ _ => k.toNat
  | _ => 0

/-- Entry k of an image's VIQ area, with what the image does not hold from the entries as they stood (log entry 39). -/
def imgEntry (s : State) (h : Nat) (ws : List Nat) (old : List VEntry) (k : Nat) : Option VEntry :=
  let w := fun i => ws.getD (520 + 8 * k + i) 0
  match decodeWord (w 0 % 2 ^ 32) with
  | .error _ => none
  | .ok i =>
    let seq := BitVec.ofNat 16 (w 7)
    let kept := old.find? (fun e => e.seq == seq)
    let cap : Capture :=
      { shape := word (w 2), shapeK := match kept with | some e => e.cap.shapeK | none => (getHart s h).getSh (secondShape i),
        fpctl := word (w 3), sa := word (w 4), sb := word (w 5), sa1 := word (w 6), slices := slicesOf s h }
    let e : VEntry :=
      { instr := i, pc := word (w 1), cap := cap, seq := seq, prog := .sweep 0, issued := false, inflight := []
        flags := match kept with | some e => e.flags | none => 0
        lines := [], popped := 0, pushes := match kept with | some e => e.pushes | none => 0
        entered := s.steps, cmds := match kept with | some e => e.cmds | none => (getHart s h).eng.stamp }
    (vopOf s h e).map (fun op =>
      let prog := progOf op e (w 0 / 2 ^ 32)
      { e with
        prog := prog, lines := opLines op cap
        popped := match kept, prog with | some k, _ => k.popped | none, .sweep p => p | none, .beats _ => 0 })

/-- The VIQ entries of an image. -/
def imgEntries (s : State) (h : Nat) (ws : List Nat) (old : List VEntry) : List VEntry :=
  (List.range (min 32 (ws.getD 512 0 / 2 ^ 32 % 64))).filterMap (imgEntry s h ws old)

/-- A matrix command rebuilt from entry k of an image, its translations made afresh (log entry 42). -/
def rebuildCmd (s : State) (h : Nat) (ws : List Nat) (k : Nat) : Except Stop (List MtxCmd × State) :=
  let w := fun i => ws.getD (264 + 8 * k + i) 0
  let a := agentOf s h
  match decodeWord (w 0 % 2 ^ 32) with
  | .error _ => .ok ([], s)
  | .ok i =>
    let c := { newCmd (getHart s h) i (word (w 2)) (word (w 3)) (word (w 4)) (word (w 5)) with
      num := word (w 1), fpctl := word (w 6), kdone := w 0 / 2 ^ 32, mrec := if bitOf (w 7) 15 then some (w 7 % 512) else none,
      flags := word (w 7 / 2 ^ 16 % 64), started := w 0 / 2 ^ 32 != 0 || w 7 / 2 ^ 32 % 512 != 0,
      nrows := min (w 7 / 2 ^ 32 % 512) 256, ncols := 16 * slicesOf s h,
      poison := if bitOf (w 7) 22 then some (Config.reportAddress s.steps) else none }
    if isMaci i then
      match access s a c.srec 4 .load .engine with
      | .error t => .error t
      | .ok (key, s1) => .ok ([{ c with recKey := key }], s1)
    else if isMspill i then
      let n := imageBytes (max c.nrows (spillRows (getHart s h) (tileField i))) c.ncols
      match translatePages s a c.sa n .store (pageList c.sa.toNat n) with
      | .error t => .error t
      | .ok (m, s1) => .ok ([{ c with pages := m }], s1)
    else if isMfill i then
      match readWords s a c.sa c.sa 2 with
      | .error t => .error t
      | .ok (hs, s1) =>
        let w0 := hs.headD 0
        let n := imageBytes (w0 / 2 ^ 16 % 65536) (w0 / 2 ^ 32 % 256)
        match translatePages s1 a c.sa n .load (pageList c.sa.toNat n) with
        | .error t => .error t
        | .ok (m, s2) =>
          .ok ([{ c with pages := m, nrows := min (w0 / 2 ^ 16 % 65536) 256, ncols := min (w0 / 2 ^ 32 % 256) 64, srec := word (w0 % 256) }], s2)
    else .ok ([c], s)

/-- A matrix command as entry k of an image's queue gives it, over the command as it stood, for what the image does not hold: its kept
translations, its order, and the address of a pending poison report (log entry 39). -/
def imgCmdOver (s : State) (ws : List Nat) (k : Nat) (c : MtxCmd) : MtxCmd :=
  let w := fun i => ws.getD (264 + 8 * k + i) 0
  { c with
    kdone := w 0 / 2 ^ 32, sa := word (w 2), shape := word (w 5), fpctl := word (w 6)
    sb := if isMac c.instr then word (w 3) else c.sb
    srec := if isMaci c.instr then word (w 4) else c.srec
    mrec := if bitOf (w 7) 15 then some (w 7 % 512) else none
    flags := word (w 7 / 2 ^ 16 % 64)
    poison := if bitOf (w 7) 22 then some (c.poison.getD (Config.reportAddress s.steps)) else none
    nrows := if isMspill c.instr && c.started then min (w 7 / 2 ^ 32 % 512) 256 else c.nrows }

/-- Whether entry k of an image names a command as it stood: its number and its instruction word. -/
def imgCmdOf (ws : List Nat) (k : Nat) (c : MtxCmd) : Bool :=
  c.num.toNat == ws.getD (264 + 8 * k + 1) 0 && (instrWord c.instr).toNat == ws.getD (264 + 8 * k) 0 % 2 ^ 32

/-- Entry k of an image's matrix queue: over the command as it stood, or rebuilt where none is known. -/
def imgCmd (h : Nat) (ws : List Nat) (old : List MtxCmd) (k : Nat) (s : State) : Except Stop (List MtxCmd × State) :=
  match old.find? (imgCmdOf ws k) with
  | some c => .ok ([imgCmdOver s ws k c], s)
  | none => rebuildCmd s h ws k

/-- The matrix queue of an image. -/
def imgQueue (h : Nat) (ws : List Nat) (old : List MtxCmd) : List Nat → State → Except Stop (List MtxCmd × State)
  | [], s => .ok ([], s)
  | k :: ks, s =>
    match imgCmd h ws old k s with
    | .error t => .error t
    | .ok (c, s1) =>
      match imgQueue h ws old ks s1 with
      | .error t => .error t
      | .ok (cs, s2) => .ok (c ++ cs, s2)

/-- The places of the commands in an image's matrix queue. -/
def imgPlaces (ws : List Nat) : List Nat := List.range (min 16 (ws.getD 256 0 % 32))

/-- A timeline with the counts of an engine record. -/
def imgLine (ws : List Nat) (k : Nat) (t : Timeline) : Timeline :=
  { t with issued := imgW ws (128 + 4 * k), done := imgW ws (128 + 4 * k + 1) }

/-- Engine contexts with the counts of an image's records. -/
def imgLines (ws : List Nat) (g : Engines) : Engines :=
  { g with copy := imgLine ws 0 g.copy, mtx := imgLine ws 1 g.mtx, lens := imgLine ws 2 g.lens, xch := imgLine ws 3 g.xch }

/-- The slices that an image's header says were held. -/
def imgSlices (ws : List Nat) : Nat := ws.getD 0 0 / 2 ^ 9 % 8

/-- A hart that resumes a saved context, before its image is read. -/
def resumeBase (s : State) (v : Saved) : Hart :=
  { Hart.reset with
    bound := true, ctx := v.ctx, nest := v.nest, ordinal := v.ordinal, handout := now s, parent := v.parent, area := v.area,
    famBase := v.famBase, saveSlot := v.slot, eng := v.eng.attach, lostAtoms := v.lostAtoms, wait := v.wait, kids := v.kids, vseq := v.vseq }

/-- The hart that resumes, once its registers and tiles are loaded: the matrix queue, the counts and the VIQ entries of its image (15
R330). -/
def resumeQueues (s : State) (v : Saved) (h : Nat) (ws : List Nat) : Except Stop State :=
  match imgQueue h ws v.eng.mtxQ (imgPlaces ws) s with
  | .error t => .error t
  | .ok (q, s1) =>
    let entries := imgEntries s1 h ws v.viq
    let y := getHart s1 h
    .ok (putHart s1 h { y with
      eng := { imgLines ws y.eng with mtxQ := q }
      viq := if y.vq then [] else entries
      held := if y.vq then entries else [] })

/-- A saved context written back into a hart slot of its core, given some slices (15 R330); none where its image cannot be read, or where the
checks of R339 refuse it. The front end continues at PC as the image has it: where software wrote a PC that is no multiple of 4 there, the
fetch is made at that address, which R330 does not settle (DESIGN CHOICE, log entry 108). -/
def resumeAt (s : State) (v : Saved) (h : Nat) (js : List Nat) : Option State :=
  let a := slotAgent (coreOf h) v.root
  let s0 := putCore s (coreOf h) ((getCore s (coreOf h)).give (h % 4) js)
  match readWords s0 a v.slot v.slot 1024 with
  | .error _ => none
  | .ok (ws, s1) =>
    if !headerOk ws || imgSlices ws != ((getCore s1 (coreOf h)).free (h % 4)).length then none
    else
      let x := { loadRegs (resumeBase s v) ws with pc := imgW ws 1 }
      match loadTiles (putHart s1 h x) h a v.slot (16 * v.slices) with
      | .error _ => none
      | .ok s2 =>
        match resumeQueues s2 v h ws with
        | .error _ => none
        | .ok s3 =>
          let s4 := rehart { s3 with saved := s3.saved.filter (fun u => u.ctx != v.ctx) } v.ctx h
          let z := getHart s4 h
          some (if bitOf (ws.getD 0 0) 8 then
              putHart s4 h ({ z with lostAtoms := { z.lostAtoms with inHand := true } }.takeRegback
                (v.lost.getD (Config.reportAddress s.steps)) z.pc)
            else raiseLost s4 h)

/-! Owed writes (15 R331). -/

/-- The register of a load's datum. -/
def datumReg (op : VOp) (e : VEntry) (q : LoadDatum) : Nat :=
  (op.writes e.cap).headD 0 + q.fld * shRows e.cap.shape + q.row

/-- The lines that a datum lies in. -/
def datumLines (op : VOp) (e : VEntry) (q : LoadDatum) : List Nat :=
  let f := shFmt e.cap.shape
  let c := if fmtTwo f then 2 * q.elem else if fmtPacked f then q.elem * fmtWidth f / 32 else q.elem
  let c2 := if fmtPacked f then ((q.elem + 1) * fmtWidth f - 1) / 32 else c
  let l := fun c => 4 * datumReg op e q + c / 128
  if c2 / 128 == c / 128 then [l c] else [l c, l c2]

/-- Some lines of a backing area read into a hart: fails with a line's address. -/
def peekLines (a : Agent) (vback : Word) : List Nat → Hart → State → Except LineStop (Hart × State)
  | [], x, s => .ok (x, s)
  | l :: ls, x, s =>
    let base := lineAddr vback l
    let step := fun (r : Except LineStop (Hart × State)) k =>
      match r with
      | .error w => .error w
      | .ok (x, s) =>
        match backAccess s a (base + word (8 * k)) .load .scalar with
        | .error e => .error { addr := base, state := e.state }
        | .ok (key, s1) =>
          if isPoisoned s1 key then .error { addr := base, state := s1 }
          else
            let w := memNat s1 key 8
            .ok (if k < 64 then setLineData x l k w else setLineNibbles x l (k - 64) w, s1)
    match (List.range 72).foldl step (.ok (x, s)) with
    | .error w => .error w
    | .ok (y, s1) => peekLines a vback ls y s1

/-- The words of some lines that differ between two harts written to a backing area. -/
def pokeLines (a : Agent) (vback : Word) (old new : Hart) : List Nat → State → Except LineStop State
  | [], s => .ok s
  | l :: ls, s =>
    let base := lineAddr vback l
    let step := fun (r : Except LineStop State) k =>
      match r with
      | .error w => .error w
      | .ok s =>
        if lineWord old l k == lineWord new l k then .ok s
        else
          match backAccess s a (base + word (8 * k)) .store .scalar with
          | .error e => .error { addr := base, state := e.state }
          | .ok (key, s1) => .ok (writeNat s1 0 key (lineWord new l k) 8)
    match (List.range 72).foldl step (.ok s) with
    | .error w => .error w
    | .ok s1 => pokeLines a vback old new ls s1

/-- The data of an owed write merged into its lines in memory. -/
def mergeOwed (s : State) (o : Owed) : Except LineStop State :=
  match vopOf s 4096 o.entry with
  | none => .ok s
  | some op =>
    let lines := (o.data.flatMap (datumLines op o.entry)).eraseDups
    let a := backAgent o.core o.root 4096
    match peekLines a o.vback lines Hart.reset s with
    | .error w => .error w
    | .ok (x, s1) =>
      match op.run with
      | .load _ land => pokeLines a o.vback x (landAll land x o.entry o.data) lines s1
      | _ => .ok s1

/-- A line of a context is lost (15 R335): LOST is set in its image, or REGBACK is taken where the context already runs again. -/
def loseLine (s : State) (o : Owed) (line : Word) : State :=
  match hartOfCtx s o.ctx, savedCtx s o.ctx with
  | some h, _ => let x := getHart s h; putHart s h (x.takeRegback line x.pc)
  | none, some v =>
    let s1 := { s with saved := s.saved.map (fun (u : Saved) => if u.ctx == o.ctx then { u with lost := u.lost.or (some line) } else u) }
    let a := slotAgent v.core v.root
    match access s1 a v.slot 8 .store .engine with
    | .error e => e.state
    | .ok (key, s2) => let w := memNat s2 key 8; if bitOf w 8 then s2 else writeNat s2 0 key (w + 256) 8
  | _, _ => s

/-- The first line of an owed write. -/
def owedLine (s : State) (o : Owed) : Word :=
  match vopOf s 4096 o.entry with
  | none => o.vback
  | some op => lineAddr o.vback ((o.data.flatMap (datumLines op o.entry)).headD 0)

/-- OWED_WRITE_LAND (15 R331): the data of owed write k lands, or is lost by an uncorrectable error, which is logged (16 R345, R350), by
poison or by a fault. -/
def owedWriteLand (s : State) (k : Nat) (dataLost : Bool) : State :=
  match (s.owed.drop k).head? with
  | none => s
  | some o =>
    let s1 := { s with owed := s.owed.take k ++ s.owed.drop (k + 1) }
    if dataLost then loseLine (uncorrectable s1 (physOf s o.root (owedLine s o))) o (owedLine s o)
    else if o.data.any (fun d => d.psn) then loseLine s1 o (owedLine s o)
    else
      match mergeOwed s1 o with
      | .error w => loseLine w.state o w.addr
      | .ok s2 => s2

/-- The event of an owed write. -/
def execOwedWriteLand (k : Nat) (dataLost : Bool) (st : State) : Out := live st (fun s => owedWriteLand s k dataLost)

/-! ctxsave and ctxrest (15 R338, R339). -/

/-- The waits for every VIQ entry and every engine command of the executing hart. -/
def waitAll (s : State) : TwaitEnd :=
  if !(curHart s).viq.isEmpty then .waits else waitEngines [.copy, .mtx, .lens, .xch] s

/-- Bytes of an image below the scratchpad (15 R338). -/
def imageExtent : Nat := 0x54010

/-- The image of the executing hart written to a slot by ctxsave. A write that is refused traps before anything is written; one that meets
an uncorrectable error ends the save, and the context is discarded (15 R329, R338). -/
def writeOwnImage (s : State) (slot : Word) : State :=
  let a := agentOf s s.cur
  match translatePages s a slot imageExtent .store (pageList slot.toNat imageExtent) with
  | .error e => trapHere e.state e.trap
  | .ok (_, s1) =>
    let s2 := takeBack (drainAll s1 s.cur) s.cur
    let (s3, lost) := flushLines s.cur (rectLines (curHart s2).csr.hwm) s2 none
    let s4 := settleStreams s3 s.cur
    let x := curHart s4
    let p : ImageParts :=
      { lost := lost.isSome, slices := slicesOf s4 s.cur, home := coreOf s.cur, det := false, pc := x.pc + 4, copyDet := false,
        lensDet := false, xchDet := false, mtxQ := [], viq := x.held }
    match writePieces a (imagePath x (16 * slicesOf s4 s.cur)) slot (imagePieces s4 s.cur p) s4 with
    | (_, _, some t) => trapHere s t
    | (s5, keys, none) =>
      if keys.any (isPoisoned s5) then discardContext (notePartial s5 keys) x.ctx false (some slot) else retire s5 (fun y => y)

/-- ctxsave (15 R338). -/
def execCtxsave (a : BitVec 5) (st : State) : Out :=
  live st (fun s =>
    let x := curHart s
    let slot := x.getS a
    if x.user then privTrap s (.ctxsave a)
    else if slot.toNat % 4096 != 0 then trapHere s (alignTrap slot)
    else
      match waitAll s with
      | .waits => s
      | .raised s1 t => trapHere s1 t
      | .passed s1 => writeOwnImage s1 slot)

/-- The checks of ctxrest on the words of an image (15 R339): codes 96, 97 and 98. -/
def restError (c : Core) (k : Nat) (ws : List Nat) : Option Nat :=
  let hd := ws.getD 0 0
  let open1 := fun i => bitOf (ws.getD (128 + 4 * i + 2) 0) 0 && ws.getD (128 + 4 * i) 0 != ws.getD (128 + 4 * i + 1) 0
  if !headerOk ws then some 96
  else if imgSlices ws != (c.free k).length then some 97
  else if bitOf hd 22 && [0, 1, 2, 3].any open1 then some 98
  else none

/-- The registers and queues of an image in the executing hart, once its lines are written back (15 R339, steps 3 to 5). The progress record
of the image is not kept: ctxrest clears it (13 R283). -/
def loadOwnImage (s : State) (slot : Word) (ws : List Nat) : Except Stop State :=
  let h := s.cur
  let a := agentOf s h
  let x := curHart s
  let vq := bitOf (ws.getD 119 0) 2
  let count := ws.getD 512 0 / 2 ^ 32 % 64
  let y := loadRegs x ws
  let c := y.csr
  let z := { y with
    strip := { addr := 0, count := 0, strikes := 0 }
    csr := { c with
      tstatus := tstatusOf (0 < count) (c.tstatus.getLsbD 1) false
      tpc := if vq then c.tpc else imgW ws 1 &&& ~~~3#64 } }
  match loadTiles (putHart s h { z with acc := [] }) h a slot (16 * slicesOf s h) with
  | .error t => .error t
  | .ok s1 =>
    match imgQueue h ws [] (imgPlaces ws) s1 with
    | .error t => .error t
    | .ok (q, s2) =>
      let u := getHart s2 h
      let idle := { u.eng with copy := Timeline.zero, mtx := Timeline.zero, lens := Timeline.zero, xch := Timeline.zero }
      .ok (putHart s2 h { u with
        held := imgEntries s2 h ws []
        eng := { imgLines ws idle with copyQ := [], mtxQ := q, lensQ := [], xchQ := [] } })

/-- The lines of a hart that are resident. -/
def liveLines (x : Hart) : List Nat := x.vlines.map (fun p => p.1)

/-- ctxrest once its checks have passed (15 R339): the waits, then the lines, then the image. -/
def restoreOwn (s : State) (slot : Word) (ws : List Nat) : State :=
  match waitAll s with
  | .waits => s
  | .raised s1 t => trapHere s1 t
  | .passed s1 =>
    match flushLines s.cur (liveLines (curHart s1)) (takeBack s1 s.cur) none with
    | (s2, some w) => putCur s2 ((curHart s2).takeRegback w (curHart s2).pc)
    | (s2, none) =>
      let s3 := freeStreams s2 s.cur
      match loadOwnImage s3 slot ws with
      | .error e => trapHere s e.trap
      | .ok s4 => retire s4 (fun y => y)

/-- ctxrest (15 R339). The image is read behind every older access of the hart (12 R264). -/
def execCtxrest (a : BitVec 5) (st : State) : Out :=
  live st (fun s =>
    let x := curHart s
    let slot := x.getS a
    if x.user then privTrap s (.ctxrest a)
    else if slot.toNat % 4096 != 0 then trapHere s (alignTrap slot)
    else
      orderedIssue (fun s =>
        match readWords s (agentOf s s.cur) slot slot 1024 with
        | .error e => trapHere e.state e.trap
        | .ok (ws, s1) =>
          match restError (curCore s1) (s.cur % 4) ws with
          | some code => trapHere s1 (badtile slot code)
          | none =>
            match loadTiles s1 s.cur (agentOf s1 s.cur) slot (16 * slicesOf s1 s.cur) with
            | .error e => trapHere s1 e.trap
            | .ok _ => restoreOwn s1 slot ws) s)

/-! The instructions tlbinv (15 R340). -/

/-- tlbinv with its checks and its wait for the hart's earlier events. -/
def tlbinvWith (i : Instr) (s : State) : State :=
  let x := curHart s
  if x.user then privTrap s i
  else if !x.viq.isEmpty then s
  else
    let s1 := if x.storeQ.isEmpty then s else drainAll s s.cur
    retire (match tlbinvGone x i with | some gone => invalidate s1 gone | none => s1) (fun y => y)

/-- tlbinv.page (15 R340). -/
def execTlbinvPage (a b : BitVec 5) (st : State) : Out :=
  live st (tlbinvWith (.tlbinvPage a b))

/-- tlbinv.ctx (15 R340). -/
def execTlbinvCtx (b : BitVec 5) (st : State) : Out :=
  live st (tlbinvWith (.tlbinvCtx b))

/-- tlbinv.all (15 R340). -/
def execTlbinvAll (st : State) : Out := live st (tlbinvWith .tlbinvAll)

end Sys2Proof.Machine
end

