-- ==== Sys2Proof/Machine/Control.lean ====
section
/-! DEFINITION. Control functions of a hart (13 R292 to R297, 12 R265, R266): trap, eret, end, fences, waitm and yield. -/

namespace Sys2Proof.Machine

/-- trap (13 R294). -/
def execTrap (n : BitVec 6) (st : State) : Out :=
  live st (fun s => trapHere s { cause := .trap, tval := word n.toNat, tval2 := 0 })

/-- eret (13 R295, 15 R324). -/
def execEret (st : State) : Out :=
  live st (fun s =>
    let x := curHart s
    if x.user then privTrap s .eret
    else if x.lostAtoms == LostAtoms.none then putCur s x.eret
    else lostReturn (putCur s x.eret) s.cur)

/-! Ordering (12 R265, R266). -/

/-- Whether an entry of the VIQ still has memory accesses to perform: its own, or those of a stream that it pops or pushes. -/
def entryMem (s : State) (h : Nat) (e : VEntry) : Bool :=
  match vopOf s h e with
  | none => false
  | some op =>
    op.mem || !(boundAmong (getHart s h) (op.reads e.cap ++ op.writes e.cap)).isEmpty || (match e.instr with | .xsend .. => true | _ => false)

/-- Whether older VIQ entries of the executing hart have memory accesses left. -/
def pathsBusy (s : State) : Bool := (curHart s).viq.any (entryMem s s.cur)

/-- The executing hart's pending scalar stores performed, when it has any. -/
def drainOwn (s : State) : State := if (curHart s).storeQ.isEmpty then s else drainAll s s.cur

/-- lsync (12 R265). -/
def execLsync (st : State) : Out :=
  live st (fun s => if pathsBusy s then s else retire (drainOwn s) (fun y => y))

/-- fence.K.S (12 R266): it waits until what it orders has been performed; an acquire does not wait for the store queue. -/
def execFence (k : BitVec 2) (sc : BitVec 3) (st : State) : Out :=
  live st (fun s =>
    if k = 0 || 6 ≤ sc.toNat then illegal s (.fence k sc)
    else if pathsBusy s then s
    else retire (if k = 1 then s else drainOwn s) (fun y => y))

/-! waitm and yield (13 R296, R297). -/

/-- One read of waitm at the executing hart: it goes on when the word differs, or waits. -/
def waitmVisit (d a b : BitVec 5) (s : State) : State :=
  let x := curHart s
  let va := x.getS a
  if vmemPending x then s
  else if va.toNat % 8 != 0 then trapHere s (alignTrap va)
  else
    match loadNat s (agentOf s s.cur) va 8 with
    | .error e => trapHere e.state e.trap
    | .ok (v, s1) =>
      if word v = x.getS b then putCur s1 { curHart s1 with wait := .waitm d a b }
      else retireS (putCur s1 { curHart s1 with wait := .none }) d (word v)

/-- waitm (13 R296). -/
def execWaitm (d a b : BitVec 5) (st : State) : Out := live st (waitmVisit d a b)

/-- WAITM_RECHECK (13 R296): a waiting waitm reads its word again. -/
def waitmRecheck (s : State) (h : Nat) : State :=
  match (getHart s h).wait with
  | .waitm d a b =>
    let s1 := putHart { s with cur := h } h { getHart s h with wait := .none }
    { waitmVisit d a b s1 with cur := s.cur }
  | _ => s

/-- The event of a recheck. -/
def execWaitmRecheck (h : Nat) (st : State) : Out := live st (fun s => waitmRecheck s h)

/-- A hart that may take its turn, as far as its own state tells (13 R276): whether its next instruction can issue is seen when it is tried. -/
def readyHart (x : Hart) : Bool :=
  x.bound && x.request.isNone && x.halted.isNone && x.pending.isNone && x.wait == .none && !x.viq.any (fun e => isSync e.instr)

/-- yield (13 R297): the hart waits, before it goes on, for 16 cycles and for every other hart of its core that was ready when the yield
issued. -/
def execYield (st : State) : Out :=
  live st (fun s =>
    let others := s.ready.filter (fun h => h != s.cur && coreOf h == coreOf s.cur)
    putCur s { curHart s with wait := .yield others s.time })

/-- YIELD_RELEASE (13 R297): 16 cycles of 0.625 ns have passed (00 R4), and every hart that the yield counts has issued or has stopped
counting. -/
def yieldRelease (s : State) (h : Nat) : State :=
  let x := getHart s h
  match x.wait with
  | .yield others since =>
    if others.isEmpty && 10 ≤ (s.time - since).toNat then putHart s h { x with wait := .none, pc := x.pc + 4 } else s
  | _ => s

/-- The event of a release. -/
def execYieldRelease (h : Nat) (st : State) : Out := live st (fun s => yieldRelease s h)

/-! end (13 R292). -/

/-- end (13 R292): its steps in order; a step that has to wait leaves what is done done. -/
def execEndIter (st : State) : Out :=
  live st (fun s =>
    match endSteps s with
    | (s1, .waits) => s1
    | (_, .raised s1 t) => trapHere s1 t
    | (_, .passed s1) => finishEnd s1)

end Sys2Proof.Machine
end

