-- ==== Sys2Proof/Machine/Walk.lean ====
section
/-! DEFINITION. The scheduler (14 R302 to R317): hand-out, resumption, pre-emption, rebinding of cores, deadlines, waits, ageing,
withdrawal and completion of nests. -/

namespace Sys2Proof.Machine

/-! Reserved pages and event records (16 R343, R344), as far as a resumption reads them. -/

/-- The lowest-numbered stack in service. -/
def firstStack (s : State) : Nat := ((List.range 8).find? (fun i => !s.boot.fenced.getLsbD i)).getD 0

/-- The key of a function's reserved page; none where its stack is fenced. -/
def reservedPage (s : State) (f : Fn) : Option Nat :=
  match f with
  | .pf => if s.boot.fenced = BitVec.allOnes 8 then none else some (hbmKey (firstStack s) 0xBFFFFE000)
  | .vf i => if s.boot.fenced.getLsbD i.val then none else some (hbmKey i.val 0xBFFFFF000)

/-- The key of record n of a function's event queue. -/
def eventKey (page n : Nat) : Nat := page + 0x800 + 32 * (n % 32)

/-- Whether the host has set DONE in record n of a function's queue. -/
def doneSet (s : State) (f : Fn) (n : Nat) : Bool :=
  match reservedPage s f with
  | none => false
  | some p => (memByte s (eventKey p n + 31)).getLsbD 7

/-- Whether a saved context may be resumed as far as the host is concerned (16 R346). -/
def hostReady (s : State) (v : Saved) : Bool :=
  !v.hostWait || (match v.hostRec with | some (f, n) => doneSet s f n | none => false)

/-! Cores and units (14 R307). -/

/-- The cores that a placement names in stack domains in service, ascending. -/
def placedCores (s : State) (n : Nest) : List Nat :=
  (List.range 640).filter (fun c => bitOf n.rc.place (c / 8) && !s.boot.fenced.getLsbD (c / 80))

/-- The triple that a core is bound to. -/
def coreTriple (c : Core) : Nat × Nat × Nat := (c.poolReg.toNat, c.poolScr.toNat, c.poolL1.toNat)

/-- A bound hart of a nest with lanes. A hart of no live nest counts as one. -/
def lanedHart (s : State) (h : Nat) : Bool :=
  let x := getHart s h
  x.bound && (match findNest s x.nest with | some n => 1 ≤ n.rc.slices | none => true)

/-- The harts with lanes of a core. -/
def lanedHarts (s : State) (core : Nat) : List Nat := ([0, 1, 2, 3].map (fun k => 4 * core + k)).filter (lanedHart s)

/-- A core that is home to a saved context (14 R311). -/
def isHome (s : State) (core : Nat) : Bool := s.saved.any (fun v => v.home == some core)

/-- A core that the scheduler can rebind at once: no bound hart with lanes, and home to no saved context. -/
def rebindable (s : State) (core : Nat) : Bool := (lanedHarts s core).isEmpty && !isHome s core

/-- A walker's next unit: the saved members of one family, or the next iteration. -/
inductive WUnit where
  | resume (members : List Saved)
  | iteration
  deriving DecidableEq, Repr

/-- The saved members of a context's family, the context that started it first. -/
def familySaved (s : State) (v : Saved) : List Saved :=
  let r := famRoot s v.ctx
  let ms := s.saved.filter (fun u => famRoot s u.ctx == r)
  ms.filter (fun u => u.parent.isNone) ++ ms.filter (fun u => u.parent.isSome)

/-- The next unit of a nest (14 R307): its earliest saved context with its family, once the host has answered for them (16 R346); with no
saved context, an iteration. -/
def nextUnit (s : State) (id : Nat) (n : Nest) : Option WUnit :=
  match s.saved.find? (fun v => v.nest == id) with
  | some v => if (familySaved s v).all (hostReady s) then some (.resume (familySaved s v)) else none
  | none => if n.walk.finished then none else some .iteration

/-- Hart slots that a unit needs. -/
def WUnit.slots (u : WUnit) : Nat := match u with | .resume ms => ms.length | .iteration => 1

/-- Slices that a unit needs. -/
def WUnit.slices (n : Nest) (u : WUnit) : Nat := match u with | .resume ms => (ms.map (fun v => v.slices)).sum | .iteration => n.rc.slices

/-- The group that a unit belongs to. -/
def WUnit.group (u : WUnit) : Option Nat := match u with | .resume (v :: _) => v.group | _ => none

/-- The home core of a unit. -/
def WUnit.home (u : WUnit) : Option Nat := match u with | .resume (v :: _) => v.home | _ => none

/-- The triple that a unit needs its core to have: that of its group, or its nest's; none for a scalar-only nest or at home. -/
def WUnit.triple (s : State) (n : Nest) (u : WUnit) : Option (Nat × Nat × Nat) :=
  match u.group with
  | some g => (smFind s.groups g).map (fun r => r.triple)
  | none => if n.rc.slices = 0 || u.home.isSome then none else some n.rc.triple

/-- Whether a core may serve a unit at all: a home context resumes only at home. -/
def homeOk (u : WUnit) (core : Nat) : Bool := match u.home with | some c => c == core | none => true

/-- Whether a core's pool suits a unit, once some of its harts are gone (14 R307, R311): a member of a group needs a core to rebind. -/
def poolSuits (s : State) (n : Nest) (u : WUnit) (core : Nat) : Bool :=
  match u.triple s n with
  | none => true
  | some t => (u.group.isNone && coreTriple (getCore s core) == t) || rebindable s core

/-- A core is free for a unit (14 R307). -/
def coreFree (s : State) (n : Nest) (u : WUnit) (core : Nat) : Bool :=
  let c := getCore s core
  homeOk u core && c.rebind.isNone && u.slots ≤ 4 - (boundSlots s core).length && u.slices n ≤ c.idle.length && poolSuits s n u core

/-- The cores of a nest's placement from a walker's cursor on, wrapping round. -/
def searchOrder (s : State) (n : Nest) (cursor : Nat) : List Nat :=
  let cs := placedCores s n
  cs.filter (fun c => cursor ≤ c) ++ cs.filter (fun c => c < cursor)

/-- The core that a walker finds for a unit. -/
def findCore (s : State) (w : Nat) (n : Nest) (u : WUnit) : Option Nat :=
  (searchOrder s n (getWalker s w).cursor).find? (coreFree s n u)

/-! Binding (04 R81). -/

/-- The dirty lines of a hart written back and every resident line given up; a failure raises REGBACK at the hart. -/
def evictHart (s : State) (h : Nat) : State :=
  match flushLines h (liveLines (getHart s h)) s none with
  | (s1, some w) => let x := getHart s1 h; putHart s1 h (x.takeRegback w x.pc)
  | (s1, none) =>
    let x := getHart s1 h
    putHart s1 h { x with vreg := [], vlines := x.vlines.map (fun (p : Nat × LineState) => (p.1, LineState.away)) }

/-- POOL_REBIND (04 R81): a bind of a different triple writes back the lines, invalidates the L1, zeroes the new scratchpad and sets the
registers. -/
def bindPool (s : State) (core : Nat) (t : Nat × Nat × Nat) : State :=
  if coreTriple (getCore s core) == t then s
  else
    let s1 := ((boundSlots s core).map (fun k => 4 * core + k)).foldl evictHart s
    let lo := scrKey core 0
    let hi := scrKey core (4096 * t.2.1)
    let s2 := { s1 with
      mem := smClear s1.mem lo hi, poison := smClear s1.poison (poisonUnit lo) (2 ^ 60 + hi / 8)
      caches := { s1.caches with l1 := smErase s1.caches.l1 core } }
    putCore s2 core { getCore s2 core with
      poolReg := word t.1, poolScr := word t.2.1, poolL1 := word t.2.2 }

/-! Starting an iteration (14 R303, 06 R139). -/

/-- The hart that an iteration starts in. TCAUSE, TPC, TVAL, TVAL2, RESIDX, VIQPOS and CPYERR, which 06 R139 and 14 R303 do not list, take
their values of a device reset (DESIGN CHOICE, log entry 100). -/
def iterationHart (s : State) (id : Nat) (n : Nest) (h : Nat) (tuple : List Nat) (ordinal : Nat) : Hart :=
  let i := fun k => word (tuple.getD k 0)
  let vback := vbackWritten (n.rc.back + word (h * n.rc.bkn * backBytes))
  let deadline := word ((if n.rc.hard then 2 ^ 63 else 0) + n.rc.dline)
  let r := { Hart.reset with
    bound := true, ctx := s.nextCtx, nest := id, ordinal := ordinal, handout := now s, famBase := vback, back := vback,
    saveSlot := n.rc.save + word (h * 0x200000), pc := n.rc.entry
    role := match n.fn with
      | some f => if n.dispatch then .dispatcher f else .program
      | none => .program
    csr := { Csrs.reset with
      nestid := word id, deadline := deadline, tvec := n.tvec, ptroot := n.ptroot, resthr := n.resthr, vback := vback,
      tstatus := tstatusOf false false n.user } }
  ((((((((r.setS 1 (i 0)).setS 2 (i 1)).setS 3 (i 2)).setS 4 (i 3)).setS 5 n.rc.param).setS 6 (word ordinal)).setS 7
    (word id)).setS 30 (n.rc.stack + word ((h + 1) * n.rc.stksz)))

/-- A unit handed out: the nest's count, its priority back at its base, and the walker's cursor past the core. -/
def handedOut (s : State) (w id core : Nat) : State :=
  match findNest s id with
  | none => s
  | some n =>
    let s1 := putNest s id { n with out := min (2 ^ 32 - 1) (n.out + 1), eprio := n.rc.prio, ageFrom := now s }
    { s1 with
      walkers := smPut s1.walkers w { getWalker s1 w with cursor := (core + 1) % 640 }
      lastWalker := w }

/-- The lowest-numbered unbound slot of a core as a package hart number. -/
def lowestHart (s : State) (core : Nat) : Nat := 4 * core + (freeSlot s core).getD 0

/-- The next iteration of a walk started on a core. -/
def startIteration (s : State) (w id : Nat) (n : Nest) (core : Nat) : State :=
  match walkTake s n with
  | (none, n1, s1) => putNest s1 id n1
  | (some (tuple, ordinal), n1, s1) =>
    let s2 := putNest s1 id n1
    let s3 := if n1.rc.slices = 0 then s2 else bindPool s2 core n1.rc.triple
    let h := lowestHart s3 core
    let c := getCore s3 core
    let s4 := putCore s3 core (c.give (h % 4) (c.idle.take n1.rc.slices))
    let s5 := putHart { s4 with nextCtx := s4.nextCtx + 1 } h (iterationHart s4 id n1 h tuple ordinal)
    handedOut s5 w id core

/-! Resuming (14 R311, 15 R330). -/

/-- Offset of the scratchpad image in a slot. -/
def scratchOffset : Nat := 0x100000

/-- The words of a saved scratchpad image read into a core's scratchpad; none where one cannot be read. -/
def loadScratch (a : Agent) (slot : Word) (core : Nat) : List Nat → State → Option State
  | [], s => some s
  | k :: ks, s =>
    match access s a (slot + word (scratchOffset + 8 * k)) 8 .load .engine with
    | .error _ => none
    | .ok (key, s1) =>
      if isPoisoned s1 key then none
      else loadScratch a slot core ks (putNat s1 (2 ^ 62) (scrKey core (8 * k)) (memNat s1 key 8) 8)

/-- A core's scratchpad written to a slot; none where a word is refused, or poisoned in the scratchpad. -/
def storeScratch (a : Agent) (slot : Word) (core : Nat) : List Nat → State → Option State
  | [], s => some s
  | k :: ks, s =>
    if isPoisoned s (scrKey core (8 * k)) then none
    else
      match access s a (slot + word (scratchOffset + 8 * k)) 8 .store .engine with
      | .error _ => none
      | .ok (key, s1) => storeScratch a slot core ks (putNat s1 (2 ^ 62) key (memNat s1 (scrKey core (8 * k)) 8) 8)

/-- Every context of a group whose image is lost, discarded (15 R327). -/
def loseGroup (s : State) (vs : List Saved) (slot : Word) : State :=
  keeperLog (vs.foldl (fun s v => discardContext s v.ctx false (some v.slot)) s) 5 slot

/-- A core bound for the first member of a group to resume: its image written over the zeroed scratchpad, and the core the home of every
member; or the group lost. -/
def openGroup (s : State) (g : Nat) (core : Nat) : State :=
  match smFind s.groups g with
  | none => s
  | some r =>
    let s1 := bindPool s core r.triple
    let s2 := { s1 with mem := smClear s1.mem (scrKey core 0) (scrKey core (4096 * r.triple.2.1)), groups := smErase s1.groups g }
    match loadScratch (slotAgent core r.root) r.slot core (List.range (512 * r.triple.2.1)) s2 with
    | none => loseGroup s2 (s2.saved.filter (fun v => v.group == some g)) r.slot
    | some s3 =>
      { s3 with saved := s3.saved.map (fun (v : Saved) => if v.group == some g then { v with group := none, home := some core } else v) }

/-- One saved context resumed on a core, on the lowest slot and slices; discarded where its image cannot be read. -/
def resumeOne (core : Nat) (s : State) (v : Saved) : State :=
  match savedCtx s v.ctx with
  | none => s
  | some u =>
    let h := lowestHart s core
    match resumeAt s u h ((getCore s core).idle.take u.slices) with
    | none => discardContext s u.ctx false (some u.slot)
    | some s1 => s1

/-- The members of a unit resumed on a core. -/
def resumeUnit (s : State) (w id : Nat) (u : WUnit) (ms : List Saved) (core : Nat) : State :=
  let s1 := match u.group with | some g => openGroup s g core | none => s
  settleAll (handedOut (ms.foldl (resumeOne core) s1) w id core)

/-! Pre-emption (14 R310). -/

/-- The effective priority of a hart's nest. -/
def hartPrio (s : State) (h : Nat) : Nat :=
  match findNest s (getHart s h).nest with
  | some n => n.eprio
  | none => 7

/-- A hart that is being halted. -/
def halting (x : Hart) : Bool := x.request.isSome || x.halted.isSome

/-- The harts that a walker of effective priority p may choose on a core: they run iterations, and are not halting yet. -/
def victimsOn (s : State) (p core : Nat) : List Nat :=
  ([0, 1, 2, 3].map (fun k => 4 * core + k)).filter (fun h =>
    let x := getHart s h
    x.bound && x.parent.isNone && !halting x && hartPrio s h < p)

/-- A hart and its live children on its core. -/
def withChildren (s : State) (h : Nat) : List Nat :=
  ([0, 1, 2, 3].map (fun k => 4 * coreOf h + k)).filter (fun j =>
    let y := getHart s j
    y.bound && descends s (getHart s h).ctx y.ctx 4)

/-- Whether a core would be free for a unit once some of its harts are halted, without or with a rebind. -/
def freeAfter (s : State) (n : Nest) (u : WUnit) (core : Nat) (gone : List Nat) (rebind : Bool) : Bool :=
  let c := getCore s core
  let freed := (gone.map (fun h => (c.free (h % 4)).length)).sum
  let suits := match u.triple s n with
    | none => true
    | some t => if rebind then (lanedHarts s core).all (fun h => gone.contains h) else u.group.isNone && coreTriple c == t
  homeOk u core && u.slots + (boundSlots s core).length ≤ 4 + gone.length && u.slices n ≤ c.idle.length + freed && suits

/-- The order among victims of one nest priority and rebinding need: the latest hand-out, then the highest number. -/
def victimBefore (s : State) (a b : Nat) : Bool :=
  let x := getHart s a
  let y := getHart s b
  hartPrio s a < hartPrio s b ||
    (hartPrio s a == hartPrio s b && (y.handout < x.handout || (y.handout == x.handout && b < a)))

/-- The harts of a core to halt for a unit, the given one first and further ones in order until the core is free; none where they do not
suffice. -/
def victimSet (s : State) (n : Nest) (u : WUnit) (core : Nat) (rebind : Bool) : List Nat → List Nat → Option (List Nat)
  | gone, [] => if freeAfter s n u core gone rebind then some gone else none
  | gone, h :: hs =>
    if freeAfter s n u core gone rebind && !gone.isEmpty then some gone
    else victimSet s n u core rebind (gone ++ (withChildren s h).filter (fun j => !gone.contains j)) hs

/-- The victims that a first choice leads to, without a rebind if that serves. -/
def victimsFrom (s : State) (n : Nest) (u : WUnit) (p h : Nat) : Option (List Nat × Bool) :=
  let core := coreOf h
  let order := h :: (sortBy (victimBefore s) ((victimsOn s p core).filter (fun j => j != h)))
  match victimSet s n u core false [] order with
  | some v => some (v, false)
  | none => (victimSet s n u core true [] order).map (fun v => (v, true))

/-- The choice of victims: by priority, then those without a rebind, then as victimBefore. -/
def chooseVictims (s : State) (n : Nest) (u : WUnit) : Option (List Nat × Bool) :=
  let all := (placedCores s n).flatMap (victimsOn s n.eprio)
  let cands := all.filterMap (fun h => (victimsFrom s n u n.eprio h).map (fun v => (h, v)))
  let before := fun (a b : Nat × (List Nat × Bool)) =>
    hartPrio s a.1 < hartPrio s b.1 ||
      (hartPrio s a.1 == hartPrio s b.1 && ((!a.2.2 && b.2.2) || (a.2.2 == b.2.2 && victimBefore s a.1 b.1)))
  ((sortBy before cands).head?).map (fun c => c.2)

/-- Whether a core is already being freed for a unit. -/
def beingFreed (s : State) (n : Nest) (u : WUnit) (core : Nat) : Bool :=
  let gone := ((boundSlots s core).map (fun k => 4 * core + k)).filter (fun h => halting (getHart s h))
  let c := getCore s core
  (c.rebind.isSome && freeAfter s n u core gone true) || (!gone.isEmpty && freeAfter s n u core gone false)

/-- WALKER_PREEMPT (14 R310): halts asked for, unless some core is already being freed. -/
def preempt (s : State) (id : Nat) (n : Nest) (u : WUnit) : State :=
  if (placedCores s n).any (beingFreed s n u) then s
  else
    match chooseVictims s n u with
    | none =>
      (match (placedCores s n).find? (fun c =>
          (u.triple s n).isSome && (lanedHarts s c).isEmpty && isHome s c && (getCore s c).rebind.isNone && freeAfter s n u c [] true &&
            u.group.isSome) with
       | some c => putCore s c { getCore s c with rebind := some id }
       | none => s)
    | some (hs, rebind) =>
      let core := coreOf (hs.headD 0)
      let s1 := hs.foldl (fun s h => requestHalt s h (if rebind then .rebind else .preempt)) s
      if rebind then putCore s1 core { getCore s1 core with rebind := some id } else s1

/-! WALKER_HANDOUT (14 R307, R308, R312). -/

/-- Whether a nest may hand out: its waits are satisfied. -/
def Nest.open (n : Nest) : Bool := n.waitsOk.all (fun b => b)

/-- Whether the deadline of a nest has passed. -/
def deadlinePassed (s : State) (n : Nest) : Bool := n.rc.dline != 0 && n.rc.dline ≤ now s

/-- Whether a walker's walk is to be drained: withdrawn, expired, or expiring now. -/
def drains (s : State) (id : Nat) (n : Nest) : Bool :=
  !n.walk.finished &&
    (n.withdrawing || n.draining || (deadlinePassed s n && (!n.open || nextUnit s id n == some .iteration)))

/-- One iteration drained (14 R312, R316): counted as expired unless the nest is withdrawn. -/
def drainOneIter (s : State) (id : Nat) (n : Nest) : State :=
  match walkTake s { n with draining := true } with
  | (none, n1, s1) => settleAll (putNest s1 id n1)
  | (some _, n1, s1) => settleAll (accountOne (putNest s1 id n1) id (!n1.withdrawing))

/-- The unit and core that a walker can serve now. -/
def readyUnit (s : State) (w : Nat) : Option (Nat × Nest × WUnit × Nat) :=
  match (getWalker s w).nest with
  | none => none
  | some id =>
    match findNest s id with
    | none => none
    | some n =>
      if !n.open || drains s id n || n.withdrawing then none
      else
        match nextUnit s id n with
        | none => none
        | some u => (findCore s w n u).map (fun c => (id, n, u, c))

/-- The walker whose turn it is (14 R308): of those that can serve a unit, the highest effective priority, round-robin by number. -/
def turnOf (s : State) : Option Nat :=
  let ready := (List.range 16).filterMap (fun w => (readyUnit s w).map (fun r => (w, r.2.1.eprio)))
  let top := (ready.map (fun r => r.2)).foldl max 0
  let best := (ready.filter (fun r => r.2 == top)).map (fun r => r.1)
  match best.find? (fun w => s.lastWalker < w) with
  | some w => some w
  | none => best.head?

/-- A walk that has ended and is not yet noted so: no iteration and no unread bound is left (14 R302, R304). -/
def walkEmpty (s : State) (n : Nest) : Bool := !n.walk.finished && walkOver s n

/-- WALKER_HANDOUT: one iteration drained, or one unit handed out in turn, or victims chosen. -/
def walkerHandout (s : State) (w : Nat) : State :=
  match (getWalker s w).nest with
  | none => s
  | some id =>
    match findNest s id with
    | none => s
    | some n =>
      if walkEmpty s n then settleAll (putNest s id { n with walk := { n.walk with finished := true } })
      else if drains s id n then drainOneIter s id n
      else
        match readyUnit s w with
        | some (_, _, u, core) =>
          if turnOf s != some w then s
          else
            (match u with
             | .resume ms => resumeUnit s w id u ms core
             | .iteration => settleAll (startIteration s w id n core))
        | none =>
          if !n.open || n.withdrawing then s
          else match nextUnit s id n with
            | none => s
            | some u => preempt s id n u

/-- The event of a hand-out. -/
def execWalkerHandout (w : Nat) (st : State) : Out := live st (fun s => walkerHandout s w)

/-- CONTEXT_RESUME (15 R330): a walker's next unit, if it is a saved context, resumes on a free core. -/
def contextResume (s : State) (w : Nat) : State :=
  match readyUnit s w with
  | some (id, _, .resume ms, core) => if turnOf s != some w then s else resumeUnit s w id (.resume ms) ms core
  | _ => s

/-- The event of a resumption. -/
def execContextResume (w : Nat) (st : State) : Out := live st (fun s => contextResume s w)

/-! CORE_REBIND (14 R311). -/

/-- The saved contexts whose home a core is, formed into a group with its scratchpad image, or lost with it. -/
def formGroup (s : State) (core : Nat) : State :=
  let ms := s.saved.filter (fun v => v.home == some core)
  match sortBy (fun (a b : Saved) => a.hart < b.hart) ms with
  | [] => s
  | v :: _ =>
    let t := coreTriple (getCore s core)
    match storeScratch (slotAgent v.core v.root) v.slot core (List.range (512 * t.2.1)) s with
    | none => loseGroup s ms v.slot
    | some s1 =>
      let g := (s1.groups.map (fun p => p.1 + 1)).foldl max 1
      { s1 with
        groups := smPut s1.groups g { slot := v.slot, root := v.root, triple := t }
        saved := s1.saved.map (fun (u : Saved) => if u.home == some core then { u with home := none, group := some g } else u) }

/-- A rebind that the scheduler has begun, once the core's harts with lanes are saved: the group, then R81 for the nest's next unit. -/
def coreRebind (s : State) (core nest : Nat) : State :=
  let c := getCore s core
  if c.rebind != some nest || !(lanedHarts s core).isEmpty then s
  else
    let s0 := putCore s core { c with rebind := none }
    match findNest s nest with
    | none => s0
    | some n =>
      let t := ((nextUnit s0 nest n).bind (fun u => u.triple s0 n)).getD n.rc.triple
      bindPool (formGroup s0 core) core t

/-- The event of a rebind. -/
def execCoreRebind (core nest : Nat) (st : State) : Out := live st (fun s => coreRebind s core nest)

/-! Withdrawal (14 R316, R317). -/

/-- The running contexts of a nest asked to stop, and its saved contexts discarded. -/
def stopContexts (s : State) (id : Nat) (r : HaltReason) (expired : Bool) : State :=
  let run := (s.harts.filter (fun p => p.2.bound && p.2.nest == id && p.2.parent.isNone)).map (fun p => p.1)
  let s1 := run.foldl (fun s h => requestHalt s h r) s
  let gone := (s1.saved.filter (fun v => v.nest == id && v.parent.isNone)).map (fun v => v.ctx)
  gone.foldl (fun s c => discardContext s c expired none) s1

/-- A nest withdrawn (14 R316): the walker hands out nothing more, contexts stop, and the walk is drained. -/
def withdrawNest (s : State) (id : Nat) (badref : Bool) : State :=
  match findNest s id with
  | none => s
  | some n =>
    if n.withdrawing then s
    else
      stopContexts (putNest s id { n with withdrawing := true, draining := true, badref := n.badref || badref }) id .withdraw false

/-- nwithdraw (14 R316). -/
def execNwithdraw (a : BitVec 5) (st : State) : Out :=
  live st (fun s =>
    let x := curHart s
    let id := (x.getS a).toNat
    match findNest s id with
    | none => retire s (fun y => y)
    | some n =>
      if n.withdrawing then retire s (fun y => y)
      else if x.user && x.csr.ptroot.toNat % 65536 != n.ptroot.toNat % 65536 then privTrap s (.nwithdraw a)
      else if x.nest = id then withdrawNest s id false
      else retire (withdrawNest s id false) (fun y => y))

/-- The key of a word that the scheduler reads for a nest, by a walk of its page tables. -/
def nestKey (s : State) (n : Nest) (va : Word) : Option Nat :=
  match walk s n.ptroot va .load with
  | .error _ => none
  | .ok l =>
    match resolve s n.core va ((tlbOf n.ptroot va l).paOf va) .load with
    | .error _ => none
    | .ok key => some key

/-- Whether nest m has a status entry that names the status word of n. -/
def namesStatus (s : State) (m n : Nest) : Bool :=
  let own := nestKey s n (n.rc.cblk + 8)
  n.rc.cblk != 0 && own.isSome &&
    [0, 1, 2, 3].any (fun k => bitOf m.rc.wstat k && nestKey s m (m.rc.waita.getD k 0) == own)

/-- DEPENDANT_WITHDRAW (14 R317): the dependants of a withdrawn nest. -/
def withdrawDependants (s : State) (id : Nat) (n : Nest) : State :=
  let deps := (s.nests.filter (fun p => p.1 != id && (namesStatus s p.2 n || p.2.submitter == id))).map (fun p => p.1)
  deps.foldl (fun s d => withdrawNest s d false) s

/-! Deadlines (14 R312, R313). -/

/-- DEADLINE_EXPIRY: the walk drains from now on; with HARD, every context of the nest is stopped. -/
def deadlineExpiry (s : State) (id : Nat) : State :=
  match findNest s id with
  | none => s
  | some n =>
    if !deadlinePassed s n || n.withdrawing then s
    else
      let s1 := if n.walk.finished || hasSaved s id then s else putNest s id { n with draining := true }
      if n.rc.hard then stopContexts s1 id .hardDeadline true else s1

/-- The event of a deadline. -/
def execDeadlineExpiry (nest : Nat) (st : State) : Out := live st (fun s => deadlineExpiry s nest)

/-! Waits and ageing (14 R305, R309). -/

/-- WAIT_WORD_POLL (14 R305): one read of wait entry k. -/
def waitWordPoll (s : State) (w k : Nat) : State :=
  match (getWalker s w).nest with
  | none => s
  | some id =>
    match findNest s id with
    | none => s
    | some n =>
      if n.withdrawing || (n.waitsOk.getD k true) then s
      else
        match nestRead s n (n.rc.waita.getD k 0) 8 with
        | (none, s1) => withdrawNest s1 id true
        | (some v, s1) =>
          let pass := fun (_ : Unit) =>
            let ok := n.waitsOk.set k true
            putNest s1 id { n with waitsOk := ok, ageFrom := if ok.all (fun b => b) then now s else n.ageFrom }
          if bitOf n.rc.wstat k then
            if v / 2 ^ 61 == 1 || v / 2 ^ 61 == 2 then pass ()
            else if v / 2 ^ 61 == 3 then withdrawNest s1 id false
            else s1
          else if (n.rc.waitn.getD k 0).toNat ≤ v then pass ()
          else s1

/-- The event of a poll. -/
def execWaitWordPoll (w k : Nat) (st : State) : Out := live st (fun s => waitWordPoll s w k)

/-- Whether a nest ages: it waits for a walker that it needs, or holds a ready unit. -/
def ages (s : State) (id : Nat) (n : Nest) : Bool :=
  n.rc.age != 0 && n.eprio < 7 && ((n.walker.isNone && needsWalker s id n) || (n.open && !n.withdrawing && (nextUnit s id n).isSome))

/-- A nest's saved contexts that the host has answered for since it was looked at last: its next unit is ready from now on, so what the nest has
waited without one does not count; the time that it waits for a walker does (14 R309, 16 R346). -/
def latchReady (s : State) (id : Nat) : State :=
  match findNest s id, s.saved.find? (fun v => v.nest == id) with
  | some n, some v =>
    if (familySaved s v).any (fun u => u.hostWait) && (nextUnit s id n).isSome then
      let done := (familySaved s v).map (fun u => u.ctx)
      { putNest s id { n with ageFrom := if n.walker.isSome then now s else n.ageFrom } with
        saved := s.saved.map (fun (u : Saved) => if done.contains u.ctx then { u with hostWait := false } else u) }
    else s
  | _, _ => s

/-- AGEING_TICK (14 R309). -/
def ageingTick (st : State) (id : Nat) : State :=
  let s := latchReady st id
  match findNest s id with
  | none => s
  | some n =>
    if ages s id n && n.ageFrom + n.rc.age ≤ now s then
      putNest s id { n with eprio := n.eprio + 1, ageFrom := n.ageFrom + n.rc.age }
    else s

/-- The event of ageing. -/
def execAgeingTick (nest : Nat) (st : State) : Out := live st (fun s => ageingTick s nest)

/-! Completion (14 R315). -/

/-- Whether every iteration of a nest is accounted. -/
def nestDone (s : State) (id : Nat) (n : Nest) : Bool := n.walk.finished && !hasRunning s id && !hasSaved s id

/-- The nest id freed; nests that it submitted keep no submitter. -/
def freeNest (s : State) (id : Nat) : State :=
  { s with
    nests := (smErase s.nests id).map (fun (p : Nat × Nest) =>
      if p.2.submitter == id then (p.1, { p.2 with submitter := 0 }) else p) }

/-- NEST_STATUS_WRITE (14 R315). -/
def nestStatusWrite (s : State) (id : Nat) : State :=
  match findNest s id with
  | none => s
  | some n =>
    if !nestDone s id n then s
    else
      let s1 := writeStatus s n
      let s2 := if n.withdrawing then withdrawDependants s1 id n else s1
      settleAll (freeNest s2 id)

/-- The event of a status write. -/
def execNestStatusWrite (nest : Nat) (st : State) : Out := live st (fun s => nestStatusWrite s nest)

end Sys2Proof.Machine
end

