-- ==== Sys2Proof/Machine/Links.lean ====
section
/-! DEFINITION. What reaches the package at its edges through the fabric: event records and interrupts (16 R344), link ports (16 R347 to
R349), the buoy (10 R241), the scrub (04 R65, R66) and the write-backs of the LLC (04 R77, R78). -/

namespace Sys2Proof.Machine

/-! Functions, interrupts and event records (16 R341, R344). -/

/-- The number of a function: 0 for the physical one, i + 1 for virtual function i. -/
def fnIx (f : Fn) : Nat := match f with | .pf => 0 | .vf i => i.val + 1

/-- An MSI-X message of a vector raised at a function. -/
def raiseMsix (s : State) (f : Fn) (vec : Nat) : State :=
  { s with msix := smPut s.msix (4 * fnIx f + vec) (smGet 0 s.msix (4 * fnIx f + vec) + 1) }

/-- Before a new record n of a function overwrites an old one: nests that the host has answered for hold a ready unit from now on, and the saved
context whose record it is stays released if the host has set DONE. -/
def latchDone (st : State) (f : Fn) (n : Nat) : State :=
  let s := st.nests.foldl (fun s p => latchReady s p.1) st
  { s with saved := s.saved.map (fun (v : Saved) =>
      match v.hostRec with
      | some (g, m) => if g == f && m + 32 == n && doneSet s f m then { v with hostWait := false } else v
      | none => v) }

/-- A word of 8 bytes written by the device at the home LLC. -/
def homeWord (s : State) (key v : Nat) : State := homeWritten (writeNat s 0 key v 8) key false false

/-- EVENT_POST (16 R344): the oldest event of a function written as record PROD mod 32, PROD advanced, and vector 0 raised if the queue was
empty; with 32 records unread it waits. -/
def eventPost (s : State) (f : Fn) : State :=
  match s.events.find? (fun e => e.fn == f), reservedPage s f with
  | some e, some p =>
    let prod := memNat s (p + 0x40) 8
    let cons := memNat s (p + 0x48) 8
    if (prod + 2 ^ 64 - cons) % 2 ^ 64 = 32 then s
    else
      let s1 := latchDone { s with events := s.events.erase e } f prod
      let k := eventKey p prod
      let s2 := homeWord (homeWord (homeWord (homeWord s1 k e.kind) (k + 8) e.addr.toNat) (k + 16) e.tval.toNat) (k + 24) e.extra.toNat
      let s3 := homeWord s2 (p + 0x40) (prod + 1)
      let s4 : State := match e.ctx with
        | none => s3
        | some c => { s3 with saved := s3.saved.map (fun (v : Saved) => if v.ctx == c then { v with hostRec := some (f, prod) } else v) }
      if prod = cons then raiseMsix s4 f 0 else s4
  | _, _ => s

/-- The event of a posted record. -/
def execEventPost (fn : Fn) (st : State) : Out := live st (fun s => eventPost s fn)

/-! Link ports (16 R347 to R349). -/

/-- A change of a port's width, logged, posted as a record of kind 3 and raised as vector 2 (16 R348). -/
def noteLink (s : State) (q : Nat) : State :=
  let s1 := keeperLog s 3 (word (q + 256 * (getPort s q).lanes))
  raiseMsix (queueEvent s1
    { fn := .pf, kind := 3, addr := Config.reportAddress s.steps, tval := Config.reportAddress s.steps, extra := 0, ctx := none }) .pf 2

/-- Fields of a flit's bytes 7:0 (16 Table 16.4): the sequence number, the class, the last sequence received in the other direction, NAK, and
the credits returned for a class. -/
def headSeq (h : BitVec 64) : BitVec 12 := h.setWidth 12
def headCls (h : BitVec 64) : Nat := h.toNat / 2 ^ 12 % 16
def headAck (h : BitVec 64) : BitVec 12 := (h >>> 16).setWidth 12
def headNak (h : BitVec 64) : Bool := h.getLsbD 28
def headCred (h : BitVec 64) (cls : Nat) : Nat := h.toNat / 2 ^ (32 + 8 * cls) % 256

/-- Whether a flit is whole and its CRC holds. -/
def flitSound (f : Flit) : Bool := f.payload.length == 240 && crcOf f.head f.payload == f.crc

/-- Flits that an acknowledgement leaves: those after the acknowledged one. -/
def unackedAfter (fs : List SentFlit) (ack : BitVec 12) : List SentFlit :=
  if fs.any (fun f => headSeq f.head == ack) then (fs.dropWhile (fun f => headSeq f.head != ack)).drop 1 else fs

/-- The acknowledgement, NAK and credits of an accepted flit (16 Table 16.4); its own class has a credit to return. -/
def takeAck (p : Port) (f : Flit) : Port :=
  let rest := unackedAfter p.unacked (headAck f.head)
  { p with
    unacked := rest
    replays := if rest.length < p.unacked.length then 0 else p.replays
    resend := p.resend || headNak f.head
    cred := (List.range 4).map (fun c => p.cred.getD c 0 + headCred f.head c)
    owed := (List.range 4).map (fun c => p.owed.getD c 0 + (if c == headCls f.head then 1 else 0)) }

/-- An exchange changed for a remote member that has not left, if the slot holds one of that rank. -/
def withRemote (s : State) (slot sender : Nat) (f : XCtx → XMember → XCtx) : State :=
  match smFind s.xctx slot with
  | none => s
  | some c =>
    match c.members.find? (fun m => m.rank == sender && isRemote m.ctx && !m.left) with
    | none => s
    | some m => putX s slot (f c m)

/-- The same while the exchange is whole. -/
def whole (f : XCtx → XMember → XCtx) (c : XCtx) (m : XMember) : XCtx := if c.isPartial then c else f c m

/-- A record of another package's sender joins the flight to its receiver (10 R230, R240). -/
def remoteRecord (recv key : Nat) (elems : List (BitVec 36)) (flags : Flags) (psn : Bool) (c : XCtx) (m : XMember) : XCtx :=
  let d := c.setMember m.rank (fun k => { k with sent := k.sent + 1, trains := smPut k.trains recv (smGet 0 k.trains recv + 1) })
  { d with flight := d.flight ++ [{ sender := m.rank, recv := recv, key := key, no := m.sent, elems := elems, psn := psn, flags := flags }] }

/-- Whether the tails of a remote sender to every receiver of this package are here or have landed. -/
def tailsHere (c : XCtx) (sender : Nat) : Bool :=
  (c.members.filter (fun k => k.rank < c.nrecv && !isRemote k.ctx)).all (fun r =>
    c.tails.contains (sender, r.rank) || c.landed.contains (sender, r.rank))

/-- A remote member that has arrived at the Beacon has ended once its tails are here (10 R220, R221). -/
def noteEnded (c : XCtx) (sender : Nat) : XCtx :=
  c.setMember sender (fun k => { k with ended := k.arrived && tailsHere c sender })

/-- A tail of another package's sender (10 R221). -/
def remoteTail (recv : Nat) (c : XCtx) (m : XMember) : XCtx :=
  noteEnded { c with tails := if c.tails.contains (m.rank, recv) then c.tails else c.tails ++ [(m.rank, recv)] } m.rank

/-- The arrival of a remote member at the Beacon, with its splitters and its part of HIST (10 R220, R226, R238). -/
def remoteBeacon (splits : List Nat) (counts : List (Nat × Nat)) (c : XCtx) (m : XMember) : XCtx :=
  let d := c.setMember m.rank (fun k => { k with arrived := true, split := if splits.isEmpty then k.split else some splits })
  noteEnded { d with hist := counts.foldl (fun h p => smPut h p.1 (smGet 0 h p.1 + p.2)) d.hist } m.rank

/-- An exchange changed, if the slot holds one that is whole. -/
def withWhole (s : State) (slot : Nat) (f : XCtx → XCtx) : State :=
  match smFind s.xctx slot with
  | some c => if c.isPartial then s else putX s slot (f c)
  | none => s

/-- Where an offset of this package's memory windows leads, unless a stack is fenced or the byte is protected. -/
def windowTarget (s : State) (offset n : Nat) : Option Nat :=
  match windowKey offset with
  | none => none
  | some key =>
    if s.boot.fenced.getLsbD (stackOfKey key) || (protectionRange s 0 key n).isSome then none else some key

/-- The arrival of a hart of another package at a rendezvous. -/
def remoteArrival (pkg hart : Nat) (desc : List (BitVec 8)) (splits : List Nat) (room : Bool) (held : Nat) : Arrival :=
  { ctx := remoteCtx pkg hart, pkg := pkg, hart := hart % 4096, desc := desc, user := false, root := 0, pages := [],
    splits := splits, room := room, held := held }

/-- A remote arrival joins a gathering of its tag, once. -/
def joinRemote (full : Gathering → Bool) (a : Arrival) (gs : List Gathering) : List Gathering :=
  if gs.any (fun g => g.arrivals.any (fun b => b.ctx == a.ctx)) then gs
  else joinGathering full (BitVec.ofNat 32 (fieldAt a.desc 0 4)) a gs

/-- A remote member of a Lens state, if the slot holds one of that rank that has not left. -/
def remoteLens (s : State) (slot rank : Nat) : Option (LensState × LMember) :=
  (smFind s.lens slot).bind (fun l =>
    (l.members.find? (fun m => m.rank == rank && isRemote m.ctx && !m.left)).map (fun m => (l, m)))

/-- A collective command of a remote member noted for the meeting (11 R248); issued after a member has left, it fails the state (R245). -/
def remoteIssue (s : State) (slot rank : Nat) (i : LensIssue) : State :=
  match remoteLens s slot rank with
  | none => s
  | some (l, _) =>
    putL s slot { l with failed := l.failed || l.members.any (fun m => m.left), members := l.members.map (fun m => if m.rank == rank then { m with issued := m.issued ++ [i] } else m) }

/-- A chunk of a copy of another package. -/
def remoteChunk (s : State) (offset : Nat) (bytes : List (BitVec 8)) (poisoned : Bool) : State :=
  match windowTarget s offset bytes.length with
  | none => s
  | some key =>
    let s1 := writeAll s (2 ^ 58 + s.steps) ((List.zip (List.range bytes.length) bytes).map (fun p =>
      { key := key + p.1, mask := 0xFF, val := p.2 }))
    homeWritten (if poisoned then poisonChunk s1 key else s1) key false false

/-- An atomic of another package, at the home LLC. -/
def remoteAtomic (s : State) (offset op n : Nat) (operand compare : Word) : State :=
  match windowTarget s offset n with
  | none => s
  | some key =>
    if isPoisoned s key || 9 < op then s
    else
      match atomicNew op (8 * n) (memNat s key n) (operand.toNat % 2 ^ (8 * n)) (compare.toNat % 2 ^ (8 * n)) with
      | some v => homeWritten (writeNat s 0 key v n) key false true
      | none => s

/-- A completed record performed at this package (16 R347; log entry 51). -/
def performRecord (s : State) (r : LinkRecord) : State :=
  match r with
  | .exchange slot sender recv key elems flags psn => withRemote s slot sender (whole (remoteRecord recv key elems flags psn))
  | .tail slot sender recv _ => withRemote s slot sender (whole (remoteTail recv))
  | .copyChunk offset bytes poisoned => remoteChunk s offset bytes poisoned
  | .atomic offset op wide operand compare => remoteAtomic s offset op.toNat (if wide then 8 else 4) operand compare
  | .time ns => { s with time := ns }
  | .landed slot sender recv => withWhole s slot (fun c => c.land sender recv)
  | .unposted slot senders => withWhole s slot (fun c => dropUnposted c senders)
  | .arrive lens pkg hart desc splits room held =>
    let a := remoteArrival pkg hart desc splits room held
    if lens then { s with qgather := joinRemote qFull a s.qgather } else { s with xgather := joinRemote xFull a s.xgather }
  | .recall pkg hart =>
    let ctx := remoteCtx pkg hart
    { s with xgather := withdrawArrivals s.xgather ctx, qgather := withdrawArrivals s.qgather ctx }
  | .beacon slot sender splits counts => withRemote s slot sender (whole (remoteBeacon splits counts))
  | .samples slot pkg stack keys => withWhole s slot (fun c => { c with samples := smPut c.samples (8 * pkg + stack) (keys.take 1024) })
  | .resplit slot splits => withWhole s slot (fun c => { c with pendHw := some splits })
  | .leave slot sender => freeDeserted (withRemote s slot sender (fun c m => leaveX c m.rank true))
  | .withdraw slot sender => freeDeserted (withRemote s slot sender (fun c m => closePartly c m.ctx))
  | .lensIssue slot rank fn record matrix s0 s1 bad0 bad1 =>
    remoteIssue s slot rank { fn := fn, record := record, matrix := matrix, s0 := s0, s1 := s1, bad0 := bad0, bad1 := bad1 }
  | .lensAmps slot amps =>
    (match smFind s.lens slot with
     | some l => putL s slot { l with inbox := l.inbox ++ amps }
     | none => s)
  | .lensLeave slot rank failed =>
    (match remoteLens s slot rank with
     | some (_, m) => leaveLens s m.ctx failed
     | none => s)

/-- LINK_FLIT_RECEIVE (16 R347): a flit in sequence whose CRC holds is accepted, and its completed records are performed; any other is
discarded, and a NAK goes out. -/
def linkFlitReceive (s : State) (q : Nat) (f : Flit) : State :=
  let p := getPort s q
  if p.lanes = 0 || p.training.isSome then s
  else if !flitSound f || headSeq f.head != p.rxLast + 1 then putPort s q { p with nakOut := true }
  else
    let p1 := takeAck { p with rxLast := headSeq f.head, toAck := p.toAck + 1, nakOut := false } f
    f.records.foldl performRecord (putPort s q p1)

/-- The event of a flit. -/
def execLinkFlitReceive (port : Nat) (f : Flit) (st : State) : Out := live st (fun s => linkFlitReceive s port f)

/-- The port with the flits that records have begun to fill sent as they are, unless 512 might then be unacknowledged; that of a copy waits
for the copy (16 R347). -/
def flushRecords (n : Nat) (p : Port) : Port := if 509 < p.unacked.length then p else [0, 2, 3].foldl (portFlush n) p

/-- LINK_ACK (16 R347): the acknowledgement of every accepted flit, or the NAK, goes out with the credits that are owed, in the flits that
records have begun to fill, if there are any. -/
def linkAck (s : State) (q : Nat) : State :=
  let p := getPort s q
  if p.lanes = 0 || p.training.isSome then s
  else
    let p1 := flushRecords s.steps p
    putPort s q (if p1.txSeq != p.txSeq then p1 else { p with toAck := 0, nakOut := false, owed := p.owed.map (fun n => n - 255) })

/-- The event of an acknowledgement. -/
def execLinkAck (port : Nat) (st : State) : Out := live st (fun s => linkAck s port)

/-- The context's head command of the copy engine stopped with reason 2 at a destination byte that has been lost (05 R123). -/
def stopCopyOf (s : State) (ctx byte : Nat) : State :=
  let w : Holder := match hartOfCtx s ctx with | some h => .hart h | none => .saved ctx
  let g := getEng s w
  match g.copyQ with
  | [] => s
  | c :: q =>
    if c.byte ≤ byte then s
    else
      let t : Trap := { cause := .storepf, tval := addInt c.daddr (copyOffset c.cnt c.dstep byte), tval2 := 2 }
      putCpyerr (putEng s w { g with copyQ := { c with byte := byte, fault := some t } :: q }) w (cpyerrOf true t byte)

/-- A lost atomic of a context (16 R349): its hart raises STOREPF with reason 2, behind what it has done (its effect at the home is not told;
log entry 51); a saved context raises it when it runs again. -/
def loseAtomic (s : State) (ctx : Nat) (va : Word) : State :=
  match hartOfCtx s ctx with
  | some h => let x := getHart s h; raiseLost (putHart s h { x with lostAtoms := x.lostAtoms.add va }) h
  | none => { s with saved := s.saved.map (fun (v : Saved) => if v.ctx == ctx then { v with lostAtoms := v.lostAtoms.add va } else v) }

/-- A request of a lost flit ends with an error (16 R349): a copy stops with reason 2, an atomic raises STOREPF at its hart, records are
counted as unreachable, a train's end counts as landed, and a Lens state fails. -/
def loseSent (s : State) (f : FlitFor) : State :=
  match f with
  | .copy ctx byte => stopCopyOf s ctx byte
  | .atomic ctx va => loseAtomic s ctx va
  | .answer _ _ => s
  | .records slot senders _ _ =>
    (match smFind s.xctx slot with
     | some c => putX s slot (loseRecords c senders)
     | none => s)
  | .tail slot sender recv => withWhole s slot (fun c => c.land sender recv)
  | .swap slot =>
    (match smFind s.lens slot with
     | some l => putL s slot { l with failed := true }
     | none => s)

/-- A port goes down (16 R348, R349). -/
def portDown (s : State) (q : Nat) : State :=
  let p := getPort s q
  let s1 := putPort s q
    { p with lanes := 0, training := none, since := now s, unacked := [], filling := [], replays := 0, resend := false }
  noteLink (p.unsure.foldl loseSent s1) q

/-- Whether a pair of lanes holds a lost lane: pair A is lanes 0 and 1, pair B lanes 2 and 3. -/
def pairLost (lost : BitVec 4) (b : Bool) : Bool := if b then (lost &&& 0xC#4) != 0 else (lost &&& 3#4) != 0

/-- The pair that a degraded port runs on: A when it is sound (16 Table 16.5). -/
def pairUsed (lost : BitVec 4) : Bool := pairLost lost false

/-- Eight replays of one flit: at 4 lanes the port retrains on one pair, at 2 it goes down (16 Table 16.5). -/
def tooManyReplays (s : State) (q : Nat) : State :=
  let p := getPort s q
  if p.replays < 8 || p.lanes = 0 || p.training.isSome then s
  else if p.lanes = 2 then portDown s q
  else putPort s q { p with training := some 2 }

/-- LINK_NAK_REPLAY (16 R347, R348): the flits that are not acknowledged are sent again. -/
def linkNakReplay (s : State) (q : Nat) : State :=
  let p := getPort s q
  if p.lanes = 0 || p.training.isSome || !p.resend then s
  else tooManyReplays (putPort s q { p with resend := false, replays := p.replays + 1 }) q

/-- The event of a replay. -/
def execLinkNakReplay (port : Nat) (st : State) : Out := live st (fun s => linkNakReplay s port)

/-- A lane lost at a port that trains from down: the training starts again, at 2 lanes. -/
def retrainDown (p : Port) : Port := { p with training := p.training.map (fun _ => 2) }

/-- LINK_LANE_LOSS (16 R348, Table 16.5); during a retraining it starts again under the same table (R349). -/
def linkLaneLoss (s : State) (q : Nat) (l : LaneLoss) : State :=
  match l with
  | .replays => tooManyReplays s q
  | .lane n =>
    let p := getPort s q
    let lost := p.lost ||| (1#4 <<< n.val)
    let hit := p.lanes = 2 && ((1#4 <<< n.val) &&& (if pairUsed p.lost then 0xC#4 else 3#4)) != 0
    let p1 := { p with lost := lost }
    let s1 := keeperLog (putPort s q p1) 3 (word (q + 65536 * (n.val + 1)))
    if p.lanes = 0 then putPort s1 q (retrainDown p1)
    else if hit || (pairLost lost false && pairLost lost true) then portDown s1 q
    else if p.lanes = 2 && p.training != some 4 then s1
    else putPort s1 q { p1 with training := some 2 }

/-- The event of a lane loss. -/
def execLinkLaneLoss (port : Nat) (loss : LaneLoss) (st : State) : Out := live st (fun s => linkLaneLoss s port loss)

/-- The lanes that count as lost once a training has succeeded: none at 4 lanes; at 2 lanes, where both pairs held a lost lane, pair A is the one
that has trained (DESIGN CHOICE, log entry 102). -/
def lostAfter (lost : BitVec 4) (lanes : Nat) : BitVec 4 :=
  if lanes = 4 then 0 else if pairLost lost false && pairLost lost true then lost &&& 0xC#4 else lost

/-- LINK_RETRAIN_DONE (16 R348): with a package at its other end (01 R10) the port resumes at the width trained, replaying what is not
acknowledged; a failure at 4 lanes leaves a degraded port at 2, and a port that was down tries 2 lanes next. -/
def linkRetrainDone (s : State) (q : Nat) (ok : Bool) : State :=
  let p := getPort s q
  match p.training with
  | none => s
  | some t =>
    if ok && portJoined s q then
      let s1 := putPort s q { p with
        lanes := t, training := none, replays := 0, resend := false, since := now s, lost := lostAfter p.lost t }
      if p.lanes = t then s1 else noteLink s1 q
    else if t = 4 && p.lanes = 2 then putPort s q { p with training := none, since := now s }
    else if p.lanes = 0 then putPort s q { p with training := if t = 4 then some 2 else none, since := now s }
    else portDown s q

/-- The event of a finished retraining. -/
def execLinkRetrainDone (port : Nat) (ok : Bool) (st : State) : Out := live st (fun s => linkRetrainDone s port ok)

/-- LINK_RECOVERY_TIMER (16 Table 16.5): after 10 s degraded or down with LNK = 0, a training at 4 lanes is attempted. -/
def linkRecoveryTimer (s : State) (q : Nat) : State :=
  let p := getPort s q
  if s.hostmode.getLsbD 2 || p.lanes = 4 || p.training.isSome || !portJoined s q || now s < p.since + 10 ^ 10 then s
  else putPort s q { p with training := some 4 }

/-- The event of the timer. -/
def execLinkRecoveryTimer (port : Nat) (st : State) : Out := live st (fun s => linkRecoveryTimer s port)

/-! The buoy (10 R241). -/

/-- The number of a queue of the span. -/
def queueNo (q : QueueId) : Nat := q.pkg * 2 ^ 14 + q.num % 2 ^ 14

/-- A token of a queue. -/
def tokenOf (q : QueueId) (hops : Nat) (seq : BitVec 16) : BitVec 64 :=
  BitVec.ofNat 64 (q.pkg % 1024 * 2 ^ 54 + q.num % 2 ^ 14 * 2 ^ 40 + hops % 256 * 2 ^ 32 + seq.toNat * 2 ^ 16)

/-- The origin of a token as a queue number. -/
def tokenOrigin (t : BitVec 64) : Nat := t.toNat / 2 ^ 40

/-- The hop count of a token. -/
def tokenHops (t : BitVec 64) : Nat := t.toNat / 2 ^ 32 % 256

/-- The sequence number of a token. -/
def tokenSeq (t : BitVec 64) : BitVec 16 := BitVec.ofNat 16 (t.toNat / 2 ^ 16)

/-- The buoy's state at a queue. -/
def getBuoy (s : State) (q : QueueId) : Buoy := smGet Buoy.reset s.buoys (queueNo q)

/-- The state with the buoy of a queue changed. -/
def putBuoy (s : State) (q : QueueId) (b : Buoy) : State := { s with buoys := smPut s.buoys (queueNo q) b }

/-- BUOY_PROBE (10 R241): a new token, with the next sequence number, goes to the queue that this one waits for; an older one no longer
counts. -/
def buoyProbe (s : State) (q w : QueueId) : State :=
  let b := getBuoy s q
  let s1 := putBuoy s q { b with seq := b.seq + 1, out := true }
  { s1 with tokens := s1.tokens.filter (fun t => tokenOrigin t.2 != queueNo q) ++ [(w, tokenOf q 0 b.seq)] }

/-- The event of a probe. -/
def execBuoyProbe (q : QueueId) (waitsFor : QueueId) (st : State) : Out := live st (fun s => buoyProbe s q waitsFor)

/-- BUOY_TOKEN_ARRIVE (10 R241): a queue that is not blocked discards the token; back at its origin it grants one entry of the reserve
buffer; otherwise it goes on with one more hop, up to 254. -/
def buoyTokenArrive (s : State) (q : QueueId) (t : BitVec 64) (w : Option QueueId) : State :=
  let s1 := { s with tokens := s.tokens.erase (q, t) }
  let b := getBuoy s q
  let own := tokenOrigin t == queueNo q
  let mine := own && b.out && tokenSeq t + 1 == b.seq
  match w with
  | none => if mine then putBuoy s1 q { b with out := false } else s1
  | some next =>
    if own then
      if mine then keeperLog (putBuoy s1 q { b with out := false, grants := b.grants + 1 }) 4 t else s1
    else if 255 ≤ tokenHops t + 1 then s1
    else { s1 with tokens := s1.tokens ++ [(next, t + BitVec.ofNat 64 (2 ^ 32))] }

/-- The event of an arriving token. -/
def execBuoyTokenArrive (q : QueueId) (token : BitVec 64) (waitsFor : Option QueueId) (st : State) : Out :=
  live st (fun s => buoyTokenArrive s q token waitsFor)

/-! Checks of stored data (04 R65, R66, R82, 15 R333, 16 Table 16.8) and the write-backs of the LLC (04 R77, R78). -/

/-- A check of the bytes at a key: a correction is logged; what cannot be corrected is poisoned and logged, and what is poisoned already is only
logged. -/
def checkBytes (s : State) (key : Nat) (r : ScrubResult) : State :=
  let pa := word (paOfKey key)
  match r with
  | .clean => s
  | .corrected => keeperLog s 1 pa
  | .dieReport => keeperLog s 1 pa
  | .uncorrectable => if isPoisoned s key then keeperLog s 2 pa else uncorrectable (poisonChunk s key) pa

/-- PSN set on some containers of a register line. -/
def poisonConts (x : Hart) (line c0 n : Nat) : Hart :=
  (List.range n).foldl (fun y i =>
    let v := line / 4
    let c := 128 * (line % 4) + c0 + i
    let old := y.getC v c
    y.setC v c (mkC true (cTail old) (cData old))) x

/-- A check of word k of a resident register line (15 R333): an error in a word of data poisons its two containers, one in a word of nibbles its
sixteen. The record names hart, line and word (log entry 101). -/
def checkLine (s : State) (h line k : Nat) (r : ScrubResult) : State :=
  let x := getHart s h
  let at' := word (h * 2 ^ 16 + line * 2 ^ 7 + k)
  match x.line line, r with
  | .resident .., .corrected => keeperLog s 1 at'
  | .resident .., .uncorrectable =>
    uncorrectable (putHart s h (if k < 64 then poisonConts x line (2 * k) 2 else poisonConts x line (16 * (k - 64)) 16)) at'
  | _, _ => s

/-- A switch buffer that holds a record fails (16 Table 16.8): the record goes on with its poison. -/
def checkRecord (s : State) (slot sender recv no : Nat) (r : ScrubResult) : State :=
  match smFind s.xctx slot, r with
  | some c, .uncorrectable =>
    let hit := fun (q : XRecord) => q.sender == sender && q.recv == recv && q.no == no
    if c.flight.any hit then
      uncorrectable (putX s slot { c with flight := c.flight.map (fun q => if hit q then { q with psn := true } else q) }) (word slot)
    else s
  | _, _ => s

/-- Whether a line of HBM is held in an L2 or in the LLC. -/
def Caches.holds (c : Caches) (line : Nat) : Bool := (smFind c.llc line).isSome || c.l2.any (fun p => (smFind p.2 line).isSome)

/-- PATROL_SCRUB (04 R65, R66), and every other check of stored data (16 Table 16.8): what it finds. -/
def patrolScrub (s : State) (w : CheckedWord) (r : ScrubResult) : State :=
  match w with
  | .chunk n => if !isHbm (32 * n) || s.boot.fenced.getLsbD (stackOfKey (32 * n)) then s else checkBytes s (32 * n) r
  | .pool core n => if scratchBytes s core ≤ 8 * n then s else checkBytes s (scrKey core (8 * n)) r
  | .cached n => if isHbm (8 * n) && s.caches.holds (8 * n / 512) then checkBytes s (8 * n) r else s
  | .line h line k => if 72 ≤ k then s else checkLine s h line k r
  | .record slot sender recv no => checkRecord s slot sender recv no r

/-- The event of a check. -/
def execPatrolScrub (w : CheckedWord) (r : ScrubResult) (st : State) : Out := live st (fun s => patrolScrub s w r)

/-- LLC_WRITE_BACK (04 R77, R78): a dirty line of 512 bytes written back. -/
def llcWriteBack (s : State) (line : Nat) : State := { s with caches := s.caches.llcWriteBack (llcClock s) line }

/-- The event of a write-back: a line of a stack, by its number there. -/
def execLlcWriteBack (stack : Nat) (line : Nat) (st : State) : Out := live st (fun s => llcWriteBack s (hbmKey stack (512 * line) / 512))

end Sys2Proof.Machine
end

