-- ==== Sys2Proof/Machine/HostPort.lean ====
section
/-! DEFINITION. The host port (16 R341 to R346): the BARs, host atomics, invalidations, HOSTMODE, and the request slots that the
dispatchers or the Keeper serve (14 R320). -/

namespace Sys2Proof.Machine

/-! Registers that the host sees. -/

/-- A function of a mailbox page: the functions by number, then the out-of-band page (16 R351, R354). -/
def mailIx (p : MailPort) : Nat := match p with | .fn f => fnIx f | .oob => 9

/-- The key of a byte of a mailbox page. -/
def mailKey (p : MailPort) (off : Nat) : Nat := mailIx p * 4096 + off % 4096

/-- A byte of a mailbox page. -/
def mailByte (s : State) (p : MailPort) (off : Nat) : Byte := smGet 0 s.mbox (mailKey p off)

/-- Writes a byte of a mailbox page. -/
def mailPut (s : State) (p : MailPort) (off : Nat) (b : Byte) : State := { s with mbox := smSet 0 s.mbox (mailKey p off) b }

/-- Bytes written from an offset of a mailbox page on. -/
def mailPutAll (s : State) (p : MailPort) (off : Nat) (bs : List Byte) : State :=
  (List.zip (List.range bs.length) bs).foldl (fun s b => mailPut s p (off + b.1) b.2) s

/-- The low n bytes of a number, least first. -/
def bytesOf (v : Nat) : Nat → List Byte
  | 0 => []
  | n + 1 => BitVec.ofNat 8 v :: bytesOf (v / 256) n

/-- A number of n bytes of a mailbox page. -/
def mailNat (s : State) (p : MailPort) (off n : Nat) : Nat := fieldAt ((List.range n).map (fun i => mailByte s p (off + i))) 0 n

/-! Commands that wait at a mailbox (16 R351, R354). -/

/-- The commands that wait at a mailbox, in the order of their CMD writes. -/
def mailQueue (s : State) (p : MailPort) : List MailReq := smGet [] s.keeper.mailQ (mailIx p)

/-- The state with the commands that wait at a mailbox changed. -/
def putMailQueue (s : State) (p : MailPort) (q : List MailReq) : State :=
  { s with keeper := { s.keeper with mailQ := smSet [] s.keeper.mailQ (mailIx p) q } }

/-- The code of a command, and its sequence number. -/
def MailReq.code (e : MailReq) : Nat := e.cmd.toNat % 256
def MailReq.seq (e : MailReq) : Nat := e.cmd.toNat / 256

/-- Argument k of a command. -/
def MailReq.arg (e : MailReq) (k : Nat) : Nat := fieldAt e.args (8 * k) 8

/-- The STAT with which a mailbox refuses a command: 2 where R351 and R354 say so; for one that Table 16.6 does not list, a free error code
(log entry 9). -/
def mailRefusal (p : MailPort) (code : Nat) : Option Nat :=
  let listed := 1 ≤ code && code ≤ 9
  let other := (Config.unlistedStat code ||| 1).toNat
  match p with
  | .fn (.vf _) => if (1 ≤ code && code ≤ 3) || code == 9 then none else some 2
  | .oob => if code == 2 || code == 4 then some 2 else if listed then none else some other
  | .fn .pf => if listed then none else some other

/-- The first command of a mailbox ended: STAT, then RSEQ, then vector 1 or the in-band interrupt. -/
def mailFinish (s : State) (p : MailPort) (e : MailReq) (stat : Nat) : State :=
  let s1 := mailPutAll (mailPutAll s p 64 (bytesOf stat 8)) p 72 (bytesOf e.seq 8)
  let s2 := putMailQueue s1 p ((mailQueue s1 p).drop 1)
  match p with
  | .fn f => raiseMsix s2 f 1
  | .oob => { s2 with keeper := { s2.keeper with i3cIbi := true } }

/-- Commands at the head of a mailbox that it refuses end at once. -/
def mailSettleAux (p : MailPort) : List MailReq → State → State
  | [], s => s
  | e :: es, s =>
    match mailRefusal p e.code with
    | some stat => mailSettleAux p es (mailFinish s p e stat)
    | none => s

def mailSettle (s : State) (p : MailPort) : State := mailSettleAux p (mailQueue s p) s

/-- A write of CMD: the command waits behind those before it (16 R351). -/
def mailEnter (s : State) (p : MailPort) : State :=
  let at' := fun off n => (List.range n).map (fun i => mailByte s p (off + i))
  let e : MailReq := { cmd := word (mailNat s p 0 8), args := at' 8 32 ++ at' 256 16 }
  mailSettle (putMailQueue s p (mailQueue s p ++ [e])) p

/-- Stack domains in service. -/
def stacksServed (s : State) : Nat := ((List.range 8).filter (fun i => !s.boot.fenced.getLsbD i)).length

/-- DEVID (16 Table 16.2). -/
def devid (s : State) : Nat := 0x7260 + Config.stepping.toNat * 2 ^ 16 + stacksServed s * 2 ^ 24

/-- The boot record as bytes (16 R358): the entry of step k at offset 8 × (k − 1). -/
def bootByte (s : State) (off : Nat) : Byte :=
  BitVec.ofNat 8 ((smGet (0 : Word) s.boot.record (off / 8 + 1)).toNat / 256 ^ (off % 8))

/-! BAR0 and BAR2 (16 R342, Table 16.1, Table 16.2). -/

/-- What a byte of a BAR reaches. -/
inductive BarPlace where
  | mem (key : Nat)
  | mail (p : MailPort) (off : Nat)
  | devid (i : Nat)
  | hostmode (i : Nat) (hidden : Bool)
  | record (off : Nat)
  | open (off : Nat)
  | unsupported
  deriving DecidableEq, Repr

/-- A place among the first 64 KiB of a function's BAR0; hidden: a virtual function's view. -/
def bar0Local (s : State) (f : Fn) (off : Nat) : BarPlace :=
  if off < 8 then .devid off
  else if 0x1000 ≤ off && off < 0x1008 then .hostmode (off - 0x1000) (f != .pf)
  else if 0x2000 ≤ off && off < 0x3000 then
    match reservedPage s f with
    | some p => .mem (p + (off - 0x2000))
    | none => .unsupported
  else if 0x4000 ≤ off && off < 0x5000 then .mail (.fn f) (off - 0x4000)
  else .open off

/-- A place in a function's BAR0. -/
def bar0Place (s : State) (f : Fn) (off : Nat) : BarPlace :=
  if off < 0x10000 then bar0Local s f off
  else if f != .pf then .unsupported
  else if 0x100000 ≤ off && off < 0x100100 then .record (off - 0x100000)
  else if 0x200000 ≤ off && off < 0x280000 then
    bar0Local s (.vf ⟨(off - 0x200000) / 0x10000 % 8, Nat.mod_lt _ (by decide)⟩) (off % 0x10000)
  else if off < 0x1000000 then .open off
  else .unsupported

/-- A byte of HBM that BAR2 reaches, unless its stack is fenced. -/
def servedKey (s : State) (k : Option Nat) : BarPlace :=
  match k with
  | some key => if s.boot.fenced.getLsbD (stackOfKey key) then .unsupported else .mem key
  | none => .unsupported

/-- A place in a function's BAR2: the interleaved window, or the stack-local window of a virtual function's stack. -/
def bar2Place (s : State) (f : Fn) (off : Nat) : BarPlace :=
  match f with
  | .pf => servedKey s (if off < 0x6000000000 then windowKey off else none)
  | .vf i => servedKey s (if off < 0xC00000000 then some (hbmKey i.val off) else none)

/-- The place of a byte of a request. -/
def barPlace (s : State) (f : Fn) (bar2 : Bool) (off : Nat) : BarPlace :=
  if bar2 then bar2Place s f off else bar0Place s f off

/-- The physical address of a request's first byte, for a record about it (16 R344): of HBM behind the BARs; a register has none (log entry 130). -/
def barAddress (s : State) (f : Fn) (bar2 : Bool) (off : Nat) : Word :=
  let key := match bar2, f with
    | true, .pf => if off < 0x6000000000 then windowKey off else none
    | true, .vf i => if off < 0xC00000000 then some (hbmKey i.val off) else none
    | false, _ => match bar0Place s f off with | .mem key => some key | _ => none
  match key with
  | some k => word (paOfKey k)
  | none => Config.reportAddress s.steps

/-- The byte that a place reads. -/
def placeRead (s : State) (p : BarPlace) : Byte :=
  match p with
  | .mem key => memByte s key
  | .mail p off => mailByte s p off
  | .devid i => BitVec.ofNat 8 (devid s / 256 ^ i)
  | .hostmode i hidden => if hidden then 0 else BitVec.ofNat 8 (s.hostmode.toNat / 256 ^ i)
  | .record off => bootByte s off
  | .open off => Config.barByte off
  | .unsupported => 0

/-- HOSTMODE written (16 R345, Table 16.3); bits 63:5 read 0. -/
def hostmodeWrite (s : State) (v : Word) : State := { s with hostmode := v &&& 31 }

/-- A byte written at a place that is no memory; read-only places discard it. -/
def placeWrite (s : State) (p : BarPlace) (b : Byte) : State :=
  match p with
  | .mail p off => mailPut s p off b
  | .hostmode i false =>
    let old := s.hostmode.toNat
    hostmodeWrite s (word (old - old / 256 ^ i % 256 * 256 ^ i + b.toNat * 256 ^ i))
  | _ => s

/-- The bytes of memory that a write reaches. -/
def memWrites (ps : List BarPlace) (bs : List Byte) : List MaskedByte :=
  (List.zip ps bs).filterMap (fun p => match p.1 with | .mem key => some { key := key, mask := 0xFF, val := p.2 } | _ => none)

/-- Whether the host port refuses a write at a place: nothing is there, or the byte is protected (06 R132, 10 R235, 11 R247). -/
def placeRefused (s : State) (p : BarPlace) : Bool :=
  match p with
  | .mem key => (protection s 0 key).isSome
  | .unsupported => true
  | _ => false

/-- A host write (16 R342): refused as a whole it is discarded and logged; bytes of memory are one write at the home LLC, and a write of CMD
gives its mailbox a command. -/
def hostWrite (s : State) (ps : List BarPlace) (bs : List Byte) (pa : Word) : State :=
  if ps.any (placeRefused s) then uncorrectable s pa
  else
    let mem := memWrites ps bs
    let s1 := (chunkKeys mem).foldl (fun s k => homeWritten s k false false) (writeAll s (2 ^ 57 + s.steps) mem)
    let s2 := (List.zip ps bs).foldl (fun s p => placeWrite s p.1 p.2) s1
    match ps.findSome? (fun p => match p with | .mail q off => if off < 8 then some q else none | _ => none) with
    | some q => mailEnter s2 q
    | none => s2

/-- A host request that fails: it is completed with an error, so that a read returns no byte, and logged (16 R342, R360). -/
def hostFails (s : State) (pa : Word) : State := { uncorrectable s pa with barRead := [] }

/-- A host read (16 R342): its bytes, through the LLC, or a failure where the request is unsupported or meets poison. -/
def hostRead (s : State) (ps : List BarPlace) (pa : Word) : State :=
  if ps.any (fun p => match p with | .mem key => isPoisoned s key | .unsupported => true | _ => false) then hostFails s pa
  else
    let keys := ps.filterMap (fun p => match p with | .mem key => some ({ key := key, mask := 0xFF, val := 0 } : MaskedByte) | _ => none)
    { (chunkKeys keys).foldl (fun s k => homeRead s false k) s with barRead := ps.map (placeRead s) }

/-- HOST_BAR_ACCESS (16 R342), while the host port is up: a read leaves its bytes in barRead; a request that fails under PCIe (R360) does
nothing else. -/
def hostBarAccess (s : State) (f : Fn) (r : BarReq) : State :=
  let n := match r.write with | some bs => bs.length | none => r.len
  let ps := (List.range n).map (fun i => barPlace s f r.bar (r.offset + i))
  let pa := barAddress s f r.bar r.offset
  if !s.boot.hostUp then s
  else if r.failed then hostFails s pa
  else match r.write with
  | none => hostRead s ps pa
  | some bs => hostWrite s ps bs pa

/-- The event of a host access. -/
def execHostBarAccess (fn : Fn) (req : BarReq) (st : State) : Out := live st (fun s => hostBarAccess s fn req)

/-- The operation of a host AtomicOp (16 R341, 05 R92). -/
def hostOpCode (o : HostOp) : Nat := match o with | .fetchAdd => 0 | .swap => 8 | .cas => 9

/-- HOST_ATOMICOP (16 R341): performed at the home LLC; the old value is read, nothing where the request is refused or meets poison. -/
def hostAtomicop (s : State) (f : Fn) (r : HostAtomic) : State :=
  let n := if r.wide then 8 else 4
  if !s.boot.hostUp then s
  else match bar2Place s f r.offset with
  | .mem key =>
    if r.failed || r.offset % n != 0 || isPoisoned s key || (protectionRange s 0 key n).isSome then hostFails s (barAddress s f true r.offset)
    else
      let old := memNat s key n
      let s1 := match atomicNew (hostOpCode r.op) (8 * n) old (r.operand.toNat % 2 ^ (8 * n)) (r.compare.toNat % 2 ^ (8 * n)) with
        | some v => homeWritten (writeNat s 0 key v n) key false true
        | none => s
      { s1 with barRead := bytesOf old n }
  | _ => hostFails s (barAddress s f true r.offset)

/-- The event of a host AtomicOp. -/
def execHostAtomicop (fn : Fn) (req : HostAtomic) (st : State) : Out := live st (fun s => hostAtomicop s fn req)

/-- ATS_INVALIDATE (16 R341): pages of the host leave the translation cache, and the host answers for them as it says from now on. -/
def execAtsInvalidate (range : HostRange) (right : Option Bool) (st : State) : Out :=
  live st (fun s => { s with
    ats := s.ats.filter (fun e => e.page < range.page || range.page + range.pages ≤ e.page)
    rights := { page := range.page, pages := range.pages, right := right } :: s.rights })

/-- HOSTMODE_WRITE (16 R345). -/
def execHostmodeWrite (v : BitVec 64) (st : State) : Out := live st (fun s => if s.boot.hostUp then hostmodeWrite s v else s)

/-! Request slots (14 R320, 16 R346). -/

/-- Every live nest that belongs to a function withdrawn (14 R317). -/
def withdrawFn (s : State) (f : Fn) : State :=
  ((s.nests.filter (fun p => p.2.fn == some f && !p.2.dispatch)).map (fun p => p.1)).foldl (fun s id => withdrawNest s id false) s

/-- The result of a request that traps. -/
def trapResult (t : Trap) : Word := word (2 ^ 63 + t.cause.code * 2 ^ 32 + t.tval2.toNat % 2 ^ 32)

/-- A request performed for a function (14 R320): its result. -/
def dispatchRequest (s : State) (u : Submitter) (f : Fn) (op : Nat) (arg : Word) : Word × State :=
  match op with
  | 1 => (match submitNest s u arg with
      | .ok r => r
      | .error e => (trapResult e.trap, e.state))
  | 2 => (0, withdrawNest s arg.toNat false)
  | 3 => (nestStatus s arg, s)
  | 4 => (0, withdrawFn s f)
  | _ => (word (2 ^ 63 + 2 * 2 ^ 32), s)

/-- A dispatcher's hart as a submitter: nests that it submits belong to its function. -/
def dispatchSubmitter (s : State) (h : Nat) (f : Fn) : Submitter :=
  let x := getHart s h
  { agent := agentOf s h, tvec := x.csr.tvec, resthr := x.csr.resthr, nest := x.nest, limit := 7, fn := some f, dispatch := false }

/-- The PTROOT under which a function's dispatcher works; bits 63:52 read 0 (04 Table 04.9; log entry 16). -/
def dispatcherPtroot (f : Fn) : Word := Config.dispatcherRoot (fnIx f) &&& 0x000FFFFFFFFFFFFF#64

/-- The Keeper as the submitter of a function's dispatcher nest, on a stack domain. -/
def keeperSubmitter (f : Fn) (domain : Nat) (dispatch : Bool) : Submitter :=
  { agent := { core := 80 * domain, root := dispatcherPtroot f, user := false, hart := 4096 }, tvec := 0, resthr := 16384, nest := 0,
    limit := 7, fn := some f, dispatch := dispatch }

/-- The stack domain that serves a function (14 R320). -/
def domainOfFn (s : State) (f : Fn) : Nat := match f with | .pf => firstStack s | .vf i => i.val

/-- What a request slot of a function asks for: a SEQ other than the one served last. -/
def slotAsks (s : State) (f : Fn) : Option (Nat × Nat) :=
  match reservedPage s f with
  | none => none
  | some p =>
    let seq := memNat s p 8
    if word seq = smGet 0 s.keeper.seen (fnIx f) || isPoisoned s p then none else some (p, seq)

/-- Whether a request withdraws the nest that serves it: that nwithdraw does not return (14 R316). -/
def endsServer (s : State) (u : Submitter) (op : Nat) (arg : Word) : Bool :=
  op == 2 && arg.toNat == u.nest && (match findNest s u.nest with | some n => !n.withdrawing | none => false)

/-- A request slot served (14 R320): the request performed, its result written, and RSEQ last; nothing is written where the request ends the
iteration that serves it. -/
def serveSlot (s : State) (u : Submitter) (f : Fn) : Option State :=
  match slotAsks s f with
  | none => none
  | some (p, seq) =>
    let op := memNat s (p + 8) 8
    let arg := word (memNat s (p + 16) 8)
    let (res, s1) := dispatchRequest s u f op arg
    let s2 := { s1 with keeper := { s1.keeper with seen := smPut s1.keeper.seen (fnIx f) (word seq) } }
    if endsServer s u op arg then some s2
    else some (homeWord (homeWord (homeWord (homeWord s2 (p + 40) res.toNat) (p + 48) 0) (p + 56) 0) (p + 32) seq)

/-- One turn of a dispatcher (14 R320). -/
def dispatchTurn (s : State) (h : Nat) (f : Fn) : State := (serveSlot s (dispatchSubmitter s h f) f).getD s

/-- The dispatcher hart of a function. -/
def dispatcherOf (s : State) (f : Fn) : Option Nat :=
  (s.harts.find? (fun p => p.2.bound && p.2.role == .dispatcher f)).map (fun p => p.1)

/-- The submitter that a function's requests are served as: its dispatcher, or the Keeper where none is bound. -/
def serverOf (s : State) (f : Fn) : Submitter :=
  match dispatcherOf s f with
  | some h => dispatchSubmitter s h f
  | none => keeperSubmitter f (domainOfFn s f) false

/-- KEEPER_REQUEST_SERVE (16 R346): with DISP = 1 the Keeper serves a request slot with the effect of R320, whether or not a dispatcher is
bound. -/
def keeperRequestServe (s : State) (f : Fn) : State :=
  if !s.hostmode.getLsbD 0 then s else (serveSlot s (serverOf s f) f).getD s

/-- The event of a request that the Keeper serves. -/
def execKeeperRequestServe (fn : Fn) (st : State) : Out := live st (fun s => keeperRequestServe s fn)

end Sys2Proof.Machine
end

