-- ==== Sys2Proof/Machine/Keeper.lean ====
section
/-! DEFINITION. The Keeper (16 R350 to R357): mailbox commands, attestation reports, the I3C port, sensors and the power limit. -/

namespace Sys2Proof.Machine

/-! Commands (16 R351, Table 16.6). -/

/-- A command of a code waits to be served next at a mailbox. -/
def mailPending (s : State) (p : MailPort) (code : Nat) : Bool := (mailQueue s p).head?.any (fun e => e.code == code)

/-- The first command of a mailbox served, if it has the given code: what it does gives STAT and the state. -/
def mailServe (s : State) (p : MailPort) (code : Nat) (f : State → MailReq → Nat × State) : State :=
  match mailQueue s p with
  | [] => s
  | e :: _ =>
    if e.code != code then s
    else
      let (stat, s1) := f s e
      mailSettle (mailFinish { s1 with keeper := { s1.keeper with lastOob := p == .oob } } p e stat) p

/-- The word of a sensor (16 Table 16.6). -/
def sensorWord (r : Sensor) : Nat := r.point.toNat * 2 ^ 24 + r.kind.toNat * 2 ^ 22 + r.value.toNat

/-- MAILBOX_SENSORS (16 Table 16.6, command 1). -/
def execMailboxSensors (p : MailPort) (st : State) : Out :=
  live st (fun s => mailServe s p 1 (fun s _ =>
    (0, mailPutAll s p 256 ((s.keeper.sensors.map (fun e => bytesOf (sensorWord e.2) 4)).flatten))))

/-- The 64 bytes of a log record (16 R355). -/
def logBytes (r : LogRec) : List Byte :=
  bytesOf r.seq 8 ++ bytesOf r.time.toNat 8 ++ bytesOf r.kind 8 ++ bytesOf r.data.toNat 8 ++
    (List.range 32).map (fun i => Config.keeperByte (2 ^ 40 + 32 * r.seq + i))

/-! The SPI NOR device (16 R355, Table 16.9). -/

/-- A byte of the directory and certificate chain. -/
def directoryByte (k : Keeper) (off : Nat) : Byte :=
  let ws := bytesOf 1 8 ++ bytesOf k.slotA.len 8 ++ bytesOf k.slotB.len 8 ++ bytesOf (if k.activeB then 1 else 0) 8
  if off < 32 then ws.getD off 0
  else if off < 4096 then Config.keeperByte (2 ^ 25 + off)
  else if off < 4100 then BitVec.ofNat 8 (Config.certLen.toNat / 256 ^ (off - 4096))
  else Config.keeperByte (2 ^ 24 + off)

/-- The log record that lies in slot n of the event log: the latest whose sequence number falls there. -/
def logAt (k : Keeper) (n : Nat) : Option LogRec := k.log.find? (fun r => r.seq % 262144 == n)

/-- A byte of the device: the directory, the image slots, the event log. What an image or the log has not written is free (log entry 14). -/
def flashByte (k : Keeper) (off : Nat) : Byte :=
  if off < 0x400000 then directoryByte k off
  else if off < 0x1A00000 then k.slotA.bytes.getD (off - 0x400000) (Config.keeperByte (2 ^ 27 + off))
  else if off < 0x3000000 then k.slotB.bytes.getD (off - 0x1A00000) (Config.keeperByte (2 ^ 27 + off))
  else
    match logAt k ((off - 0x3000000) / 64) with
    | some r => (logBytes r).getD (off % 64) 0
    | none => Config.keeperByte (2 ^ 27 + off)

/-- Bytes written to host memory. -/
def hostPut (s : State) (addr : Nat) (bs : List Byte) : State :=
  writeAll s (2 ^ 56 + s.steps) ((List.zip (List.range bs.length) bs).map (fun p =>
    { key := hostKey (addr + p.1), mask := 0xFF, val := p.2 }))

/-- Bytes of host memory. -/
def hostGet (s : State) (addr n : Nat) : List Byte := (List.range n).map (fun i => memByte s (hostKey (addr + i)))

/-- MAILBOX_LOG_COPY (16 Table 16.6, command 2; R355): the log in ascending sequence number, as far as the length goes. -/
def execMailboxLogCopy (p : MailPort) (st : State) : Out :=
  live st (fun s => mailServe s p 2 (fun s e =>
    (0, hostPut s (e.arg 0) (((s.keeper.log.map logBytes).flatten).take (e.arg 1)))))

/-- The image slot that is active, or the other one. -/
def Keeper.image (k : Keeper) (active : Bool) : Image := if k.activeB == active then k.slotB else k.slotA

/-- Whether a step of the last boot passed. -/
def stepPassed (b : Boot) (step : Nat) : Bool :=
  let r := (smGet (0 : Word) b.record step).toNat % 256
  r == 1 || r == 4

/-- Whether the image of a measurement slot was loaded (16 R356): the boot ROM always, the active Keeper image by step 1, the training parameters
by step 4 (where it failed or skipped some stacks it loaded them all the same), the dispatcher code by step 10. -/
def measured (b : Boot) (slot : Nat) : Bool :=
  match slot with
  | 0 => true
  | 1 => stepPassed b 1
  | 2 => (smFind b.record 4).isSome
  | _ => stepPassed b 10

/-- The bytes of an image in the SPI NOR device (16 R355). -/
def flashImage (k : Keeper) (active : Bool) : List Byte :=
  let base := if k.activeB == active then 0x1A00000 else 0x400000
  (List.range (k.image active).len).map (fun i => flashByte k (base + i))

/-- A byte of the measurements (16 R356): zero in a slot whose image was not loaded; the digest of the active image in slot 1; else free (log
entry 14), of the ROM and the dispatcher code by slot alone, and of the training parameters by the last boot too. -/
def measureByte (k : Keeper) (b : Boot) (off : Nat) : Byte :=
  let slot := off / 48
  if !measured b slot then 0
  else if slot = 1 then (sha384 (flashImage k true)).getD (off % 48) 0
  else Config.keeperByte (2 ^ 30 * (slot + 1) + 48 * (if slot = 2 then b.stamp else 0) + off % 48)

/-- LEN of a report. -/
def reportLen : Nat := 17124 + Config.certLen.toNat

/-- Bytes 0 to 511 of a report (16 Table 16.10). -/
def reportHead (s : State) (e : MailReq) : List Byte :=
  bytesOf 1 4 ++ bytesOf reportLen 4 ++ e.args.take 32 ++ bytesOf (devid s) 8 ++
    bytesOf s.keeper.fuses 8 ++ bytesOf s.hostmode.toNat 8 ++ (List.range 192).map (measureByte s.keeper s.boot) ++
    (List.range 256).map (bootByte s)

/-- A byte of the most recent report: the signed part, the two signatures, the chain's length and the chain; 0 beyond LEN. -/
def reportByte (k : Keeper) (off : Nat) : Byte :=
  if k.reports = 0 || reportLen ≤ off then 0
  else if off < 512 then (k.report.drop off).headD 0
  else if off < 17120 then Config.signatureByte k.reports off
  else directoryByte k (4096 + (off - 17120))

/-- MAILBOX_ATTEST (16 Table 16.6, command 3; R353, R356). -/
def execMailboxAttest (p : MailPort) (st : State) : Out :=
  live st (fun s => mailServe s p 3 (fun s e =>
    let addr := e.arg 4
    let len := e.arg 5
    let s1 := { s with keeper := { s.keeper with report := reportHead s e, reports := s.keeper.reports + 1 } }
    let s2 := mailPutAll s1 p 256 s1.keeper.report
    if p == .oob || addr = 0 then (0, s2)
    else if len < reportLen then (4, s2)
    else (0, hostPut s2 addr ((List.range reportLen).map (reportByte s2.keeper)))))

/-- The inactive slot replaced. -/
def Keeper.putInactive (k : Keeper) (i : Image) : Keeper := if k.activeB then { k with slotA := i } else { k with slotB := i }

/-- An image is accepted (16 R352, R355). -/
def imageAccepted (k : Keeper) (len : Nat) (v : ImageCheck) : Bool :=
  len ≤ 22 * 2 ^ 20 && v.rsaOk && v.slhOk && v.digestOk && k.fuses ≤ v.svn

/-- MAILBOX_IMAGE_FETCH (16 Table 16.6, command 4; R352): v is what the Keeper finds when it checks the image. -/
def execMailboxImageFetch (p : MailPort) (v : ImageCheck) (st : State) : Out :=
  live st (fun s => mailServe s p 4 (fun s e =>
    let len := e.arg 1
    if !imageAccepted s.keeper len v then (3, s)
    else
      let k := s.keeper.putInactive { len := len, svn := v.svn, verified := true, bytes := hostGet s (e.arg 0) len }
      (0, keeperLog { s with keeper := { k with switchNext := !s.hostmode.getLsbD 4 } } 7 (word v.svn))))

/-- MAILBOX_FENCE_CLEAR (16 Table 16.6, command 5; R359). -/
def execMailboxFenceClear (p : MailPort) (st : State) : Out :=
  live st (fun s => mailServe s p 5 (fun s e =>
    (0, { s with boot := { s.boot with fences := s.boot.fences.filter (fun f => !bitOf (e.arg 0) f.1) } })))

/-- MAILBOX_ACTIVATE (16 Table 16.6, command 6): without a verified image STAT is 3. -/
def execMailboxActivate (p : MailPort) (st : State) : Out :=
  live st (fun s => mailServe s p 6 (fun s _ =>
    if (s.keeper.image false).verified then
      (0, keeperLog { s with keeper := { s.keeper with switchNext := true } } 7 (word (s.keeper.image false).svn))
    else (3, s)))

/-- MAILBOX_POWER_LIMIT (16 Table 16.6, command 7). -/
def execMailboxPowerLimit (p : MailPort) (st : State) : Out :=
  live st (fun s => mailServe s p 7 (fun s e => (0, { s with keeper := { s.keeper with limit := e.arg 0 } })))

/-- A port that is degraded or down asked to retrain at 4 lanes (16 Table 16.5). -/
def retrainPort (s : State) (q : Nat) : State :=
  let t := getPort s q
  if t.lanes = 4 || t.training.isSome || !portJoined s q then s else putPort s q { t with training := some 4 }

/-- MAILBOX_RETRAIN (16 Table 16.6, command 8). -/
def execMailboxRetrain (p : MailPort) (st : State) : Out :=
  live st (fun s => mailServe s p 8 (fun s e =>
    (0, ((List.range 24).filter (bitOf (e.arg 0))).foldl retrainPort s)))

/-- MAILBOX_REPORT_READ (16 Table 16.6, command 9). -/
def execMailboxReportRead (p : MailPort) (st : State) : Out :=
  live st (fun s => mailServe s p 9 (fun s e =>
    (0, mailPutAll s p 256 ((List.range 3840).map (fun i => reportByte s.keeper (e.arg 0 + i))))))

/-! The I3C port (16 R354). -/

/-- The address that the port answers to: the dynamic one, or before that 0x30 plus the straps. -/
def i3cOwn (k : Keeper) : BitVec 7 := k.i3cAddr.getD (0x30#7 + Config.kselStrap.setWidth 7)

/-- I3C_PRIVATE_WRITE (16 R354): a 2-byte offset, then the bytes written there; one that writes CMD gives the mailbox a command. -/
def execI3cPrivateWrite (addr : BitVec 7) (data : List (BitVec 8)) (st : State) : Out :=
  live st (fun s =>
    match data with
    | lo :: hi :: bs =>
      if addr != i3cOwn s.keeper then s
      else
        let off := (lo.toNat + 256 * hi.toNat) % 4096
        let s1 := mailPutAll { s with keeper := { s.keeper with i3cOff := off, i3cIbi := false } } .oob off bs
        if (List.range bs.length).any (fun i => (off + i) % 4096 < 8) then mailEnter s1 .oob else s1
    | _ => s)

/-- I3C_PRIVATE_READ (16 R354): n bytes from the offset of the last private write on, wrapping at 4,096. -/
def execI3cPrivateRead (addr : BitVec 7) (n : Nat) (st : State) : Out :=
  live st (fun s =>
    if addr != i3cOwn s.keeper then s
    else
      { s with
        barRead := (List.range n).map (fun i => mailByte s .oob (s.keeper.i3cOff + i))
        keeper := { s.keeper with i3cIbi := false } })

/-- I3C_ADDRESS_ASSIGN (16 R354). -/
def execI3cAddressAssign (addr : BitVec 7) (st : State) : Out :=
  live st (fun s => { s with keeper := { s.keeper with i3cAddr := some addr } })

/-! Sensors and power (16 R350, R357). -/

/-- Whether some temperature sensor has reached a limit, in thousandths of a degree. -/
def hotter (k : Keeper) (limit : Nat) : Bool := k.sensors.any (fun e => e.2.kind == 0 && limit ≤ e.2.value.toNat)

/-- SENSOR_POLL (16 R350, R357): the readings stored; at 95 °C issue is withheld, and at 110 °C power is removed. -/
def execSensorPoll (readings : List Sensor) (st : State) : Out :=
  live st (fun s =>
    let t := (readings.filter (fun r => r.point.toNat < 128)).foldl (fun m r => smPut m r.point.toNat r) s.keeper.sensors
    let k := { s.keeper with sensors := t }
    if hotter k 110000 then keeperLog { s with keeper := { k with off := true } } 2 0
    else { s with keeper := { k with withhold := k.withhold || hotter k 95000 } })

/-- The most power in W: the package's, or on a 7260-M the module's at its input (00 Table 00.1, 16 R357; log entry 84). -/
def powerCap : Nat := if Config.onModule then 2500 else 2350

/-- POWER_ADJUST (16 R357): issue is withheld above the lower of the form's limit and the limit set, or while the die is hot. -/
def execPowerAdjust (watts : Nat) (st : State) : Out :=
  live st (fun s =>
    { s with keeper := { s.keeper with withhold := decide (min s.keeper.limit powerCap < watts) || hotter s.keeper 95000 } })

end Sys2Proof.Machine
end

