-- ==== Sys2Proof/Machine/Boot.lean ====
section
/-! DEFINITION. Reset and boot (16 R358, R359; 06 R139): the ten steps and the boot record, and the dispatcher nests. -/

namespace Sys2Proof.Machine

/-- The state that a reset leaves before boot runs (06 R139, 16 R358): the boot record, the fence counts, and what the Keeper holds in flash
and fuses stay; so does memory outside the package, and what its host says of it. -/
def afterReset (s : State) : State :=
  let z := State.reset
  { z with
    mem := s.mem.filter (fun p => 2 ^ 53 ≤ p.1 || (2 ^ 41 ≤ p.1 && p.1 < 2 ^ 52))
    rights := s.rights
    boot := { z.boot with
      record := s.boot.record, fences := s.boot.fences, tries := s.boot.tries, retried := s.boot.retried, stamp := s.steps }
    keeper := { z.keeper with
      slotA := s.keeper.slotA, slotB := s.keeper.slotB, activeB := s.keeper.activeB, switchNext := s.keeper.switchNext,
      fuses := s.keeper.fuses, log := s.keeper.log, logSeq := s.keeper.logSeq }
    agenda := s.agenda, relaxed := s.relaxed, steps := s.steps, nextCtx := s.nextCtx }

/-- Attempts made at a step, counted over the resets of one boot sequence (16 R358, R359). -/
def tryStep (s : State) (step n : Nat) : State :=
  { s with boot := { s.boot with tries := smPut s.boot.tries step (smGet 0 s.boot.tries step + n) } }

/-- An entry of the boot record (16 R358), written and logged. -/
def bootEntry (s : State) (step result mask : Nat) : State :=
  let w := word (result + smGet 0 s.boot.tries step % 256 * 256 + mask % 2 ^ 32 * 2 ^ 32)
  keeperLog { s with boot := { s.boot with record := smPut s.boot.record step w } } 6 w

/-- A step tried once, and its entry. -/
def bootStep (s : State) (step result mask : Nat) : State := bootEntry (tryStep s step 1) step result mask

/-- The boot sequence ended: its counts are over. -/
def bootEnd (s : State) (done : Bool) : State := { s with boot := { s.boot with done := done, tries := [], retried := 0 } }

/-- A boot stopped before a step: that step and the later ones were not run. -/
def bootStop (s : State) (fromStep : Nat) : State :=
  bootEnd { s with boot := { s.boot with record := s.boot.record.filter (fun p => p.1 < fromStep) } } false

/-- How a pass through the boot steps goes on: with the next step, with a reset that starts again at step 1, or not at all. -/
inductive BootFlow where
  | next (s : State)
  | again (s : State)
  | stopped (s : State)
  deriving DecidableEq, Repr

/-- The next step of a pass, unless a further reset comes after the one that has just ended. -/
def BootFlow.then (r : BootFlow) (cut : Bool) (f : State → BootFlow) : BootFlow :=
  match r with
  | .next s => if cut then .again s else f s
  | _ => r

/-- Step 1 (16 R352, Table 16.7): the active slot, after a switch that was asked for, or the other one; an image below the anti-rollback count
fails verification. -/
def bootKeeper (b : BootPass) (s : State) : BootFlow :=
  let k := s.keeper
  let act := if k.switchNext then !k.activeB else k.activeB
  let imageOf := fun (sel : Bool) => if sel then k.slotB else k.slotA
  let okB := fun (sel : Bool) => (if sel then b.slotBOk else b.slotAOk) && (imageOf sel).verified && decide (k.fuses ≤ (imageOf sel).svn)
  let slotBit := fun (sel : Bool) => if sel then 2 else 1
  if okB act then
    let fuses := if k.switchNext then max k.fuses (min 64 (imageOf act).svn) else k.fuses
    .next (bootStep { s with keeper := { k with activeB := act, switchNext := false, fuses := fuses } } 1 1 0)
  else if okB (!act) then
    .next (bootEntry (tryStep { s with keeper := { k with activeB := !act, switchNext := false } } 1 2) 1 4 (slotBit act))
  else .stopped (bootStop (bootEntry (tryStep s 1 2) 1 2 3) 2)

/-- A step without an alternate method (16 Table 16.7). -/
def bootPlain (step : Nat) (ok : Bool) (s : State) : BootFlow :=
  if ok then .next (bootStep s step 1 0) else .stopped (bootStop (bootStep s step 2 1) (step + 1))

/-- The stacks that are skipped (16 R359): fenced at an earlier boot, and not cleared since. -/
def skippedStacks (s : State) : BitVec 8 :=
  BitVec.ofNat 8 (((List.range 8).filter (fun i => 0 < smGet 0 s.boot.fences i)).map (fun i => 2 ^ i)).sum

/-- Step 4 or 5 over the stacks (16 R359): a stack that fails for the first time in the sequence asks for a reset and a retry with full training;
one that has been retried is fenced, also where another asks for a reset, and the boot goes on. -/
def bootStacks (step : Nat) (fails : BitVec 8) (s : State) : BootFlow :=
  let skipped := skippedStacks s
  let bad := fails &&& ~~~skipped
  let first := bad &&& ~~~s.boot.retried
  let lost := bad &&& s.boot.retried
  let s1 := tryStep s step 1
  let fences := (List.range 8).foldl (fun m i => if lost.getLsbD i then smPut m i (smGet 0 m i + 1) else m) s1.boot.fences
  let s2 := { s1 with boot := { s1.boot with fences := fences, fenced := s1.boot.fenced ||| skipped ||| lost } }
  if first != 0 then
    .again (bootEntry { s2 with boot := { s2.boot with retried := s2.boot.retried ||| first } } step 2 (bad.toNat))
  else
    let again := s1.boot.retried &&& ~~~lost &&& ~~~skipped
    .next (if lost != 0 then bootEntry s2 step 2 lost.toNat
      else if again != 0 && step == 4 then bootEntry s2 step 4 again.toNat
      else if skipped != 0 then bootEntry s2 step 3 skipped.toNat
      else bootEntry s2 step 1 0)

/-- Step 7 (16 Table 16.7): the host port; below x4 it stays down. -/
def bootHost (b : BootPass) (s : State) : BootFlow :=
  let up := 4 ≤ b.hostWidth
  .next (bootStep { s with boot := { s.boot with hostUp := up } } 7 (if up then 1 else 2) (if up then 0 else 1))

/-- The lanes that a port trains (16 Table 16.7): none where no package is at its other end (01 R10). -/
def portLanes (b : BootPass) (q : Nat) : Nat :=
  if !b.packages.contains (portPeer q) then 0 else if b.portWide.getLsbD q then 4 else if b.portNarrow.getLsbD q then 2 else 0

/-- Step 8 (16 Table 16.7): every link port at 4 lanes, at 2, or down. A port without a package at its end is no failure. -/
def bootPorts (b : BootPass) (s : State) : BootFlow :=
  let s1 := (List.range 24).foldl (fun s q => putPort s q { Port.reset with lanes := portLanes b q, since := b.timeNs.toNat }) s
  let mask := fun n =>
    (((List.range 24).filter (fun q => b.packages.contains (portPeer q) && portLanes b q == n)).map (fun q => 2 ^ q)).sum
  .next (if mask 0 != 0 then bootStep s1 8 2 (mask 0) else if mask 2 != 0 then bootStep s1 8 4 (mask 2) else bootStep s1 8 1 0)

/-- Step 9 (16 Table 16.7): the span's time and its present packages, or the package alone. -/
def bootSpan (b : BootPass) (s : State) : BootFlow :=
  let alone := b.packages.isEmpty
  .next (bootStep { s with span := b.packages, time := b.timeNs } 9 (if alone then 2 else 1) (if alone then 1 else 0))

/-- The record of a dispatcher nest (14 R320) on a stack domain. -/
def dispatchRec (domain : Nat) : NestRec :=
  { entry := 0, param := 0, stack := 0, back := 0, save := 0, cnt := [1, 0, 0, 0], ind := [0, 0, 0, 0],
    ctrl := word (1 + 7 * 2 ^ 12 + 2 ^ 16), stksz := 0, preg := 0, pscr := 0, pl1 := 0, age := 0, dline := 0,
    waita := [0, 0, 0, 0], waitn := [0, 0, 0, 0], cblk := 0, place := 2 ^ (10 * domain) }

/-- The dispatcher nest of a function submitted on a stack domain. -/
def submitDispatcher (s : State) (p : Fn × Nat) : State :=
  assignWalkers (putNest s (freeNestId s) (newNest s (keeperSubmitter p.1 p.2 true) (dispatchRec p.2)))

/-- Step 10 (14 R320): one dispatcher for each virtual function whose stack is in service, and one for the physical function. Without a stack in
service, or when it fails, the boot stops. -/
def bootDispatchers (b : BootPass) (s : State) : BootFlow :=
  let fs : List (Fn × Nat) := (List.finRange 8).map (fun i => (.vf i, i.val))
  let here := fs.filter (fun p => !s.boot.fenced.getLsbD p.2)
  if here.isEmpty || !b.dispatchOk then .stopped (bootStop (bootStep s 10 2 1) 11)
  else .next (bootEnd (bootStep ((here ++ [(Fn.pf, firstStack s)]).foldl submitDispatcher s) 10 1 0) true)

/-- One pass through the boot steps in order (16 R358). -/
def bootPass (b : BootPass) (s : State) : BootFlow :=
  let cut := fun n => b.cut == some n
  ((((((((((BootFlow.next s).then (cut 0) (bootKeeper b)).then (cut 1) (bootPlain 2 b.railsOk)).then (cut 2) (bootPlain 3 b.fusesOk)).then
    (cut 3) (bootStacks 4 b.trainFail)).then (cut 4) (bootStacks 5 b.zeroFail)).then (cut 5) (bootPlain 6 b.cachesOk)).then (cut 6)
    (bootHost b)).then (cut 7) (bootPorts b)).then (cut 8) (bootSpan b)).then (cut 9) (bootDispatchers b)

/-- A reset, with the passes that its boot sequence takes (16 R359): a pass that asks for another, or that a further reset cuts off, starts again
at step 1 with the counts kept. Where no pass is left the device stays in reset. -/
def bootPasses : List BootPass → State → State
  | [], s => afterReset s
  | b :: bs, s =>
    match bootPass b (afterReset s) with
    | .next t => t
    | .stopped t => t
    | .again t => bootPasses bs t

/-- DEVICE_RESET (16 R358, R359): the reset state, and the boot steps in order. -/
def deviceReset (s : State) (passes : List BootPass) : State := bootPasses passes s

/-- The event of a reset; it acts without power too. -/
def execDeviceReset (passes : List BootPass) (st : State) : Out := .next (deviceReset st passes)

end Sys2Proof.Machine
end

