-- ==== Sys2Proof/Machine/Dispatch.lean ====
section
/-! DEFINITION. One arm for each instruction and step: the meaning that it calls. -/

namespace Sys2Proof.Machine

def exec (i : Instr) (s : State) : Host.Outcome State Fault Refusal :=
  match i with
  | .add d a b => Sys2Proof.Machine.execAdd d a b s
  | .sub d a b => Sys2Proof.Machine.execSub d a b s
  | .mul d a b => Sys2Proof.Machine.execMul d a b s
  | .mulh d a b => Sys2Proof.Machine.execMulh d a b s
  | .mulhn d a b => Sys2Proof.Machine.execMulhn d a b s
  | .div d a b => Sys2Proof.Machine.execDiv d a b s
  | .divn d a b => Sys2Proof.Machine.execDivn d a b s
  | .rem d a b => Sys2Proof.Machine.execRem d a b s
  | .remn d a b => Sys2Proof.Machine.execRemn d a b s
  | .and d a b => Sys2Proof.Machine.execAnd d a b s
  | .or d a b => Sys2Proof.Machine.execOr d a b s
  | .xor d a b => Sys2Proof.Machine.execXor d a b s
  | .sll d a b => Sys2Proof.Machine.execSll d a b s
  | .srl d a b => Sys2Proof.Machine.execSrl d a b s
  | .sra d a b => Sys2Proof.Machine.execSra d a b s
  | .min d a b => Sys2Proof.Machine.execMin d a b s
  | .max d a b => Sys2Proof.Machine.execMax d a b s
  | .minn d a b => Sys2Proof.Machine.execMinn d a b s
  | .maxn d a b => Sys2Proof.Machine.execMaxn d a b s
  | .clz d a => Sys2Proof.Machine.execClz d a s
  | .ctz d a => Sys2Proof.Machine.execCtz d a s
  | .popc d a => Sys2Proof.Machine.execPopc d a s
  | .cmp d a b c => Sys2Proof.Machine.execCmp d a b c s
  | .csel d a b c => Sys2Proof.Machine.execCsel d a b c s
  | .lea d a b sh => Sys2Proof.Machine.execLea d a b sh s
  | .addi d a im => Sys2Proof.Machine.execAddi d a im s
  | .andi d a im => Sys2Proof.Machine.execAndi d a im s
  | .ori d a im => Sys2Proof.Machine.execOri d a im s
  | .xori d a im => Sys2Proof.Machine.execXori d a im s
  | .lhi d a im => Sys2Proof.Machine.execLhi d a im s
  | .cmpi d a c im => Sys2Proof.Machine.execCmpi d a c im s
  | .slli d a sh => Sys2Proof.Machine.execSlli d a sh s
  | .srli d a sh => Sys2Proof.Machine.execSrli d a sh s
  | .srai d a sh => Sys2Proof.Machine.execSrai d a sh s
  | .ldI8 d a im => Sys2Proof.Machine.execLdI8 d a im s
  | .ldN8 d a im => Sys2Proof.Machine.execLdN8 d a im s
  | .ldI16 d a im => Sys2Proof.Machine.execLdI16 d a im s
  | .ldN16 d a im => Sys2Proof.Machine.execLdN16 d a im s
  | .ldI32 d a im => Sys2Proof.Machine.execLdI32 d a im s
  | .ldN32 d a im => Sys2Proof.Machine.execLdN32 d a im s
  | .ldI64 d a im => Sys2Proof.Machine.execLdI64 d a im s
  | .st8 d a im => Sys2Proof.Machine.execSt8 d a im s
  | .st16 d a im => Sys2Proof.Machine.execSt16 d a im s
  | .st32 d a im => Sys2Proof.Machine.execSt32 d a im s
  | .st64 d a im => Sys2Proof.Machine.execSt64 d a im s
  | .amo d a b sh o w p => Sys2Proof.Machine.execAmo d a b sh o w p s
  | .cas d a b sh o w => Sys2Proof.Machine.execCas d a b sh o w s
  | .red a b sh o w p => Sys2Proof.Machine.execRed a b sh o w p s
  | .beq a b o => Sys2Proof.Machine.execBeq a b o s
  | .bne a b o => Sys2Proof.Machine.execBne a b o s
  | .blt a b o => Sys2Proof.Machine.execBlt a b o s
  | .bge a b o => Sys2Proof.Machine.execBge a b o s
  | .bltn a b o => Sys2Proof.Machine.execBltn a b o s
  | .bgen a b o => Sys2Proof.Machine.execBgen a b o s
  | .jmp o => Sys2Proof.Machine.execJmp o s
  | .jal o => Sys2Proof.Machine.execJal o s
  | .jalr d a im => Sys2Proof.Machine.execJalr d a im s
  | .bstrip a b o => Sys2Proof.Machine.execBstrip a b o s
  | .bvany m sh o => Sys2Proof.Machine.execBvany m sh o s
  | .bvnone m sh o => Sys2Proof.Machine.execBvnone m sh o s
  | .csrr d c => Sys2Proof.Machine.execCsrr d c s
  | .csrw d a c => Sys2Proof.Machine.execCsrw d a c s
  | .csrs d a c => Sys2Proof.Machine.execCsrs d a c s
  | .csrc d a c => Sys2Proof.Machine.execCsrc d a c s
  | .cpyerrClear h => Sys2Proof.Machine.execCpyerrClear h s
  | .endIter => Sys2Proof.Machine.execEndIter s
  | .trap n => Sys2Proof.Machine.execTrap n s
  | .eret => Sys2Proof.Machine.execEret s
  | .fence k sh => Sys2Proof.Machine.execFence k sh s
  | .lsync => Sys2Proof.Machine.execLsync s
  | .waitm d a b => Sys2Proof.Machine.execWaitm d a b s
  | .waitmRecheck h => Sys2Proof.Machine.execWaitmRecheck h s
  | .yield => Sys2Proof.Machine.execYield s
  | .yieldRelease h => Sys2Proof.Machine.execYieldRelease h s
  | .lpreq d a => Sys2Proof.Machine.execLpreq d a s
  | .forkl d a => Sys2Proof.Machine.execForkl d a s
  | .joinl a => Sys2Proof.Machine.execJoinl a s
  | .vrel => Sys2Proof.Machine.execVrel s
  | .ctxsave a => Sys2Proof.Machine.execCtxsave a s
  | .ctxrest a => Sys2Proof.Machine.execCtxrest a s
  | .tlbinvPage a b => Sys2Proof.Machine.execTlbinvPage a b s
  | .tlbinvCtx b => Sys2Proof.Machine.execTlbinvCtx b s
  | .tlbinvAll => Sys2Proof.Machine.execTlbinvAll s
  | .nest d a => Sys2Proof.Machine.execNest d a s
  | .nwithdraw a => Sys2Proof.Machine.execNwithdraw a s
  | .nstat d a => Sys2Proof.Machine.execNstat d a s
  | .sbind d a => Sys2Proof.Machine.execSbind d a s
  | .sfree d => Sys2Proof.Machine.execSfree d s
  | .sstat d b => Sys2Proof.Machine.execSstat d b s
  | .setvl d a h f k o r => Sys2Proof.Machine.execSetvl d a h f k o r s
  | .vldseg d a b sh m f => Sys2Proof.Machine.execVldseg d a b sh m f s
  | .vstseg d a b sh m f => Sys2Proof.Machine.execVstseg d a b sh m f s
  | .vadd d a b sh m => Sys2Proof.Machine.execVadd d a b sh m s
  | .vsub d a b sh m => Sys2Proof.Machine.execVsub d a b sh m s
  | .vmul d a b sh m => Sys2Proof.Machine.execVmul d a b sh m s
  | .vmulh d a b sh m => Sys2Proof.Machine.execVmulh d a b sh m s
  | .vmacc d a b sh m => Sys2Proof.Machine.execVmacc d a b sh m s
  | .vsadd d a b sh m => Sys2Proof.Machine.execVsadd d a b sh m s
  | .vssub d a b sh m => Sys2Proof.Machine.execVssub d a b sh m s
  | .vmin d a b sh m => Sys2Proof.Machine.execVmin d a b sh m s
  | .vmax d a b sh m => Sys2Proof.Machine.execVmax d a b sh m s
  | .vand d a b sh m => Sys2Proof.Machine.execVand d a b sh m s
  | .vor d a b sh m => Sys2Proof.Machine.execVor d a b sh m s
  | .vxor d a b sh m => Sys2Proof.Machine.execVxor d a b sh m s
  | .vsll d a b sh m => Sys2Proof.Machine.execVsll d a b sh m s
  | .vsrl d a b sh m => Sys2Proof.Machine.execVsrl d a b sh m s
  | .vsra d a b sh m => Sys2Proof.Machine.execVsra d a b sh m s
  | .vmerge d a b sh m => Sys2Proof.Machine.execVmerge d a b sh m s
  | .vcmpEq d a b sh m => Sys2Proof.Machine.execVcmpEq d a b sh m s
  | .vcmpNe d a b sh m => Sys2Proof.Machine.execVcmpNe d a b sh m s
  | .vcmpLt d a b sh m => Sys2Proof.Machine.execVcmpLt d a b sh m s
  | .vcmpLe d a b sh m => Sys2Proof.Machine.execVcmpLe d a b sh m s
  | .vcmpGt d a b sh m => Sys2Proof.Machine.execVcmpGt d a b sh m s
  | .vcmpGe d a b sh m => Sys2Proof.Machine.execVcmpGe d a b sh m s
  | .vnshrTz d a b sh m => Sys2Proof.Machine.execVnshrTz d a b sh m s
  | .vnshrHu d a b sh m => Sys2Proof.Machine.execVnshrHu d a b sh m s
  | .vnshrHe d a b sh m => Sys2Proof.Machine.execVnshrHe d a b sh m s
  | .vnshrOd d a b sh m => Sys2Proof.Machine.execVnshrOd d a b sh m s
  | .vmv d a sh m => Sys2Proof.Machine.execVmv d a sh m s
  | .vsplat d a sh m => Sys2Proof.Machine.execVsplat d a sh m s
  | .vid d sh m => Sys2Proof.Machine.execVid d sh m s
  | .viota d a sh m => Sys2Proof.Machine.execViota d a sh m s
  | .mand d a b sh => Sys2Proof.Machine.execMand d a b sh s
  | .mor d a b sh => Sys2Proof.Machine.execMor d a b sh s
  | .mxor d a b sh => Sys2Proof.Machine.execMxor d a b sh s
  | .mandn d a b sh => Sys2Proof.Machine.execMandn d a b sh s
  | .mpop d a sh m => Sys2Proof.Machine.execMpop d a sh m s
  | .mfirst d a sh m => Sys2Proof.Machine.execMfirst d a sh m s
  | .vmovs d a b sh => Sys2Proof.Machine.execVmovs d a b sh s
  | .vins d a b sh => Sys2Proof.Machine.execVins d a b sh s
  | .vperm d a b sh m => Sys2Proof.Machine.execVperm d a b sh m s
  | .vslideUp d a b sh m => Sys2Proof.Machine.execVslideUp d a b sh m s
  | .vslideDn d a b sh m => Sys2Proof.Machine.execVslideDn d a b sh m s
  | .vreshape d a k sh m => Sys2Proof.Machine.execVreshape d a k sh m s
  | .vbcast d a b sh m => Sys2Proof.Machine.execVbcast d a b sh m s
  | .vunpack d a sh m => Sys2Proof.Machine.execVunpack d a sh m s
  | .vlut d a b sh m => Sys2Proof.Machine.execVlut d a b sh m s
  | .vexpand d a sh m => Sys2Proof.Machine.execVexpand d a sh m s
  | .vcompress d a sh m => Sys2Proof.Machine.execVcompress d a sh m s
  | .vfadd d a b sh m => Sys2Proof.Machine.execVfadd d a b sh m s
  | .vfsub d a b sh m => Sys2Proof.Machine.execVfsub d a b sh m s
  | .vfmul d a b sh m => Sys2Proof.Machine.execVfmul d a b sh m s
  | .vfma d a b sh m => Sys2Proof.Machine.execVfma d a b sh m s
  | .vfms d a b sh m => Sys2Proof.Machine.execVfms d a b sh m s
  | .vfnma d a b sh m => Sys2Proof.Machine.execVfnma d a b sh m s
  | .vfdiv d a b sh m => Sys2Proof.Machine.execVfdiv d a b sh m s
  | .vfsqrt d a sh m => Sys2Proof.Machine.execVfsqrt d a sh m s
  | .vfmin d a b sh m => Sys2Proof.Machine.execVfmin d a b sh m s
  | .vfmax d a b sh m => Sys2Proof.Machine.execVfmax d a b sh m s
  | .vfcmpEq d a b sh m => Sys2Proof.Machine.execVfcmpEq d a b sh m s
  | .vfcmpNe d a b sh m => Sys2Proof.Machine.execVfcmpNe d a b sh m s
  | .vfcmpLt d a b sh m => Sys2Proof.Machine.execVfcmpLt d a b sh m s
  | .vfcmpLe d a b sh m => Sys2Proof.Machine.execVfcmpLe d a b sh m s
  | .vfcmpGt d a b sh m => Sys2Proof.Machine.execVfcmpGt d a b sh m s
  | .vfcmpGe d a b sh m => Sys2Proof.Machine.execVfcmpGe d a b sh m s
  | .vfcmpUn d a b sh m => Sys2Proof.Machine.execVfcmpUn d a b sh m s
  | .vfsgnJ d a b sh m => Sys2Proof.Machine.execVfsgnJ d a b sh m s
  | .vfsgnJn d a b sh m => Sys2Proof.Machine.execVfsgnJn d a b sh m s
  | .vfsgnJx d a b sh m => Sys2Proof.Machine.execVfsgnJx d a b sh m s
  | .vfclass d a sh m => Sys2Proof.Machine.execVfclass d a sh m s
  | .vfrcp d a sh m => Sys2Proof.Machine.execVfrcp d a sh m s
  | .vfrsq d a sh m => Sys2Proof.Machine.execVfrsq d a sh m s
  | .vfexp2 d a sh m => Sys2Proof.Machine.execVfexp2 d a sh m s
  | .vflog2 d a sh m => Sys2Proof.Machine.execVflog2 d a sh m s
  | .vsettle d a sh m => Sys2Proof.Machine.execVsettle d a sh m s
  | .vtail d a sh m => Sys2Proof.Machine.execVtail d a sh m s
  | .vcvt d a t sh m => Sys2Proof.Machine.execVcvt d a t sh m s
  | .vredsumOrd d a b sh m => Sys2Proof.Machine.execVredsumOrd d a b sh m s
  | .vredsumTree d a sh m => Sys2Proof.Machine.execVredsumTree d a sh m s
  | .vredmax d a sh m => Sys2Proof.Machine.execVredmax d a sh m s
  | .vredmin d a sh m => Sys2Proof.Machine.execVredmin d a sh m s
  | .vargmax d a sh m => Sys2Proof.Machine.execVargmax d a sh m s
  | .vscanAdd d a sh m => Sys2Proof.Machine.execVscanAdd d a sh m s
  | .vscanMax d a sh m => Sys2Proof.Machine.execVscanMax d a sh m s
  | .vtopk d a k sh m => Sys2Proof.Machine.execVtopk d a k sh m s
  | .rgen d a b sh m => Sys2Proof.Machine.execRgen d a b sh m s
  | .rgenTop d a b sh m => Sys2Proof.Machine.execRgenTop d a b sh m s
  | .rmerge d a b sh => Sys2Proof.Machine.execRmerge d a b sh s
  | .xsend d a b sh m => Sys2Proof.Machine.execXsend d a b sh m s
  | .mext d a t sh m => Sys2Proof.Machine.execMext d a t sh m s
  | .mplane d a sh m => Sys2Proof.Machine.execMplane d a sh m s
  | .settile d a sh => Sys2Proof.Machine.execSettile d a sh s
  | .mzero d t => Sys2Proof.Machine.execMzero d t s
  | .mmac d a b sh t => Sys2Proof.Machine.execMmac d a b sh t s
  | .mmaci d a b sh t => Sys2Proof.Machine.execMmaci d a b sh t s
  | .mspill d a t => Sys2Proof.Machine.execMspill d a t s
  | .mfill d a t => Sys2Proof.Machine.execMfill d a t s
  | .xopen d a => Sys2Proof.Machine.execXopen d a s
  | .xsplit d a b => Sys2Proof.Machine.execXsplit d a b s
  | .xpost d a b => Sys2Proof.Machine.execXpost d a b s
  | .xend d a => Sys2Proof.Machine.execXend d a s
  | .xstep d a => Sys2Proof.Machine.execXstep d a s
  | .xfence a => Sys2Proof.Machine.execXfence a s
  | .xstat d a im => Sys2Proof.Machine.execXstat d a im s
  | .xsample d a => Sys2Proof.Machine.execXsample d a s
  | .xsampleHost d a b => Sys2Proof.Machine.execXsampleHost d a b s
  | .xclose d a => Sys2Proof.Machine.execXclose d a s
  | .qopen d a => Sys2Proof.Machine.execQopen d a s
  | .qmap d a b => Sys2Proof.Machine.execQmap d a b s
  | .qinit d a b => Sys2Proof.Machine.execQinit d a b s
  | .qgate d a b => Sys2Proof.Machine.execQgate d a b s
  | .qdiag d a b => Sys2Proof.Machine.execQdiag d a b s
  | .qswap d a b => Sys2Proof.Machine.execQswap d a b s
  | .qprob d a b => Sys2Proof.Machine.execQprob d a b s
  | .qproj d a b => Sys2Proof.Machine.execQproj d a b s
  | .qread d a b => Sys2Proof.Machine.execQread d a b s
  | .dcopy d a => Sys2Proof.Machine.execDcopy d a s
  | .dfill d a => Sys2Proof.Machine.execDfill d a s
  | .tread d x => Sys2Proof.Machine.execTread d x s
  | .twait a x => Sys2Proof.Machine.execTwait a x s
  | .vredAdd d a b sh m f => Sys2Proof.Machine.execVredAdd d a b sh m f s
  | .vredMin d a b sh m f => Sys2Proof.Machine.execVredMin d a b sh m f s
  | .vredMax d a b sh m f => Sys2Proof.Machine.execVredMax d a b sh m f s
  | .vspill d a sh => Sys2Proof.Machine.execVspill d a sh s
  | .vfill d a sh => Sys2Proof.Machine.execVfill d a sh s
  | .vld d a b sh m f => Sys2Proof.Machine.execVld d a b sh m f s
  | .vst d a b sh m f => Sys2Proof.Machine.execVst d a b sh m f s
  | .vlds d a b sh m f => Sys2Proof.Machine.execVlds d a b sh m f s
  | .vsts d a b sh m f => Sys2Proof.Machine.execVsts d a b sh m f s
  | .vldx d a b sh m f => Sys2Proof.Machine.execVldx d a b sh m f s
  | .vstx d a b sh m f => Sys2Proof.Machine.execVstx d a b sh m f s
  | .vldw d a b sh m f => Sys2Proof.Machine.execVldw d a b sh m f s
  | .viqIssue h => Sys2Proof.Machine.execViqIssue h s
  | .vectorBeat h n => Sys2Proof.Machine.execVectorBeat h n s
  | .loadDataArrival h n => Sys2Proof.Machine.execLoadDataArrival h n s
  | .vectorComplete h => Sys2Proof.Machine.execVectorComplete h s
  | .syncReadReturn h => Sys2Proof.Machine.execSyncReadReturn h s
  | .streamFetch h v => Sys2Proof.Machine.execStreamFetch h v s
  | .streamDrain h v => Sys2Proof.Machine.execStreamDrain h v s
  | .takeTrap h => Sys2Proof.Machine.execTakeTrap h s
  | .copyTransfer h => Sys2Proof.Machine.execCopyTransfer h s
  | .copyComplete h => Sys2Proof.Machine.execCopyComplete h s
  | .matrixKstep h => Sys2Proof.Machine.execMatrixKstep h s
  | .matrixRowOp h => Sys2Proof.Machine.execMatrixRowOp h s
  | .matrixComplete h => Sys2Proof.Machine.execMatrixComplete h s
  | .mmaciRecordPoll h => Sys2Proof.Machine.execMmaciRecordPoll h s
  | .accColumnMove h => Sys2Proof.Machine.execAccColumnMove h s
  | .lensCommandStart slot => Sys2Proof.Machine.execLensCommandStart slot s
  | .lensSwapSuperstep slot => Sys2Proof.Machine.execLensSwapSuperstep slot s
  | .lensCommandComplete h => Sys2Proof.Machine.execLensCommandComplete h s
  | .xopenRendezvous tag => Sys2Proof.Machine.execXopenRendezvous tag s
  | .qopenRendezvous tag => Sys2Proof.Machine.execQopenRendezvous tag s
  | .mergePass slot recv => Sys2Proof.Machine.execMergePass slot recv s
  | .tailLand slot sender recv => Sys2Proof.Machine.execTailLand slot sender recv s
  | .beaconRelease slot => Sys2Proof.Machine.execBeaconRelease slot s
  | .buoyProbe q waitsFor => Sys2Proof.Machine.execBuoyProbe q waitsFor s
  | .buoyTokenArrive q token waitsFor => Sys2Proof.Machine.execBuoyTokenArrive q token waitsFor s
  | .linkFlitReceive port f => Sys2Proof.Machine.execLinkFlitReceive port f s
  | .linkAck port => Sys2Proof.Machine.execLinkAck port s
  | .linkNakReplay port => Sys2Proof.Machine.execLinkNakReplay port s
  | .linkLaneLoss port loss => Sys2Proof.Machine.execLinkLaneLoss port loss s
  | .linkRetrainDone port ok => Sys2Proof.Machine.execLinkRetrainDone port ok s
  | .linkRecoveryTimer port => Sys2Proof.Machine.execLinkRecoveryTimer port s
  | .llcWriteBack stack line => Sys2Proof.Machine.execLlcWriteBack stack line s
  | .patrolScrub w r => Sys2Proof.Machine.execPatrolScrub w r s
  | .walkerHandout w => Sys2Proof.Machine.execWalkerHandout w s
  | .waitWordPoll w k => Sys2Proof.Machine.execWaitWordPoll w k s
  | .ageingTick nest => Sys2Proof.Machine.execAgeingTick nest s
  | .lpwaitExpiry core slice => Sys2Proof.Machine.execLpwaitExpiry core slice s
  | .haltRequest h r => Sys2Proof.Machine.execHaltRequest h r s
  | .contextSave h => Sys2Proof.Machine.execContextSave h s
  | .owedWriteLand k dataLost => Sys2Proof.Machine.execOwedWriteLand k dataLost s
  | .contextResume w => Sys2Proof.Machine.execContextResume w s
  | .coreRebind core nest => Sys2Proof.Machine.execCoreRebind core nest s
  | .deadlineExpiry nest => Sys2Proof.Machine.execDeadlineExpiry nest s
  | .nestStatusWrite nest => Sys2Proof.Machine.execNestStatusWrite nest s
  | .hostBarAccess fn req => Sys2Proof.Machine.execHostBarAccess fn req s
  | .hostAtomicop fn req => Sys2Proof.Machine.execHostAtomicop fn req s
  | .atsInvalidate range right => Sys2Proof.Machine.execAtsInvalidate range right s
  | .hostmodeWrite v => Sys2Proof.Machine.execHostmodeWrite v s
  | .eventPost fn => Sys2Proof.Machine.execEventPost fn s
  | .keeperRequestServe fn => Sys2Proof.Machine.execKeeperRequestServe fn s
  | .mailboxSensors p => Sys2Proof.Machine.execMailboxSensors p s
  | .mailboxLogCopy p => Sys2Proof.Machine.execMailboxLogCopy p s
  | .mailboxAttest p => Sys2Proof.Machine.execMailboxAttest p s
  | .mailboxImageFetch p v => Sys2Proof.Machine.execMailboxImageFetch p v s
  | .mailboxFenceClear p => Sys2Proof.Machine.execMailboxFenceClear p s
  | .mailboxActivate p => Sys2Proof.Machine.execMailboxActivate p s
  | .mailboxPowerLimit p => Sys2Proof.Machine.execMailboxPowerLimit p s
  | .mailboxRetrain p => Sys2Proof.Machine.execMailboxRetrain p s
  | .mailboxReportRead p => Sys2Proof.Machine.execMailboxReportRead p s
  | .i3cPrivateWrite addr data => Sys2Proof.Machine.execI3cPrivateWrite addr data s
  | .i3cPrivateRead addr n => Sys2Proof.Machine.execI3cPrivateRead addr n s
  | .i3cAddressAssign addr => Sys2Proof.Machine.execI3cAddressAssign addr s
  | .sensorPoll readings => Sys2Proof.Machine.execSensorPoll readings s
  | .powerAdjust watts => Sys2Proof.Machine.execPowerAdjust watts s
  | .deviceReset passes => Sys2Proof.Machine.execDeviceReset passes s
  | .exchangeCommandComplete h => Sys2Proof.Machine.execExchangeCommandComplete h s
  | .storeQueueDrain h => Sys2Proof.Machine.execStoreQueueDrain h s

end Sys2Proof.Machine
end

