-- ==== Sys2Proof/Machine/Agents.lean ====
section
/-! DEFINITION. Who moves next (log entry 12): a move that stands on the agenda, else a step that some unit of the package can take, shared
units in the order of 01 Table 01.5, else the hart whose turn it is (13 R276, R277); and a placed program's first state. -/

namespace Sys2Proof.Machine

/-! Candidates. -/

/-- The first candidate that is there. -/
def firstOf : List (Unit → Option Event) → Option Event
  | [] => none
  | c :: cs => match c () with | some i => some i | none => firstOf cs

/-- A step of a hart's unit, if it would change the hart. -/
def movesHart (s : State) (h : Nat) (f : State → State) (i : Event) : Option Event :=
  if getHart (f s) h != getHart s h then some i else none

/-- A step of an engine context, if it would change the holder's contexts. -/
def movesEng (s : State) (w : Holder) (f : State → State) (i : Event) : Option Event :=
  if getEng (f s) w != getEng s w then some i else none

/-- A step of the scheduler, if it would change a nest, a walker, a hart, a core or a saved context. -/
def movesSched (s : State) (f : State → State) (i : Event) : Option Event :=
  let t := f s
  if t.nests != s.nests || t.walkers != s.walkers || t.harts != s.harts || t.cores != s.cores || t.saved != s.saved then some i else none

/-- A step of a collective unit, if it would change a collective or a queue. -/
def movesColl (s : State) (f : State → State) (i : Event) : Option Event :=
  let t := f s
  if t.xctx != s.xctx || t.lens != s.lens || t.harts != s.harts || t.saved != s.saved then some i else none

/-- A step when a condition holds. -/
def whenever (b : Bool) (i : Event) : Option Event := if b then some i else none

/-! Shared units (01 Table 01.5). -/

/-- The n users of a shared unit from number lo on, in the order of their turns: the one after the user served last comes first. -/
def inTurn (s : State) (unit lo n : Nat) : List Nat := (List.range n).map (fun k => lo + (smGet 0 s.turns unit + k) % n)

/-- The cores that have a listed hart. -/
def busyCores (s : State) : List Nat := (s.harts.map (fun p => coreOf p.1)).eraseDups

/-- The clusters that a listed hart or a saved context belongs to. -/
def busyClusters (s : State) : List Nat :=
  (s.harts.map (fun p => clusterOf (coreOf p.1)) ++ s.saved.map (fun v => clusterOf (coreOf v.hart))).eraseDups

/-- The users of a cluster's engine with a hart number, as events name them: a saved context's commands come before its slot's. -/
def usersOf (s : State) (h : Nat) : List Nat := (s.saved.filter (fun v => v.hart == h)).map (fun v => 4096 + v.ctx) ++ [h]

/-- The K-step of a core's matrix array: round-robin by hart number among the harts whose command can move. -/
def arrayMove (s : State) (core : Nat) : Option Event :=
  firstOf ((inTurn s (arrayUnit core) (4 * core) 4).map (fun h => fun _ =>
    if (getHart s h).eng.mtxQ.isEmpty then none else movesHart s h (fun s => matrixKstep s h) (.matrixKstep h)))

/-- The line transfer that a user of the copy engine can make. -/
def copyMove (s : State) (n : Nat) : Option Event :=
  let w := holderOf n
  match (getEng s w).copyQ with
  | [] => none
  | c :: _ =>
    if c.total ≤ c.byte || !copyReady s w c || (match copyPkg s c c.byte with | some p => linkStalled s p 1 512 | none => false)
    then none
    else some (.copyTransfer n)

/-- The Lens command that a user of the Lens engine can complete. -/
def lensMove (s : State) (n : Nat) : Option Event :=
  let w := holderOf n
  if (getEng s w).lensQ.isEmpty then none else movesEng s w (fun s => lensComplete s w) (.lensCommandComplete n)

/-- The step of a cluster's engine: round-robin by hart number among the users that can move. -/
def clusterMove (s : State) (unit cluster : Nat) (f : State → Nat → Option Event) : Option Event :=
  firstOf ((inTurn s unit (32 * cluster) 32).flatMap (fun h => (usersOf s h).map (fun n => fun _ => f s n)))

/-- Steps of the units that harts share. -/
def sharedMove (s : State) : Option Event :=
  firstOf [
    fun _ => firstOf ((busyCores s).map (fun c => fun _ => arrayMove s c)),
    fun _ => firstOf ((busyClusters s).map (fun k => fun _ => clusterMove s (copyUnit k) k copyMove)),
    fun _ => firstOf ((busyClusters s).map (fun k => fun _ => clusterMove s (lensUnit k) k lensMove))]

/-- Whether an entry uses the run generator. -/
def usesGenerator (e : VEntry) : Bool := match e.instr with | .rgen .. => true | .rgenTop .. => true | .rmerge .. => true | _ => false

/-- The entry of the run generator that a hart can complete now. -/
def generatorEntry (s : State) (h : Nat) : Option VEntry :=
  match completable s h with
  | none => none
  | some n => ((getHart s h).viq.drop n).head?.filter usesGenerator

/-- Whether the run generator of a hart's core serves an older entry of another hart before the one that the hart could complete. -/
def generatorTaken (s : State) (h : Nat) : Bool :=
  match generatorEntry s h with
  | none => false
  | some e => s.harts.any (fun p => p.1 != h && coreOf p.1 == coreOf h && (generatorEntry s p.1).any (fun d => d.entered < e.entered))

/-! Steps of one hart. -/

/-- Steps of the engine contexts of a holder, numbered as events name it, that no other hart waits for. -/
def engineMove (s : State) (n : Nat) : Option Event :=
  let w := holderOf n
  let g := getEng s w
  firstOf [
    fun _ => match g.copyQ with
      | [] => none
      | c :: _ => whenever (copyReady s w c && c.total ≤ c.byte && !copyUnsure s (ctxOfHolder s w)) (.copyComplete n),
    fun _ => whenever (g.xchQ.any (fun c => xchDone s c.kind)) (.exchangeCommandComplete n)]

/-- Steps of the matrix context of a hart that do not take the array. -/
def matrixMove (s : State) (h : Nat) : Option Event :=
  if (getHart s h).eng.mtxQ.isEmpty then none
  else firstOf [
    fun _ => movesHart s h (fun s => matrixComplete s h) (.matrixComplete h),
    fun _ => movesHart s h (fun s => recordPoll s h) (.mmaciRecordPoll h),
    fun _ => movesHart s h (fun s => matrixRowOp s h) (.matrixRowOp h)]

/-- Steps of the VIQ of a hart and of its store queue. -/
def viqMove (s : State) (h : Nat) : Option Event :=
  let x := getHart s h
  firstOf [
    fun _ => whenever (!x.storeQ.isEmpty) (.storeQueueDrain h),
    fun _ => if x.viq.isEmpty then none
      else firstOf (
        [fun _ => movesHart s h (fun s => viqIssue s h) (.viqIssue h),
         fun _ => if generatorTaken s h then none else movesHart s h (fun s => vectorComplete s h) (.vectorComplete h),
         fun _ => movesHart s h (fun s => syncReturn s h) (.syncReadReturn h)] ++
        (List.range x.viq.length).flatMap (fun n =>
          [fun _ => movesHart s h (fun s => loadDataArrival s h n) (.loadDataArrival h n),
           fun _ => movesHart s h (fun s => vectorBeat s h n) (.vectorBeat h n)])),
    fun _ => firstOf (x.streams.map (fun p => fun _ => whenever (p.2.out && !p.2.pushed.isEmpty) (.streamDrain h p.1)))]

/-- Steps that a hart's own state asks for. -/
def ownMove (s : State) (h : Nat) : Option Event :=
  let x := getHart s h
  firstOf [
    fun _ => if x.pending.isSome then movesHart s h (fun s => takeTrap s h) (.takeTrap h) else none,
    fun _ => whenever (0 < x.colMoves) (.accColumnMove h),
    fun _ => match x.request with
      | some r => if x.halted.isSome then none else movesHart s h (fun s => haltRequest s h r) (.haltRequest h r)
      | none => none,
    fun _ => if x.halted.isSome then movesHart s h (fun s => contextSave s h) (.contextSave h) else none,
    fun _ => match x.wait with
      | .waitm .. => movesHart s h (fun s => waitmRecheck s h) (.waitmRecheck h)
      | .yield .. => movesHart s h (fun s => yieldRelease s h) (.yieldRelease h)
      | .none => none]

/-- Steps of a hart and its engine contexts. -/
def hartMoveOf (s : State) (h : Nat) : Option Event :=
  firstOf [fun _ => viqMove s h, fun _ => ownMove s h, fun _ => matrixMove s h, fun _ => engineMove s h]

/-- Steps of a live exchange context. -/
def exchangeMove (s : State) (slot : Nat) (c : XCtx) : Option Event :=
  firstOf [
    fun _ => firstOf ((c.flight.map (fun r => r.recv)).eraseDups.map (fun r => fun _ =>
      movesColl s (fun s => mergePass s slot r) (.mergePass slot r))),
    fun _ => firstOf (c.tails.map (fun p => fun _ => movesColl s (fun s => tailLand s slot p.1 p.2) (.tailLand slot p.1 p.2))),
    fun _ => whenever c.complete (.beaconRelease slot)]

/-- Steps of rendezvous, exchanges and Lens states. -/
def collectiveMove (s : State) : Option Event :=
  firstOf [
    fun _ => (s.xgather.find? xFull).map (fun g => .xopenRendezvous g.tag),
    fun _ => (s.qgather.find? qFull).map (fun g => .qopenRendezvous g.tag),
    fun _ => firstOf (s.xctx.map (fun p => fun _ => exchangeMove s p.1 p.2)),
    fun _ => firstOf (s.lens.flatMap (fun p =>
      [fun _ => movesColl s (fun s => lensStart s p.1) (.lensCommandStart p.1),
       fun _ => movesColl s (fun s => lensSwap s p.1) (.lensSwapSuperstep p.1)]))]

/-- Steps of a walker. -/
def walkerMove (s : State) (w : Nat) : Option Event :=
  firstOf (
    [0, 1, 2, 3].map (fun k => fun _ =>
      if (waitWordPoll s w k).nests != s.nests then some (Event.waitWordPoll w k) else none) ++
    [fun _ => movesSched s (fun s => contextResume s w) (.contextResume w),
     fun _ => movesSched s (fun s => walkerHandout s w) (.walkerHandout w)])

/-- Steps of the scheduler. -/
def schedulerMove (s : State) : Option Event :=
  firstOf [
    fun _ => firstOf (s.cores.map (fun p => fun _ =>
      match p.2.rebind with
      | some id => whenever (lanedHarts s p.1).isEmpty (.coreRebind p.1 id)
      | none => none)),
    fun _ => firstOf (s.cores.flatMap (fun p => [0, 1, 2, 3].map (fun j => fun _ =>
      if !(p.2.slice j).pend then none
      else whenever ((lpwaitExpiry s p.1 j).harts != s.harts) (.lpwaitExpiry p.1 j)))),
    fun _ => firstOf (s.nests.flatMap (fun p =>
      [fun _ => whenever (nestDone s p.1 p.2) (.nestStatusWrite p.1),
       fun _ => movesSched s (fun s => deadlineExpiry s p.1) (.deadlineExpiry p.1),
       fun _ => movesSched s (fun s => ageingTick s p.1) (.ageingTick p.1)])),
    fun _ => firstOf ((s.walkers.filter (fun p => p.2.nest.isSome)).map (fun p => fun _ => walkerMove s p.1))]

/-- The functions of the host port. -/
def allFns : List Fn := .pf :: (List.finRange 8).map Fn.vf

/-- The mailbox command that comes next, where it waits for nothing from outside. -/
def mailMove (s : State) (p : MailPort) : Option Event :=
  firstOf ([(1, Event.mailboxSensors p), (2, .mailboxLogCopy p), (3, .mailboxAttest p), (5, .mailboxFenceClear p), (6, .mailboxActivate p),
    (7, .mailboxPowerLimit p), (8, .mailboxRetrain p), (9, .mailboxReportRead p)].map (fun q => fun _ =>
      whenever (mailPending s p q.1) q.2))

/-- The mailboxes in the order in which the Keeper looks at them: its two streams interleave command by command (16 R354). -/
def mailOrder (s : State) : List MailPort :=
  let host := allFns.map MailPort.fn
  if s.keeper.lastOob then host ++ [.oob] else .oob :: host

/-- Steps at the edges of the package. -/
def edgeMove (s : State) : Option Event :=
  firstOf [
    fun _ => if s.events.isEmpty then none
      else firstOf (allFns.map (fun f => fun _ => whenever ((eventPost s f).events != s.events) (.eventPost f))),
    fun _ => if !s.hostmode.getLsbD 0 then none
      else firstOf (allFns.map (fun f => fun _ =>
        let t := keeperRequestServe s f
        whenever (t.harts != s.harts || t.keeper.seen != s.keeper.seen) (.keeperRequestServe f))),
    fun _ => if s.keeper.mailQ.isEmpty then none else firstOf ((mailOrder s).map (fun p => fun _ => mailMove s p)),
    fun _ => firstOf (s.ports.map (fun p => fun _ =>
      if (16 ≤ p.2.toAck || p.2.nakOut || !p.2.filling.isEmpty) && (linkAck s p.1).ports != s.ports then some (.linkAck p.1)
      else if p.2.resend && (linkNakReplay s p.1).ports != s.ports then some (.linkNakReplay p.1)
      else whenever ((linkRecoveryTimer s p.1).ports != s.ports) (.linkRecoveryTimer p.1)))]

/-- The step that some unit of the package takes next, if one can move. -/
def nextEvent? (s : State) : Option Event :=
  firstOf [
    fun _ => whenever (!s.owed.isEmpty) (.owedWriteLand 0 false),
    fun _ => firstOf (s.harts.map (fun p => fun _ => hartMoveOf s p.1)),
    fun _ => sharedMove s,
    fun _ => firstOf (s.saved.map (fun v => fun _ => engineMove s (4096 + v.ctx))),
    fun _ => collectiveMove s,
    fun _ => schedulerMove s,
    fun _ => edgeMove s]

/-! Turns of harts (13 R276, R277, R281, 03 R45, 15 R322). -/

/-- A fetch that faults: at the handler's address in supervisor mode no handler can run, and the context is discarded (15 R322, R327). -/
def fetchFault (s : State) (t : Trap) : State :=
  let x := curHart s
  if t.cause == .fetch && !x.user && x.pc == (x.csr.tvec &&& ~~~3#64) && !faultToHost s t then discardContext s x.ctx false (some x.saveSlot)
  else trapHere s t

/-- What a step does: nothing without power, an instruction or an event to run, or a move that is complete. -/
inductive Move where
  | off
  | run (i : Instr) (s : State)
  | event (e : Event) (s : State)
  | done (s : State)
  deriving DecidableEq, Repr

/-- The turn of the executing hart: a dispatcher's loop (14 R320), or the instruction at its pc; a word that is no instruction raises ILLEGAL
(03 R51). -/
def turn (s : State) : Move :=
  match (curHart s).role with
  | .dispatcher f => .done (if s.hostmode.getLsbD 0 then s else dispatchTurn s s.cur f)
  | .program =>
    match fetchWord s s.cur with
    | .error e => .done (fetchFault e.state e.trap)
    | .ok (w, s1) =>
      match decodeWord w with
      | .ok i => .run i s1
      | .error _ => .done (trapHere s1 { cause := .illegal, tval := word w, tval2 := 0 })

/-- Whether an instruction may leave a hart as it was although it has issued: one that can go to its own address. -/
def maySelfJump (i : Instr) : Bool :=
  match i with
  | .beq .. => true
  | .bne .. => true
  | .blt .. => true
  | .bge .. => true
  | .bltn .. => true
  | .bgen .. => true
  | .jmp .. => true
  | .jal .. => true
  | .jalr .. => true
  | .bstrip .. => true
  | .eret => true
  | _ => false

/-- Whether an instruction of hart h has left everything as it was that an instruction which has to wait may not change. -/
def stays (s t : State) (h : Nat) : Bool :=
  getHart t h == getHart s h && t.cores == s.cores && t.xctx == s.xctx && t.xgather == s.xgather && t.qgather == s.qgather && t.lens == s.lens &&
    t.groups == s.groups && t.nests == s.nests

/-- The state in which it is tried what hart h would do: TCAUSE holds a value that no trap leaves, so that a trap shows. -/
def trial (s : State) (h : Nat) : State :=
  let x := getHart s h
  putHart { s with cur := h } h { x with csr := { x.csr with tcause := 0xFFFFFFFFFFFFFFFF } }

/-- Whether ctxsave goes on: it waits for what it must wait for (15 R338), and else traps or writes its image. -/
def saveGoes (s : State) (a : BitVec 5) : Bool :=
  (curHart s).user || ((curHart s).getS a).toNat % 4096 != 0 || (match waitAll s with | .waits => false | _ => true)

/-- Whether an instruction issues at hart h: it does something, or may go to its own address. One that has to wait does nothing. -/
def instrIssues (s : State) (h : Nat) (i : Instr) : Bool :=
  match i with
  | .ctxsave a => saveGoes s a
  | _ => maySelfJump i || (match exec i s with | .next t => !stays s t h | .fault _ => true | .refused _ => true)

/-- Whether a hart is ready (13 R276): nothing holds it, and its next instruction can issue. -/
def issues (s : State) (h : Nat) : Bool :=
  readyHart (getHart s h) && (match turn (trial s h) with | .run i t => instrIssues t h i | _ => true)

/-- The ready harts by number. -/
def readyHarts (s : State) : List Nat := (s.harts.map (fun p => p.1)).filter (issues s)

/-- The hart of a list that has issued least recently; the first among equals. -/
def oldestHart (s : State) : List Nat → Option Nat
  | [] => none
  | h :: hs =>
    match oldestHart s hs with
    | none => some h
    | some k => if (getHart s k).lastIssue < (getHart s h).lastIssue then some k else some h

/-- The ready hart that has issued least recently; the lowest number among equals (13 R277). -/
def pickHart (s : State) : Option Nat := if s.boot.done then oldestHart s (readyHarts s) else none

/-- A yield's list cut down to harts that it still counts (13 R297). -/
def Wait.keep (w : Wait) (p : Nat → Bool) : Wait :=
  match w with
  | .yield others since => .yield (others.filter p) since
  | .none => .none
  | .waitm d a b => .waitm d a b

/-- Whether a hart waits at a yield. -/
def Wait.isYield (w : Wait) : Bool := match w with | .yield .. => true | _ => false

/-- Every hart's yield cut down to the harts of a list. -/
def keepYields (p : Nat → Bool) (m : SMap Hart) : SMap Hart := m.map (fun q => (q.1, { q.2 with wait := q.2.wait.keep p }))

/-- Yields stop counting a hart that has ceased to be ready (13 R297). -/
def settleYields (s : State) : State :=
  if s.harts.any (fun p => p.2.wait.isYield) then { s with harts := keepYields (readyHarts s).contains s.harts } else s

/-- The step counted, and the time that it takes (06 R137; log entry 6). -/
def tick (s : State) : State :=
  { settleYields s with steps := s.steps + 1, time := s.time + (Config.elapsedNs s.steps).setWidth 64 }

/-- The hart becomes the executing one; it has issued now. -/
def begin (s : State) (h : Nat) : State :=
  let t := tick s
  let x := getHart t h
  putHart { t with cur := h, ready := readyHarts s, harts := keepYields (fun k => k != h) t.harts } h { x with lastIssue := t.steps }

/-- The move of the hart whose turn it is, or an idle step. -/
def hartTurn (s : State) : Move :=
  match pickHart s with
  | some h => turn (begin s h)
  | none => .done (tick s)

/-- The move of a unit, or of the hart whose turn it is. -/
def ownTurn (s : State) : Move :=
  if s.relaxed && s.steps % 2 == 1 && (pickHart s).isSome then hartTurn s
  else
    match nextEvent? s with
    | some e => .event e (tick s)
    | none => hartTurn s

/-- Whether a step is a reset. -/
def isReset (i : Event) : Bool := match i with | .deviceReset _ => true | _ => false

/-- The next move of the package (log entry 12). -/
def chooseMove (s : State) : Move :=
  match s.agenda with
  | i :: rest =>
    if s.keeper.off && !isReset i then .off else .event i (tick { s with agenda := rest })
  | [] => if s.keeper.off then .off else ownTurn s

/-! A placed program (log entry 17). -/

/-- Where the next step fetches an instruction, if it fetches one: the oldest hart that nothing holds issues what stands there. -/
def fetchPlace (s : State) : Option Nat :=
  if !s.agenda.isEmpty || s.keeper.off || !s.boot.done || (nextEvent? s).isSome then none
  else
    match oldestHart s ((s.harts.filter (fun p => readyHart p.2)).map (fun p => p.1)) with
    | none => none
    | some h =>
      let x := getHart s h
      if x.role != .program then none
      else
        match access s (agentOf s h) x.pc 4 .fetch .front with
        | .ok (key, _) => if isPoisoned s key then none else some key
        | .error _ => none

/-- The physical addresses of the placed program: its root table, its second-level table, and its word. -/
def placeRoot : Nat := 0x20000000
def placeTable : Nat := 0x20010000
def placePc : Nat := 0x10000

/-- A word of memory written at a physical address of the interleaved window. -/
def placeWord (s : State) (pa v n : Nat) : State :=
  match windowKey pa with
  | some key => writeNat s 0 key v n
  | none => s

/-- The hart of a placed program, in the state of an iteration's start (06 R139). -/
def placedHart (ctx : Nat) : Hart :=
  let r := { Hart.reset with
    bound := true, ctx := ctx, pc := word placePc, famBase := 0x3F000000, back := 0x3F000000, saveSlot := 0x3E000000,
    csr := { Csrs.reset with ptroot := word placeRoot, vback := 0x3F000000, tvec := 0x20000 } }
  r.setS 30 0x30000000

/-- The state with hart 0 bound to a program at its start: the first GiB of memory mapped to itself, its four slices owned, and a word at
its pc. -/
def placeProgram (s : State) (w : Nat) : State :=
  let s1 := placeWord (placeWord (placeWord s placeRoot (placeTable + 1) 8) placeTable 447 8) placePc w 4
  let c := getCore s1 0
  let s2 := putHart (putCore s1 0 (c.give 0 [0, 1, 2, 3])) 0 (placedHart s1.nextCtx)
  { s2 with agenda := [], nextCtx := s2.nextCtx + 1, boot := { s2.boot with done := true } }

/-- A word stored where the next step fetches, or a program placed where it would fetch none. -/
def placeFetch (s : State) (w : Nat) : State :=
  match fetchPlace s with
  | some key => writeNat s 0 key w 4
  | none => placeProgram s w

end Sys2Proof.Machine
end

