-- ==== Sys2Proof/Machine/Events.lean ====
section
/-! DEFINITION. The meaning of an event: that of the constructor of Instr with its name. -/

namespace Sys2Proof.Machine

/-- What an event does. -/
def runEvent (e : Event) (st : State) : Out :=
  match e with
  | .cpyerrClear h => execCpyerrClear h st
  | .waitmRecheck h => execWaitmRecheck h st
  | .yieldRelease h => execYieldRelease h st
  | .viqIssue h => execViqIssue h st
  | .vectorBeat h n => execVectorBeat h n st
  | .loadDataArrival h n => execLoadDataArrival h n st
  | .vectorComplete h => execVectorComplete h st
  | .syncReadReturn h => execSyncReadReturn h st
  | .streamFetch h v => execStreamFetch h v st
  | .streamDrain h v => execStreamDrain h v st
  | .takeTrap h => execTakeTrap h st
  | .copyTransfer h => execCopyTransfer h st
  | .copyComplete h => execCopyComplete h st
  | .matrixKstep h => execMatrixKstep h st
  | .matrixRowOp h => execMatrixRowOp h st
  | .matrixComplete h => execMatrixComplete h st
  | .mmaciRecordPoll h => execMmaciRecordPoll h st
  | .accColumnMove h => execAccColumnMove h st
  | .lensCommandStart slot => execLensCommandStart slot st
  | .lensSwapSuperstep slot => execLensSwapSuperstep slot st
  | .lensCommandComplete h => execLensCommandComplete h st
  | .xopenRendezvous tag => execXopenRendezvous tag st
  | .qopenRendezvous tag => execQopenRendezvous tag st
  | .mergePass slot recv => execMergePass slot recv st
  | .tailLand slot sender recv => execTailLand slot sender recv st
  | .beaconRelease slot => execBeaconRelease slot st
  | .buoyProbe q waitsFor => execBuoyProbe q waitsFor st
  | .buoyTokenArrive q token waitsFor => execBuoyTokenArrive q token waitsFor st
  | .linkFlitReceive port f => execLinkFlitReceive port f st
  | .linkAck port => execLinkAck port st
  | .linkNakReplay port => execLinkNakReplay port st
  | .linkLaneLoss port loss => execLinkLaneLoss port loss st
  | .linkRetrainDone port ok => execLinkRetrainDone port ok st
  | .linkRecoveryTimer port => execLinkRecoveryTimer port st
  | .llcWriteBack stack line => execLlcWriteBack stack line st
  | .patrolScrub w r => execPatrolScrub w r st
  | .walkerHandout w => execWalkerHandout w st
  | .waitWordPoll w k => execWaitWordPoll w k st
  | .ageingTick nest => execAgeingTick nest st
  | .lpwaitExpiry core slice => execLpwaitExpiry core slice st
  | .haltRequest h r => execHaltRequest h r st
  | .contextSave h => execContextSave h st
  | .owedWriteLand k dataLost => execOwedWriteLand k dataLost st
  | .contextResume w => execContextResume w st
  | .coreRebind core nest => execCoreRebind core nest st
  | .deadlineExpiry nest => execDeadlineExpiry nest st
  | .nestStatusWrite nest => execNestStatusWrite nest st
  | .hostBarAccess fn req => execHostBarAccess fn req st
  | .hostAtomicop fn req => execHostAtomicop fn req st
  | .atsInvalidate range right => execAtsInvalidate range right st
  | .hostmodeWrite v => execHostmodeWrite v st
  | .eventPost fn => execEventPost fn st
  | .keeperRequestServe fn => execKeeperRequestServe fn st
  | .mailboxSensors p => execMailboxSensors p st
  | .mailboxLogCopy p => execMailboxLogCopy p st
  | .mailboxAttest p => execMailboxAttest p st
  | .mailboxImageFetch p v => execMailboxImageFetch p v st
  | .mailboxFenceClear p => execMailboxFenceClear p st
  | .mailboxActivate p => execMailboxActivate p st
  | .mailboxPowerLimit p => execMailboxPowerLimit p st
  | .mailboxRetrain p => execMailboxRetrain p st
  | .mailboxReportRead p => execMailboxReportRead p st
  | .i3cPrivateWrite addr data => execI3cPrivateWrite addr data st
  | .i3cPrivateRead addr n => execI3cPrivateRead addr n st
  | .i3cAddressAssign addr => execI3cAddressAssign addr st
  | .sensorPoll readings => execSensorPoll readings st
  | .powerAdjust watts => execPowerAdjust watts st
  | .deviceReset passes => execDeviceReset passes st
  | .exchangeCommandComplete h => execExchangeCommandComplete h st
  | .storeQueueDrain h => execStoreQueueDrain h st

end Sys2Proof.Machine
end

