-- ==== Sys2Proof/Machine/Step.lean ====
section
/-! DEFINITION. One step of the package, and where its next instruction lies. -/

namespace Sys2Proof.Machine

/-- One step: the move that chooseMove gives. -/
def step (s : State) : Host.Outcome State Fault Refusal :=
  match chooseMove s with
  | .off => .fault .powerRemoved
  | .run i t => exec i t
  | .event e t => runEvent e t
  | .done t => .next t

/-- The state with an instruction of the opcode table stored where the next step fetches. -/
def State.withFetchWord (s : State) (nbits w : Nat) : State := placeFetch s (w % 2 ^ nbits)

end Sys2Proof.Machine
end

