-- ==== Sys2Proof/Safety.lean ====
section
/-! DEFINITION. The terms in which statements speak of a run: power, the hart that executes, what one scalar instruction leaves, a trap
taken (15 R322), a vector instruction brought to its end (07 R142, 04 R88), and the canonical form of memory. -/

namespace Sys2Proof.Machine

/-- Power is on (16 R357). -/
def Powered (s : State) : Prop := s.keeper.off = false

/-- Memory is in its canonical form. -/
def MemoryFormed (s : State) : Prop := Memory.wf s.mem = true

/-! Scalar results (13 R278 to R281). -/

/-- s with its executing hart at a pc. -/
def atPc (s : State) (pc : Word) : State := putCur s { curHart s with pc := pc }

/-- s with its executing hart past one instruction. -/
def passed (s : State) : State := atPc s ((curHart s).pc + 4)

/-- s with register d of its executing hart holding v, past one instruction. -/
def scalarResult (s : State) (d : BitVec 5) (v : Word) : State := putCur s { (curHart s).setS d v with pc := (curHart s).pc + 4 }

/-- The atomic operations of 05 Table 05.1 on w-bit values: the new value from the old one and the operand. -/
def amoResult {w : Nat} (op : Nat) (old x : BitVec w) : BitVec w :=
  match op with
  | 0 => old + x
  | 1 => old &&& x
  | 2 => old ||| x
  | 3 => old ^^^ x
  | 4 => if x.slt old then x else old
  | 5 => if old.slt x then x else old
  | 6 => if x.ult old then x else old
  | 7 => if old.ult x then x else old
  | _ => x

/-- A register written by an instruction that changes nothing else but the pc (13 R278, R280, R281), if the instruction is one. -/
def registerOnly (i : Instr) : Option (BitVec 5) :=
  match i with
  | .add d _ _ => some d
  | .sub d _ _ => some d
  | .mul d _ _ => some d
  | .mulh d _ _ => some d
  | .mulhn d _ _ => some d
  | .div d _ _ => some d
  | .divn d _ _ => some d
  | .rem d _ _ => some d
  | .remn d _ _ => some d
  | .and d _ _ => some d
  | .or d _ _ => some d
  | .xor d _ _ => some d
  | .sll d _ _ => some d
  | .srl d _ _ => some d
  | .sra d _ _ => some d
  | .min d _ _ => some d
  | .max d _ _ => some d
  | .minn d _ _ => some d
  | .maxn d _ _ => some d
  | .clz d _ => some d
  | .ctz d _ => some d
  | .popc d _ => some d
  | .cmp d _ _ _ => some d
  | .csel d _ _ _ => some d
  | .lea d _ _ _ => some d
  | .addi d _ _ => some d
  | .andi d _ _ => some d
  | .ori d _ _ => some d
  | .xori d _ _ => some d
  | .lhi d _ _ => some d
  | .cmpi d _ _ _ => some d
  | .slli d _ _ => some d
  | .srli d _ _ => some d
  | .srai d _ _ => some d
  | .beq _ _ _ => some 0
  | .bne _ _ _ => some 0
  | .blt _ _ _ => some 0
  | .bge _ _ _ => some 0
  | .bltn _ _ _ => some 0
  | .bgen _ _ _ => some 0
  | .jmp _ => some 0
  | .jal _ => some 31
  | _ => none

/-! Traps (15 R322). -/

/-- s with a trap that no VIQ entry raised taken by its executing hart: the cause, TPC, TVAL and TVAL2 written, PMODE holding the mode, MODE
supervisor, VQ kept, the progress record clear, and the pc at TVEC.BASE × 4. -/
def trapTaken (s : State) (c : Cause) (tpc tval tval2 : Word) : State :=
  let x := curHart s
  putCur s { x with
    pc := x.csr.tvec &&& ~~~3#64, strip := { addr := 0, count := 0, strikes := 0 }, pending := none, wait := .none,
    csr := { x.csr with
      tcause := BitVec.ofNat 64 c.code, tpc := tpc &&& ~~~3#64, tval := tval, tval2 := tval2,
      tstatus := (if x.vq then 4 else 0) ||| (if x.user then 2 else 0) } }

/-- Nothing stands between the executing hart and a trap: no VIQ entry is older, and the host does not take it (16 R346). -/
def TrapsNow (s : State) (t : Trap) : Prop := (curHart s).viq = [] ∧ faultToHost s t = false

/-! Vector instructions. -/

/-- Fields of a vector instruction that name shape registers: sh, and K of vreshape. -/
def shapeFields (i : Instr) : Option (Nat × Nat) :=
  match i with
  | .bvany _ n _ => some (n.toNat, 0)
  | .bvnone _ n _ => some (n.toNat, 0)
  | .vldseg _ _ _ n _ _ => some (n.toNat, 0)
  | .vstseg _ _ _ n _ _ => some (n.toNat, 0)
  | .vadd _ _ _ n _ => some (n.toNat, 0)
  | .vsub _ _ _ n _ => some (n.toNat, 0)
  | .vmul _ _ _ n _ => some (n.toNat, 0)
  | .vmulh _ _ _ n _ => some (n.toNat, 0)
  | .vmacc _ _ _ n _ => some (n.toNat, 0)
  | .vsadd _ _ _ n _ => some (n.toNat, 0)
  | .vssub _ _ _ n _ => some (n.toNat, 0)
  | .vmin _ _ _ n _ => some (n.toNat, 0)
  | .vmax _ _ _ n _ => some (n.toNat, 0)
  | .vand _ _ _ n _ => some (n.toNat, 0)
  | .vor _ _ _ n _ => some (n.toNat, 0)
  | .vxor _ _ _ n _ => some (n.toNat, 0)
  | .vsll _ _ _ n _ => some (n.toNat, 0)
  | .vsrl _ _ _ n _ => some (n.toNat, 0)
  | .vsra _ _ _ n _ => some (n.toNat, 0)
  | .vmerge _ _ _ n _ => some (n.toNat, 0)
  | .vcmpEq _ _ _ n _ => some (n.toNat, 0)
  | .vcmpNe _ _ _ n _ => some (n.toNat, 0)
  | .vcmpLt _ _ _ n _ => some (n.toNat, 0)
  | .vcmpLe _ _ _ n _ => some (n.toNat, 0)
  | .vcmpGt _ _ _ n _ => some (n.toNat, 0)
  | .vcmpGe _ _ _ n _ => some (n.toNat, 0)
  | .vnshrTz _ _ _ n _ => some (n.toNat, 0)
  | .vnshrHu _ _ _ n _ => some (n.toNat, 0)
  | .vnshrHe _ _ _ n _ => some (n.toNat, 0)
  | .vnshrOd _ _ _ n _ => some (n.toNat, 0)
  | .vmv _ _ n _ => some (n.toNat, 0)
  | .vsplat _ _ n _ => some (n.toNat, 0)
  | .vid _ n _ => some (n.toNat, 0)
  | .viota _ _ n _ => some (n.toNat, 0)
  | .mand _ _ _ n => some (n.toNat, 0)
  | .mor _ _ _ n => some (n.toNat, 0)
  | .mxor _ _ _ n => some (n.toNat, 0)
  | .mandn _ _ _ n => some (n.toNat, 0)
  | .mpop _ _ n _ => some (n.toNat, 0)
  | .mfirst _ _ n _ => some (n.toNat, 0)
  | .vmovs _ _ _ n => some (n.toNat, 0)
  | .vins _ _ _ n => some (n.toNat, 0)
  | .vperm _ _ _ n _ => some (n.toNat, 0)
  | .vslideUp _ _ _ n _ => some (n.toNat, 0)
  | .vslideDn _ _ _ n _ => some (n.toNat, 0)
  | .vreshape _ _ k n _ => some (n.toNat, k.toNat)
  | .vbcast _ _ _ n _ => some (n.toNat, 0)
  | .vunpack _ _ n _ => some (n.toNat, 0)
  | .vlut _ _ _ n _ => some (n.toNat, 0)
  | .vexpand _ _ n _ => some (n.toNat, 0)
  | .vcompress _ _ n _ => some (n.toNat, 0)
  | .vfadd _ _ _ n _ => some (n.toNat, 0)
  | .vfsub _ _ _ n _ => some (n.toNat, 0)
  | .vfmul _ _ _ n _ => some (n.toNat, 0)
  | .vfma _ _ _ n _ => some (n.toNat, 0)
  | .vfms _ _ _ n _ => some (n.toNat, 0)
  | .vfnma _ _ _ n _ => some (n.toNat, 0)
  | .vfdiv _ _ _ n _ => some (n.toNat, 0)
  | .vfsqrt _ _ n _ => some (n.toNat, 0)
  | .vfmin _ _ _ n _ => some (n.toNat, 0)
  | .vfmax _ _ _ n _ => some (n.toNat, 0)
  | .vfcmpEq _ _ _ n _ => some (n.toNat, 0)
  | .vfcmpNe _ _ _ n _ => some (n.toNat, 0)
  | .vfcmpLt _ _ _ n _ => some (n.toNat, 0)
  | .vfcmpLe _ _ _ n _ => some (n.toNat, 0)
  | .vfcmpGt _ _ _ n _ => some (n.toNat, 0)
  | .vfcmpGe _ _ _ n _ => some (n.toNat, 0)
  | .vfcmpUn _ _ _ n _ => some (n.toNat, 0)
  | .vfsgnJ _ _ _ n _ => some (n.toNat, 0)
  | .vfsgnJn _ _ _ n _ => some (n.toNat, 0)
  | .vfsgnJx _ _ _ n _ => some (n.toNat, 0)
  | .vfclass _ _ n _ => some (n.toNat, 0)
  | .vfrcp _ _ n _ => some (n.toNat, 0)
  | .vfrsq _ _ n _ => some (n.toNat, 0)
  | .vfexp2 _ _ n _ => some (n.toNat, 0)
  | .vflog2 _ _ n _ => some (n.toNat, 0)
  | .vsettle _ _ n _ => some (n.toNat, 0)
  | .vtail _ _ n _ => some (n.toNat, 0)
  | .vcvt _ _ _ n _ => some (n.toNat, 0)
  | .vredsumOrd _ _ _ n _ => some (n.toNat, 0)
  | .vredsumTree _ _ n _ => some (n.toNat, 0)
  | .vredmax _ _ n _ => some (n.toNat, 0)
  | .vredmin _ _ n _ => some (n.toNat, 0)
  | .vargmax _ _ n _ => some (n.toNat, 0)
  | .vscanAdd _ _ n _ => some (n.toNat, 0)
  | .vscanMax _ _ n _ => some (n.toNat, 0)
  | .vtopk _ _ _ n _ => some (n.toNat, 0)
  | .rgen _ _ _ n _ => some (n.toNat, 0)
  | .rgenTop _ _ _ n _ => some (n.toNat, 0)
  | .rmerge _ _ _ n => some (n.toNat, 0)
  | .xsend _ _ _ n _ => some (n.toNat, 0)
  | .mext _ _ _ n _ => some (n.toNat, 0)
  | .mplane _ _ n _ => some (n.toNat, 0)
  | .vredAdd _ _ _ n _ _ => some (n.toNat, 0)
  | .vredMin _ _ _ n _ _ => some (n.toNat, 0)
  | .vredMax _ _ _ n _ _ => some (n.toNat, 0)
  | .vspill _ _ n => some (n.toNat, 0)
  | .vfill _ _ n => some (n.toNat, 0)
  | .vld _ _ _ n _ _ => some (n.toNat, 0)
  | .vst _ _ _ n _ _ => some (n.toNat, 0)
  | .vlds _ _ _ n _ _ => some (n.toNat, 0)
  | .vsts _ _ _ n _ _ => some (n.toNat, 0)
  | .vldx _ _ _ n _ _ => some (n.toNat, 0)
  | .vstx _ _ _ n _ _ => some (n.toNat, 0)
  | .vldw _ _ _ n _ _ => some (n.toNat, 0)
  | _ => none

/-- The entry that a vector instruction makes in the VIQ of the executing hart (07 R142): its captures, the next sequence number, and
nothing done yet; with the lines that its operation references (06 R134). -/
def vectorEntry (s : State) (i : Instr) : VEntry :=
  let f := (shapeFields i).getD (0, 0)
  let e : VEntry :=
    { instr := i, pc := (curHart s).pc, cap := captureOf s s.cur i f.1 f.2, seq := (curHart s).vseq, prog := .sweep 0, issued := false,
      inflight := [], flags := 0, lines := [], popped := 0, pushes := 0, entered := s.steps, cmds := (curHart s).eng.stamp }
  { e with lines := ((vopOf s s.cur e).map (fun op => opLines op e.cap)).getD [] }

/-- s with that entry in the VIQ and the front end past the instruction; at a synchronising read it stalls (07 R142, R143). -/
def vectorQueued (s : State) (i : Instr) : State :=
  let x := curHart s
  putCur s { x with
    viq := x.viq ++ [vectorEntry s i], vseq := x.vseq + 1, pc := if isSync i then x.pc else x.pc + 4 }

/-- The executing hart admits vector instruction i, whose operation is op: no image is held, what capture checks holds (03 R50, 05 R111),
and the VIQ has room. -/
def Admitted (s : State) (i : Instr) (op : VOp) : Prop :=
  Powered s ∧ (shapeFields i).isSome = true ∧ vopOf s s.cur (vectorEntry s i) = some op ∧ (curHart s).vq = false ∧
    op.legal (curHart s) (vectorEntry s i).cap = true ∧ streamsOk (curHart s) op (vectorEntry s i).cap = true ∧
    (curHart s).viq.length < 32 ∧ owedFor s (curHart s).ctx = false

/-- Vector instruction i is admitted at an empty VIQ, runs to its end at once, and issues: its lines can all be resident, they are in the
partition and HWM is raised in s2, where it is the one entry and no register is a stream (06 R133 to R135). -/
def Issues (s : State) (i : Instr) (op : VOp) (s2 : State) : Prop :=
  Admitted s i op ∧ s.relaxed = false ∧ (curHart s).viq = [] ∧ op.ready (vectorQueued s i) s.cur (vectorEntry s i) = true ∧
    canStart (vectorQueued s i) s.cur (vectorEntry s i).lines = true ∧ op.pre (vectorQueued s i) s.cur (vectorEntry s i) = none ∧
    issueEntry op (vectorQueued s i) s.cur (vectorEntry s i) = .ok s2 ∧ (getHart s2 s.cur).viq = [vectorEntry s i] ∧
    (getHart s2 s.cur).streams = [] ∧ (getHart s2 s.cur).sync = none

/-- No container of a hart is poisoned (04 R66). -/
def NoPoison (x : Hart) : Prop := ∀ p ∈ x.vreg, cPsn p.2 = false

/-- A hart with every position of a shape, row by row and element by element, given to f in turn (04 R88). -/
def sweepHart (sh : Word) (f : Hart → Nat → Nat → Hart) (x : Hart) : Hart :=
  (List.range (shRows sh * shVL sh)).foldl (fun x p => f x (p / shVL sh) (p % shVL sh)) x

/-- The older scalar stores of a hart performed before a vector instruction writes memory (12 R264). -/
def storesDone (s : State) (h : Nat) : State := if (getHart s h).storeQ.isEmpty then s else drainAll s h

/-- The same over a whole state. -/
def sweepState (sh : Word) (f : State → Nat → Nat → State) (s : State) : State :=
  (List.range (shRows sh * shVL sh)).foldl (fun s p => f s (p / shVL sh) (p % shVL sh)) s

/-- Position i of row r of a group that begins at register d (07 R147): zero in format fd at padding, as g gives it where the mask bit is 1,
and unchanged where it is 0. -/
def atPosition (sh : Word) (m fd d : Nat) (g : Hart → Nat → Nat → Hart) (x : Hart) (r i : Nat) : Hart :=
  if realLen sh ≤ i then x.zeroElem fd (d + r) i else if x.maskBit m i then g x r i else x

/-- s2 with hart h as y, whose one VIQ entry is freed (07 R142). -/
def vectorDone (s2 : State) (h : Nat) (y : Hart) : State := putHart s2 h { y with viq := [] }

/-- s2 with hart h as y after a synchronising read that returned v to register d (07 R143): the front end goes on past it. -/
def syncDone (s2 : State) (h : Nat) (y : Hart) (d : BitVec 5) (v : Word) : State :=
  putHart s2 h { ({ y with viq := [], sync := none } : Hart).setS d v with pc := y.pc + 4 }

/-! Element-wise vector instructions, as laws of one position. -/

/-- What an instruction does at a position of a shape: the shape it sweeps, its destination group and format, the mask that gates it, and
its change of the hart at an active position below VL − PAD. -/
structure ElementLaw where
  n     : Nat
  sweep : Capture → Word
  d     : Nat
  fd    : Nat → Nat
  gate  : Nat
  act   : Capture → Hart → Nat → Nat → Hart

/-- The state after vector instruction i with a law, issued in s2; at VL = 0 it does nothing (07 R149). -/
def lawDone (s s2 : State) (i : Instr) (l : ElementLaw) : State :=
  let c := (vectorEntry s i).cap
  let x := getHart s2 s.cur
  vectorDone s2 s.cur
    (if shVL c.shape = 0 then x else sweepHart (l.sweep c) (atPosition (l.sweep c) l.gate (l.fd (shFmt c.shape)) l.d (l.act c)) x)

/-- The law of an instruction that sweeps its captured shape and writes its captured format. -/
def plainLaw (d : BitVec 5) (n m : BitVec 3) (act : Capture → Hart → Nat → Nat → Hart) : ElementLaw :=
  { n := n.toNat, sweep := fun c => c.shape, d := d.toNat, fd := id, gate := m.toNat, act := act }

/-- An unpoisoned element with tail 0b00. -/
def plainElem (v : Nat) : Elem := { bits := v, tail := 0, tail2 := 0, psn := false }

/-- The value of a w-bit pattern. -/
def patValue (signed : Bool) (w p : Nat) : Int := if signed && 2 ^ (w - 1) ≤ p then (p : Int) - (2 ^ w : Nat) else p

/-- The low w bits of an integer. -/
def patOf (w : Nat) (z : Int) : Nat := (z % (2 ^ w : Nat)).toNat

/-- An exact integer clamped to w bits, with SAT (02 R19). -/
def patClamp (signed : Bool) (w : Nat) (z : Int) : Nat × Flags :=
  let lo : Int := if signed then -(2 ^ (w - 1) : Nat) else 0
  let hi : Int := if signed then (2 ^ (w - 1) : Nat) - 1 else (2 ^ w : Nat) - 1
  if z < lo then (patOf w lo, flagSAT) else if hi < z then (patOf w hi, flagSAT) else (patOf w z, 0)

/-- A law of two operands on the bits of their elements: width and signedness of the format, the bits of a and of b. -/
def binaryLaw (d a b : BitVec 5) (n m : BitVec 3) (g : Nat → Bool → Nat → Nat → Nat × Flags) : ElementLaw :=
  plainLaw d n m (fun c x r i =>
    let f := shFmt c.shape
    let z := g (fmtWidth f) (decide (f < 4)) (x.elem f (a.toNat + r) i).bits (x.elem f (b.toNat + r) i).bits
    (x.setElem f (d.toNat + r) i (plainElem z.1)).addFlags z.2)

/-- The instructions of 07 Table 07.3. -/
def integerLaw (i : Instr) : Option ElementLaw :=
  match i with
  | .vadd d a b n m => some (binaryLaw d a b n m (fun w _ p q => ((p + q) % 2 ^ w, 0)))
  | .vsub d a b n m => some (binaryLaw d a b n m (fun w _ p q => ((p + 2 ^ w - q) % 2 ^ w, 0)))
  | .vmul d a b n m => some (binaryLaw d a b n m (fun w _ p q => (p * q % 2 ^ w, 0)))
  | .vmulh d a b n m => some (binaryLaw d a b n m (fun w g p q => (patOf w (patValue g w p * patValue g w q / (2 ^ w : Nat)), 0)))
  | .vsadd d a b n m => some (binaryLaw d a b n m (fun w g p q => patClamp g w (patValue g w p + patValue g w q)))
  | .vssub d a b n m => some (binaryLaw d a b n m (fun w g p q => patClamp g w (patValue g w p - patValue g w q)))
  | .vmin d a b n m => some (binaryLaw d a b n m (fun w g p q => (if patValue g w p ≤ patValue g w q then p else q, 0)))
  | .vmax d a b n m => some (binaryLaw d a b n m (fun w g p q => (if patValue g w p ≤ patValue g w q then q else p, 0)))
  | .vand d a b n m => some (binaryLaw d a b n m (fun _ _ p q => (p &&& q, 0)))
  | .vor d a b n m => some (binaryLaw d a b n m (fun _ _ p q => (p ||| q, 0)))
  | .vxor d a b n m => some (binaryLaw d a b n m (fun _ _ p q => (p ^^^ q, 0)))
  | .vsll d a b n m => some (binaryLaw d a b n m (fun w _ p q => (p * 2 ^ (q % w) % 2 ^ w, 0)))
  | .vsrl d a b n m => some (binaryLaw d a b n m (fun w _ p q => (p / 2 ^ (q % w), 0)))
  | .vsra d a b n m => some (binaryLaw d a b n m (fun w _ p q => (patOf w (patValue true w p / (2 ^ (q % w) : Nat)), 0)))
  | _ => none

/-- x / 2^s, brought to an integer as a rounding of vnshr says (07 Table 07.4). -/
def narrowed (rm : Nat) (x : Int) (s : Nat) : Int :=
  let q := x / (2 ^ s : Nat)
  let r := x % (2 ^ s : Nat)
  match rm with
  | 0 => x.tdiv (2 ^ s : Nat)
  | 1 => if (2 ^ s : Nat) ≤ 2 * r then q + 1 else q
  | 2 => if (2 ^ s : Nat) < 2 * r ∨ ((2 ^ s : Nat) = 2 * r ∧ q % 2 = 1) then q + 1 else q
  | _ => if r ≠ 0 ∧ q % 2 = 0 then q + 1 else q

/-- vnshr (07 R153). -/
def narrowLaw (d a b : BitVec 5) (n m : BitVec 3) (rm : Nat) : ElementLaw :=
  plainLaw d n m (fun c x r i =>
    let f := shFmt c.shape
    let w := fmtWidth f
    let g := decide (f < 4)
    let v := patValue g (2 * w) (x.elem (f + 1) (a.toNat + r) i).bits
    let z := patClamp g w (narrowed rm v (cData (x.getC (b.toNat + r) i) % (2 * w)))
    (x.setElem f (d.toNat + r) i (plainElem z.1)).addFlags z.2)

/-- vmacc and vnshr (07 R152, R153). -/
def widthLaw (i : Instr) : Option ElementLaw :=
  match i with
  | .vmacc d a b n m => some { plainLaw d n m (fun c x r i =>
      let f := shFmt c.shape
      let w := fmtWidth f
      let g := decide (f < 4)
      let old := patValue g (2 * w) (x.elem (f + 1) (d.toNat + r) i).bits
      let z := patClamp g (2 * w) (old + patValue g w (x.elem f (a.toNat + r) i).bits * patValue g w (x.elem f (b.toNat + r) i).bits)
      (x.setElem (f + 1) (d.toNat + r) i (plainElem z.1)).addFlags z.2) with fd := id }
  | .vnshrTz d a b n m => some (narrowLaw d a b n m 0)
  | .vnshrHu d a b n m => some (narrowLaw d a b n m 1)
  | .vnshrHe d a b n m => some (narrowLaw d a b n m 2)
  | .vnshrOd d a b n m => some (narrowLaw d a b n m 3)
  | _ => none

/-- vmv of an unpacked format, vmerge, vsplat, vid and viota (07 R155). -/
def placeLaw (i : Instr) : Option ElementLaw :=
  match i with
  | .vmv d a n m => some (plainLaw d n m (fun c x r i => x.moveElem (shFmt c.shape) (d.toNat + r) i x (a.toNat + r) i))
  | .vmerge d a b n m => some (plainLaw d n 0 (fun c x r i =>
      x.moveElem (shFmt c.shape) (d.toNat + r) i x ((if x.maskBit m.toNat i then a else b).toNat + r) i))
  | .vsplat d _ n m => some (plainLaw d n m (fun c x r i => x.setElem (shFmt c.shape) (d.toNat + r) i (plainElem c.sa.toNat)))
  | .vid d n m => some (plainLaw d n m (fun c x r i =>
      x.setElem (shFmt c.shape) (d.toNat + r) i (plainElem (i % 2 ^ fmtWidth (shFmt c.shape)))))
  | .viota d a n m => some (plainLaw d n m (fun c x r i =>
      let k := ((List.range i).filter (fun j => x.maskBit m.toNat j && x.maskBit a.toNat j)).length
      x.setElem (shFmt c.shape) (d.toNat + r) i (plainElem (k % 2 ^ fmtWidth (shFmt c.shape)))))
  | _ => none

/-- Element k of row r of group a moved to position i of group d, or zero where k lies outside the row's real length. -/
def fetched (c : Capture) (d a : BitVec 5) (x : Hart) (r i k : Nat) : Hart :=
  if k < realLen c.shape then x.moveElem (shFmt c.shape) (d.toNat + r) i x (a.toNat + r) k
  else x.zeroElem (shFmt c.shape) (d.toNat + r) i

/-- The permutes (07 R159 to R163). -/
def permuteLaw (i : Instr) : Option ElementLaw :=
  match i with
  | .vperm d a b n m => some (plainLaw d n m (fun c x r i => fetched c d a x r i (cData (x.getC (b.toNat + r) i))))
  | .vslideUp d a _ n m => some (plainLaw d n m (fun c x r i =>
      if c.sb.toNat ≤ i then x.moveElem (shFmt c.shape) (d.toNat + r) i x (a.toNat + r) (i - c.sb.toNat) else x))
  | .vslideDn d a _ n m => some (plainLaw d n m (fun c x r i => fetched c d a x r i (i + c.sb.toNat)))
  | .vbcast d a _ n m => some (plainLaw d n m (fun c x r i => fetched c d a x r i c.sb.toNat))
  | .vreshape d a _ n m => some { plainLaw d n m (fun c x r i =>
      let q := r * realLen c.shapeK + i
      let l := realLen c.shape
      if q < shRows c.shape * l then x.moveElem (shFmt c.shape) (d.toNat + r) i x (a.toNat + q / l) (q % l)
      else x.zeroElem (shFmt c.shape) (d.toNat + r) i) with sweep := fun c => c.shapeK }
  | .vunpack d a n m => some { plainLaw d n m (fun c x r i =>
      let p := x.elem (shFmt c.shape) (a.toNat + r) i
      match (elemVal (shFmt c.shape) p.bits 0).1 with
      | .int z => (x.setElem 0 (d.toNat + r) i (plainElem (patOf 8 z))).addFlags (elemVal (shFmt c.shape) p.bits 0).2
      | .fp y => x.setElem 12 (d.toNat + r) i (plainElem (writeRto fFP32 y).code)) with fd := fun _ => 6 }
  | .vlut d a b n m => some { plainLaw d n m (fun c x r i =>
      let k := (x.elem (shFmt c.shape) (a.toNat + r) i).bits
      x.setC (d.toNat + r) i (if k < 128 * c.slices then x.getC b.toNat k else 0)) with fd := fun _ => 6 }
  | .vexpand d a n m => some (plainLaw d n m (fun c x r i =>
      let k := ((List.range i).filter (fun j => x.maskBit m.toNat j)).length
      x.moveElem (shFmt c.shape) (d.toNat + r) i x (a.toNat + r) k))
  | .vcompress d a n m => some (plainLaw d n 0 (fun c x r i =>
      match (((List.range (realLen c.shape)).filter (fun j => x.maskBit m.toNat j)).drop i).head? with
      | some k => x.moveElem (shFmt c.shape) (d.toNat + r) i x (a.toNat + r) k
      | none => x.zeroElem (shFmt c.shape) (d.toNat + r) i))
  | _ => none

/-- A law that writes the element and flags which g gives from the elements of some groups at the position. -/
def elementsLaw (d : BitVec 5) (srcs : List (BitVec 5)) (n m : BitVec 3) (g : Nat → Word → List Elem → Elem × Flags) : ElementLaw :=
  plainLaw d n m (fun c x r i =>
    let f := shFmt c.shape
    let z := g f c.fpctl (srcs.map (fun v => x.elem f (v.toNat + r) i))
    (x.setElem f (d.toNat + r) i z.1).addFlags z.2)

/-- Two operands combined part by part, each part written under FPCTL (08 R164, 02 R30, R34). -/
def byParts (g : FVal → FVal → FRes) (f : Nat) (fpctl : Word) (es : List Elem) : Elem × Flags :=
  match es with
  | [p, q] => elemOfParts f fpctl ((List.zip (partsOf f p) (partsOf f q)).map (fun v => g v.1 v.2))
  | _ => (Elem.zero, 0)

/-- ±(A × B) ± C (08 R167, R168). -/
def fusedLaw (d a b : BitVec 5) (n m : BitVec 3) (negP negC : Bool) : ElementLaw :=
  elementsLaw d [a, b, d] n m (fun f fpctl es =>
    let dn := decide (fpctl.toNat % 8 = 2)
    let sg := fun (neg : Bool) (v : FVal) => if neg then fNeg v else v
    match es with
    | [p, q, c] =>
      if f = 13 then
        elemOfParts f fpctl (complexMul dn negP (partsOf f p) (partsOf f q) (some ((partsOf f c).map (sg negC), partsOf f c)))
      else elemOfParts f fpctl [fMulAdd dn (sg negP (valOf f p)) (valOf f q) (sg negC (valOf f c))]
    | _ => (Elem.zero, 0))

/-- The arithmetic of 08 Table 08.2. -/
def floatLaw (i : Instr) : Option ElementLaw :=
  match i with
  | .vfadd d a b n m => some (elementsLaw d [a, b] n m (fun f c es => byParts (fAdd (decide (c.toNat % 8 = 2))) f c es))
  | .vfsub d a b n m => some (elementsLaw d [a, b] n m (fun f c es => byParts (fSub (decide (c.toNat % 8 = 2))) f c es))
  | .vfmul d a b n m => some (elementsLaw d [a, b] n m (fun f c es =>
      match es with
      | [p, q] =>
        if f = 13 then elemOfParts f c (complexMul (decide (c.toNat % 8 = 2)) false (partsOf f p) (partsOf f q) none)
        else elemOfParts f c [fMul (valOf f p) (valOf f q)]
      | _ => (Elem.zero, 0)))
  | .vfma d a b n m => some (fusedLaw d a b n m false false)
  | .vfms d a b n m => some (fusedLaw d a b n m false true)
  | .vfnma d a b n m => some (fusedLaw d a b n m true false)
  | .vfdiv d a b n m => some (elementsLaw d [a, b] n m (byParts fDiv))
  | .vfsqrt d a n m => some (elementsLaw d [a] n m (fun f c es =>
      match es with
      | [p] => elemOfParts f c [fSqrt (valOf f p)]
      | _ => (Elem.zero, 0)))
  | _ => none

/-- A signalling NaN among two operands raises NV. -/
def sigFlag (f : Nat) (p q : Elem) : Flags := if isSig (valOf f p) || isSig (valOf f q) then flagNV else 0

/-- An estimate (08 R173): the function's exact value with its flags, NaNs by 02 R39, at the estimate's precision. -/
def estimateLaw (d a : BitVec 5) (n m : BitVec 3) (g : FVal → FRes) : ElementLaw :=
  elementsLaw d [a] n m (fun f _ es =>
    match es with
    | [p] =>
      let y := withNan [valOf f p] (g (valOf f p))
      ((estWrite f y.1).1, y.2 ||| (estWrite f y.1).2)
    | _ => (Elem.zero, 0))

/-- vfmin and vfmax (08 R169). -/
def chooseLaw (d a b : BitVec 5) (n m : BitVec 3) (wantMax : Bool) : ElementLaw :=
  elementsLaw d [a, b] n m (fun f c es =>
    match es with
    | [p, q] =>
      let z := writeChosen f c (chooseF f wantMax p q)
      (z.1, z.2 ||| sigFlag f p q)
    | _ => (Elem.zero, 0))

/-- vfsgn (08 R171): a's element under the sign that g gives from both signs; a NaN is not quieted. -/
def signLaw (d a b : BitVec 5) (n m : BitVec 3) (g : Bool → Bool → Bool) : ElementLaw :=
  elementsLaw d [a, b] n m (fun f c es =>
    match es with
    | [p, q] =>
      let w := fmtWidth f
      let y : Elem := { p with bits := p.bits % 2 ^ (w - 1) + if g (p.bits.testBit (w - 1)) (q.bits.testBit (w - 1)) then 2 ^ (w - 1) else 0 }
      if isNan (valOf f y) then (y, 0) else writeChosen f c y
    | _ => (Elem.zero, 0))

/-- Minimum, maximum, signs, classes, estimates, settling, tails and conversions (08 R169 to R178). -/
def floatMoveLaw (i : Instr) : Option ElementLaw :=
  match i with
  | .vfmin d a b n m => some (chooseLaw d a b n m false)
  | .vfmax d a b n m => some (chooseLaw d a b n m true)
  | .vfsgnJ d a b n m => some (signLaw d a b n m (fun _ t => t))
  | .vfsgnJn d a b n m => some (signLaw d a b n m (fun _ t => !t))
  | .vfsgnJx d a b n m => some (signLaw d a b n m (fun p t => xor p t))
  | .vfclass d a n m => some { plainLaw d n m (fun c x r i =>
      let f := shFmt c.shape
      x.setC (d.toNat + r) i (mkC false 0 (classOf f (x.elem f (a.toNat + r) i)))) with fd := fun _ => 6 }
  | .vfrcp d a n m => some (estimateLaw d a n m rcpF)
  | .vfrsq d a n m => some (estimateLaw d a n m rsqF)
  | .vfexp2 d a n m => some (estimateLaw d a n m exp2F)
  | .vflog2 d a n m => some (estimateLaw d a n m log2F)
  | .vsettle d a n m => some (elementsLaw d [a] n m (fun f c es =>
      match es with
      | [p] => elemOfParts f (c ||| 8) ((partsOf f p).map (fun v => (v, (0 : Flags))))
      | _ => (Elem.zero, 0)))
  | .vtail d a n m => some (plainLaw d n m (fun c x r i =>
      let t := fun k => mkC false 0 (cTail (x.getC (a.toNat + r) k))
      if shFmt c.shape = 13 then (x.setC (d.toNat + r) (2 * i) (t (2 * i))).setC (d.toNat + r) (2 * i + 1) (t (2 * i + 1))
      else x.setC (d.toNat + r) i (t i)))
  | .vcvt d a t n m => some { plainLaw d n m (fun c x r i =>
      let f := shFmt c.shape
      let p := x.elem f (a.toNat + r) i
      let v := elemVal f p.bits p.tail
      let z := writeElem t.toNat c.fpctl v.1
      (x.setElem t.toNat (d.toNat + r) i z.1).addFlags (v.2 ||| z.2)) with fd := fun _ => t.toNat }
  | _ => none

/-! Compares, reductions and scans. -/

/-- The comparisons (07 R154, 08 Table 08.3): destination mask, operands, shape, gate, and the bit and flags of one pair of elements. -/
def compareLaw (i : Instr) :
    Option (BitVec 5 × BitVec 5 × BitVec 5 × BitVec 3 × BitVec 3 × (Nat → Elem → Elem → Bool × Flags)) :=
  let iv := fun (f : Nat) (p : Elem) => patValue (decide (f < 4)) (fmtWidth f) p.bits
  let loud := fun (f : Nat) (p q : Elem) => if isNan (valOf f p) || isNan (valOf f q) then flagNV else (0 : Flags)
  let ord := fun (f : Nat) (p q : Elem) => fcompare (valOf f p) (valOf f q)
  match i with
  | .vcmpEq d a b n m => some (d, a, b, n, m, fun f p q => (decide (iv f p = iv f q), 0))
  | .vcmpNe d a b n m => some (d, a, b, n, m, fun f p q => (decide (iv f p ≠ iv f q), 0))
  | .vcmpLt d a b n m => some (d, a, b, n, m, fun f p q => (decide (iv f p < iv f q), 0))
  | .vcmpLe d a b n m => some (d, a, b, n, m, fun f p q => (decide (iv f p ≤ iv f q), 0))
  | .vcmpGt d a b n m => some (d, a, b, n, m, fun f p q => (decide (iv f q < iv f p), 0))
  | .vcmpGe d a b n m => some (d, a, b, n, m, fun f p q => (decide (iv f q ≤ iv f p), 0))
  | .vfcmpEq d a b n m => some (d, a, b, n, m, fun f p q => (decide (ord f p q = .eq), sigFlag f p q))
  | .vfcmpNe d a b n m => some (d, a, b, n, m, fun f p q => (decide (ord f p q ≠ .eq), sigFlag f p q))
  | .vfcmpLt d a b n m => some (d, a, b, n, m, fun f p q => (decide (ord f p q = .lt), loud f p q))
  | .vfcmpLe d a b n m => some (d, a, b, n, m, fun f p q => (decide (ord f p q = .lt ∨ ord f p q = .eq), loud f p q))
  | .vfcmpGt d a b n m => some (d, a, b, n, m, fun f p q => (decide (ord f p q = .gt), loud f p q))
  | .vfcmpGe d a b n m => some (d, a, b, n, m, fun f p q => (decide (ord f p q = .gt ∨ ord f p q = .eq), loud f p q))
  | .vfcmpUn d a b n m => some (d, a, b, n, m, fun f p q => (decide (ord f p q = .un), sigFlag f p q))
  | _ => none

/-- The mask operations (07 R156). -/
def maskLaw (i : Instr) : Option (BitVec 5 × BitVec 5 × BitVec 5 × BitVec 3 × (Bool → Bool → Bool)) :=
  match i with
  | .mand d a b n => some (d, a, b, n, fun p q => p && q)
  | .mor d a b n => some (d, a, b, n, fun p q => p || q)
  | .mxor d a b n => some (d, a, b, n, fun p q => xor p q)
  | .mandn d a b n => some (d, a, b, n, fun p q => p && !q)
  | _ => none

/-- The active elements of row r of group a, with their indices. -/
def actives (c : Capture) (m : Nat) (x : Hart) (a : BitVec 5) (r : Nat) : List (Nat × Elem) :=
  ((List.range (realLen c.shape)).filter (fun i => x.maskBit m i)).map (fun i => (i, x.elem (shFmt c.shape) (a.toNat + r) i))

/-- A hart with each row of a shape given to f in turn. -/
def rowsDone (sh : Word) (f : Hart → Nat → Hart) (x : Hart) : Hart := (List.range (shRows sh)).foldl f x

/-- The reductions of a row into element 0 (08 R180, R181): group d, group a, shape, gate, and the result of a row. -/
def reduceLaw (i : Instr) :
    Option (BitVec 5 × BitVec 5 × BitVec 3 × BitVec 3 × (Capture → Hart → Nat → List (Nat × Elem) → Elem × Flags)) :=
  let best := fun (wantMax : Bool) (c : Capture) (_ : Hart) (_ : Nat) (es : List (Nat × Elem)) =>
    let f := shFmt c.shape
    let sig : Flags := if fmtFloat f && es.any (fun p => isSig (valOf f p.2)) then flagNV else 0
    match es.filter (fun p => !(fmtFloat f && isNan (valOf f p.2))), es with
    | p :: ps, _ =>
      let z := writeChosen f c.fpctl (ps.foldl (fun b q => if replaces f wantMax b q.2 then q.2 else b) p.2)
      (z.1, z.2 ||| sig)
    | [], p :: _ => ((writeChosen f c.fpctl p.2).1, (writeChosen f c.fpctl p.2).2 ||| sig)
    | [], [] =>
      (plainElem (if fmtInt f then bitsOfInt f (if wantMax then intLo f else intHi f) else (fpOf f).infCode wantMax), (0 : Flags))
  match i with
  | .vredsumOrd d a b n m => some (d, a, n, m, fun c x r es =>
      let f := shFmt c.shape
      let i0 := x.elem f (b.toNat + r) 0
      if es.isEmpty then rewriteElem f c.fpctl i0
      else es.foldl (fun acc e => ((addElem f c.fpctl acc.1 e.2).1, acc.2 ||| (addElem f c.fpctl acc.1 e.2).2)) (i0, 0))
  | .vredsumTree d a n m => some (d, a, n, m, fun c _ _ es =>
      match es with
      | [p] => rewriteElem (shFmt c.shape) c.fpctl p.2
      | _ =>
        let z := treeSum (shFmt c.shape) c.fpctl 10
          ((List.range (shVL c.shape)).map (fun i => (es.find? (fun e => e.1 == i)).map (fun e => e.2)), 0)
        match z.1 with
        | [some y] => (y, z.2)
        | _ => (Elem.zero, z.2))
  | .vredmax d a n m => some (d, a, n, m, best true)
  | .vredmin d a n m => some (d, a, n, m, best false)
  | _ => none

/-- The scans (08 R183), with the step that takes the running result and the next element. -/
def scanLaw (i : Instr) : Option (BitVec 5 × BitVec 5 × BitVec 3 × BitVec 3 × (Nat → Word → Elem → Elem → Elem × Flags)) :=
  match i with
  | .vscanAdd d a n m => some (d, a, n, m, addElem)
  | .vscanMax d a n m => some (d, a, n, m, fun f c p q =>
      if fmtInt f then (if intOf f p.bits < intOf f q.bits then q else p, 0)
      else
        let z := writeChosen f c (chooseF f true p q)
        (z.1, z.2 ||| sigFlag f p q))
  | _ => none

/-! TLBs and context images (15 R339, R340). -/

/-- t is s past one instruction, with the entries that gone names left out of every TLB; no register and no byte of memory has changed. -/
def TlbsWithout (s t : State) (gone : TlbEntry → Bool) : Prop :=
  (∀ c : Nat, getCore t c = { getCore s c with tlb := (getCore s c).tlb.filter (fun e => !gone e) }) ∧
  (∀ c : Nat, getCluster t c = { getCluster s c with tlb := (getCluster s c).tlb.filter (fun e => !gone e) }) ∧
  t.harts = (passed s).harts ∧ t.mem = s.mem

/-- A hart holds the registers of an image, given as its 8-byte words (15 Table 15.5): the scalar registers from 0x0040, the masks from 0x0140,
the shape registers from 0x0340, NESTID and DEADLINE at 0x0028, and the system registers from 0x0380, in their writable fields. By ctxrest MODE
is supervisor, VQ says whether the image has VIQ entries, and TPC is the image's PC unless the image held its VIQ (R339). -/
def HoldsImage (y : Hart) (ws : List Nat) : Prop :=
  let w := fun (i : Nat) => (BitVec.ofNat 64 (ws.getD i 0) : Word)
  (∀ r : BitVec 5, y.getS r = if r = 0 then 0 else w (8 + r.toNat)) ∧
  (∀ m < 8, ∀ k < 8, m ≠ 0 → (y.getM m).extractLsb' (64 * k) 64 = w (40 + 8 * m + k)) ∧
  (∀ n < 8, y.getSh n = w (104 + n) &&& 0x1FFFFFFFF#64) ∧
  y.csr = {
    fpctl := (w 112 &&& 8) ||| (if (w 112).toNat % 8 < 5 then w 112 &&& 7 else 0), fpflags := w 113 &&& 0x3F, nestid := w 5 &&& 0xFFFF,
    deadline := w 6, tvec := w 114 &&& ~~~3#64, tcause := w 115 &&& 0x800000000000003F#64,
    tpc := (if (w 119).getLsbD 2 then w 116 else w 1) &&& ~~~3#64, tval := w 117, tval2 := w 118,
    tstatus := (if 0 < ws.getD 512 0 / 2 ^ 32 % 64 then 4 else 0) ||| (if (w 119).getLsbD 1 then 2 else 0), residx := w 120 &&& 0xFFF,
    viqpos := w 121 &&& 0x1FFFFF, hwm := w 122 &&& 0x3FFFFFFFF#64,
    vback := ((w 123).extractLsb' 12 44 ++ (0 : BitVec 12)).signExtend 64, ptroot := w 124 &&& 0x000FFFFFFFFFFFFF#64, cpyerr := w 125,
    resthr := w 126 &&& 0xFFFFFFFF#64 } ∧
  y.strip = { addr := 0, count := 0, strikes := 0 }

/-! Vector memory accesses. -/

/-- Positions of a shape given to f in turn, as long as each answers a state. -/
def sweepTo (sh : Word) (f : State → Nat → Nat → Option State) (s : State) : Option State :=
  (List.range (shRows sh * shVL sh)).foldl (fun o p => o.bind (fun s => f s (p / shVL sh) (p % shVL sh))) (some s)

/-- The data that a load fetches at a position, in order: field, address, first bit, scale address, and whether it gathers (05 R96 to R105). -/
def loadPlaces (i : Instr) (c : Capture) (x : Hart) (r k : Nat) : List (Nat × Word × Nat × Option Word × Bool) :=
  let p := r * shVL c.shape + k
  match i with
  | .vld _ _ b _ _ f =>
    let u := unitPlace f.toNat (shBofs c.shape) (c.sa + BitVec.ofNat 64 (64 * b.toNat)) p
    [(0, u.1, u.2, if 17 ≤ f.toNat then some (c.sa1 + BitVec.ofNat 64 (2 * (p / shBlk c.shape))) else none, false)]
  | .vlds _ _ _ _ _ _ => [(0, c.sa + c.sb * BitVec.ofNat 64 p, 0, none, false)]
  | .vldx _ _ b _ _ f =>
    [(0, addInt c.sa (signedOf 32 (cData (x.getC (b.toNat + r) k)) * (fmtBytes f.toNat : Nat)), 0, none, true)]
  | .vldseg _ _ b _ _ f =>
    (List.range b.toNat).map (fun j => (j, c.sa + BitVec.ofNat 64 ((p * b.toNat + j) * fmtBytes f.toNat), 0, none, false))
  | .vldw _ _ b _ _ f =>
    let idx := signedOf 32 (cData (x.getC (b.toNat + r) k))
    if c.sa1.toInt ≤ idx ∧ idx < c.sa1.toInt + shVL c.shape then
      [(0, addInt c.sa (idx * (fmtBytes f.toNat : Nat)), 0, none, true)]
    else []
  | _ => []

/-- Destination, fields, gate and memory format of a load. -/
def loadFields (i : Instr) : Option (BitVec 5 × Nat × BitVec 3 × BitVec 5) :=
  match i with
  | .vld d _ _ _ m f => some (d, 1, m, f)
  | .vlds d _ _ _ m f => some (d, 1, m, f)
  | .vldx d _ _ _ m f => some (d, 1, m, f)
  | .vldseg d _ b _ m f => some (d, b.toNat, m, f)
  | .vldw d _ _ _ m f => some (d, 1, m, f)
  | _ => none

/-- The fields, addresses and first bits that a store writes at a position, in order (05 R96 to R105). -/
def storePlaces (i : Instr) (c : Capture) (x : Hart) (r k : Nat) : List (Nat × Word × Nat) :=
  let p := r * shVL c.shape + k
  match i with
  | .vst _ _ b _ _ f =>
    let u := unitPlace f.toNat (shBofs c.shape) (c.sa + BitVec.ofNat 64 (64 * b.toNat)) p
    [(0, u.1, u.2)]
  | .vsts _ _ _ _ _ _ => [(0, c.sa + c.sb * BitVec.ofNat 64 p, 0)]
  | .vstx _ _ b _ _ f => [(0, addInt c.sa (signedOf 32 (cData (x.getC (b.toNat + r) k)) * (fmtBytes f.toNat : Nat)), 0)]
  | .vstseg _ _ b _ _ f =>
    (List.range b.toNat).map (fun j => (j, c.sa + BitVec.ofNat 64 ((p * b.toNat + j) * fmtBytes f.toNat), 0))
  | _ => []

/-- Source, gate and memory format of a store. -/
def storeFields (i : Instr) : Option (BitVec 5 × BitVec 3 × BitVec 5) :=
  match i with
  | .vst d _ _ _ m f => some (d, m, f)
  | .vsts d _ _ _ m f => some (d, m, f)
  | .vstx d _ _ _ m f => some (d, m, f)
  | .vstseg d _ _ _ m f => some (d, m, f)
  | _ => none

/-- The way of a load's fetches at element k of a row through the caches (04 R73 to R76): the footprint of its instruction decides the age of
what it brings. -/
def loadRoute (i : Instr) (e : VEntry) (s : State) (h fields k : Nat) (m : BitVec 3) (f : BitVec 5) (gather : Bool) : Path :=
  let foot := match i with
    | .vlds .. => strideFoot f.toNat e.cap
    | .vldx _ _ b _ _ _ => gatherFoot s h e f.toNat b.toNat m.toNat k
    | .vldw .. => shVL e.cap.shape * fmtBytes f.toNat
    | _ => unitFoot f.toNat e.cap fields
  loadPath gather (vecAlloc (getHart s h) foot false)

/-- The way of a store's writes at a place of element k of a row through the caches: by its footprint, and without a fetch where its
instruction writes every bit of the chunks at the place (04 R72 to R76). -/
def storeRoute (i : Instr) (e : VEntry) (s : State) (h k : Nat) (m : BitVec 3) (f : BitVec 5) (va : Word) (o : Nat) : Path :=
  let c := e.cap
  let x := getHart s h
  let foot := match i with
    | .vsts .. => strideFoot f.toNat c
    | .vstx _ _ b _ _ _ => gatherFoot s h e f.toNat b.toNat m.toNat k
    | .vstseg _ _ b _ _ _ => unitFoot f.toNat c b.toNat
    | _ => unitFoot f.toNat c 1
  let places := match i with
    | .vstx _ _ b _ _ _ => scatterPlaces s h e f.toNat b.toNat m.toNat k
    | _ => activePlaces x e m.toNat (fun r k => (storePlaces i c x r k).map (fun q => q.2))
  storePath (vecAlloc x foot true) (fmtWidth f.toNat) places va ((o + fmtWidth f.toNat + 7) / 8)

/-- The reductions into memory (05 R106). -/
def vredFields (i : Instr) : Option (RedKind × BitVec 5 × BitVec 5 × BitVec 3 × BitVec 5) :=
  match i with
  | .vredAdd d _ b _ m f => some (.add, d, b, m, f)
  | .vredMin d _ b _ m f => some (.min, d, b, m, f)
  | .vredMax d _ b _ m f => some (.max, d, b, m, f)
  | _ => none

/-! Engine commands (05 R117): what the front end leaves when it issues one. -/

/-- s with a matrix command issued by its executing hart: queued, its number in d. -/
def mtxIssued (s : State) (d : BitVec 5) (c : MtxCmd) : State :=
  let x := curHart s
  putCur s { x.setS d c.num with
    pc := x.pc + 4
    eng := { x.eng with
      mtx := { x.eng.mtx with issued := x.eng.mtx.issued + 1 }, mtxQ := x.eng.mtxQ ++ [c], stamp := x.eng.stamp + 1 } }

/-- s with a copy command issued by its executing hart. -/
def copyIssued (s : State) (d : BitVec 5) (c : CopyCmd) : State :=
  let x := curHart s
  putCur s { x.setS d (x.eng.copy.issued + 1) with
    pc := x.pc + 4
    eng := { x.eng with
      copy := { x.eng.copy with issued := x.eng.copy.issued + 1 }, copyQ := x.eng.copyQ ++ [c], stamp := x.eng.stamp + 1 } }

/-- s with an exchange command issued by its executing hart: commands at the head of the queue that have nothing left to do are counted. -/
def xchIssued (s : State) (d : BitVec 5) (k : XKind) (pages : PageMap) : State :=
  let x := curHart s
  let n := x.eng.xch.issued + 1
  let g : Engines := { x.eng with
    xch := { x.eng.xch with issued := n }, xchQ := x.eng.xchQ ++ [{ num := n, kind := k, pages := pages }] }
  putCur s { x.setS d n with pc := x.pc + 4, eng := g.settleX }

/-- s with a Lens command issued by its executing hart (11 R248): its record as read, and its place among the collective commands. -/
def lensIssued (s : State) (i : Instr) (d : BitVec 5) (slot off : Nat) (record : List Byte) (pages : PageMap) : State :=
  let x := curHart s
  let n := x.eng.lens.issued + 1
  let coll := collective i record
  let c : LensCmd :=
    { num := n, instr := i, slot := slot, off := off, record := record, coll := if coll then some x.eng.colls else none,
      pages := pages, started := false, noop := false, core := coreOf s.cur, matrix := [], flags := 0, report := none }
  putCur s { x.setS d n with
    pc := x.pc + 4
    eng := { x.eng with
      lens := { x.eng.lens with issued := n }, lensQ := x.eng.lensQ ++ [c], colls := if coll then x.eng.colls + 1 else x.eng.colls } }

/-- The timeline with its next command complete: the counter one higher, flags other than none and a report kept under its number (05 R119). -/
def lineDone (t : Timeline) (flags : Word) (report : Option Trap) : Timeline :=
  { t with
    done := t.done + 1
    flags := if flags = 0 then t.flags else t.flags ++ [(t.done + 1, flags)]
    reports := match report with | some r => t.reports ++ [{ num := t.done + 1, trap := r }] | none => t.reports }

end Sys2Proof.Machine
end

