-- ==== Sys2Proof/Certificates/Slice0/Obligations.lean ====
section
/-! DEFINITION. The statements for the provers. Each formalises rules of spec/ named in its docstring; terms are those of Safety.lean. -/

open Sys2Proof Sys2Proof.Machine

/-! Encoding (03). -/

/-- Every well-formed instruction that has a word has one of 32 bits, which decodes to it with every operand (03 R45 to R47). -/
def Obligations.EncodeThenDecode : Prop :=
  ∀ (i : Instr) (w : Nat), i.wellFormed = true → encode i = some w →
    w < 2 ^ 32 ∧ decodeWord w = .ok i ∧ decode (bytesOfWord w) = .ok (i, [])

/-- A word of 32 bits that decodes is well formed and is the one word of its instruction: no two words spell one instruction, and every bit
of a word is read (03 R47, R50). -/
def Obligations.DecodeThenEncode : Prop :=
  ∀ (w : Nat) (i : Instr), w < 2 ^ 32 → decodeWord w = .ok i → i.wellFormed = true ∧ encode i = some w

/-- Words that are no instruction (03 R47, R50): the all-zeros and the all-ones word, every word of a reserved major opcode, and, over the
register forms of SALU, every word with a bit set in a field that its instruction does not use. -/
def Obligations.ReservedWordsRefused : Prop :=
  (decodeWord 0x00000000 = .error .reservedMajor ∧ decodeWord 0xFFFFFFFF = .error .reservedMajor ∧
   ∀ w : Nat, w / 2 ^ 26 % 64 ∈ [0x00, 0x09, 0x2F, 0x3F] → decodeWord w = .error .reservedMajor) ∧
  (∀ (fn z d a b : Nat), fn < 19 → 0 < z → z < 64 → d < 32 → a < 32 → b < 32 →
     decodeWord (0x01 * 2 ^ 26 + d * 2 ^ 21 + a * 2 ^ 16 + b * 2 ^ 11 + z * 2 ^ 5 + fn) = .error .nonzeroField)

/-- Words of the manual's own examples decode to the instructions that it gives them for (03 R45 to R59, and the example of each family's
rule: 04 to 05, 07 to 10, 13 to 15). -/
def Obligations.DecodedWords : Prop :=
  ∀ p ∈ ([
      (0x04642805, .div 3 4 5), (0x04642856, .cmp 3 4 5 2), (0x04642997, .csel 3 4 5 6), (0x04A54858, .lea 5 5 9 2),
      (0x04640013, .clz 3 4), (0x1C648064, .cmpi 3 4 4 100), (0x20640087, .srai 3 4 7), (0x19000002, .lhi 8 0 2),
      (0x090886A0, .addi 8 8 0x86A0), (0x38E50008, .ldI32 7 5 8), (0x50FEFFF0, .st64 7 30 0xFFF0),
      (0x54052680, .red 5 4 5 0 0 0), (0x546521F9, .cas 3 5 4 3 3 1), (0x781F0000, .jalr 0 31 0), (0x74000040, .jal 64),
      (0x7D09FFFA, .bstrip 8 9 0xFFFA), (0x88800010, .csrr 4 1), (0x880700A1, .csrw 0 7 0x00A), (0x8C000000, .endIter),
      (0x8C0000A1, .trap 5), (0x8C000002, .eret), (0x8D050005, .waitm 8 5 0), (0x8D090007, .lpreq 8 9), (0x8D090008, .forkl 8 9),
      (0x8C080009, .joinl 8), (0x8C00000A, .vrel), (0x8C14000B, .ctxsave 20), (0x8C14000C, .ctxrest 20),
      (0x8C05300D, .tlbinvPage 5 6), (0x8C00302D, .tlbinvCtx 6), (0x8D09000E, .nest 8 9), (0x8C08000F, .nwithdraw 8),
      (0x8D280010, .nstat 9 8), (0x93860000, .sbind 28 6), (0x93A00001, .sfree 29), (0x9080E002, .sstat 4 28),
      (0x95284C00, .setvl 9 8 2 12 0 0 0), (0xA0821920, .vadd 4 2 3 1 1), (0xA0C42A18, .vnshrHe 6 4 5 2 0),
      (0xA4830004, .mpop 4 3 0 0), (0xA5221806, .vmovs 9 2 3 0), (0xA9480068, .vcompress 10 8 0 3),
      (0xAD021900, .vfadd 8 2 3 1 0), (0xAC44290C, .vfcmpLt 2 4 5 1 0), (0xB0C45900, .vcvt 6 4 11 1 0),
      (0xB5242900, .vredsumOrd 9 4 5 1 0), (0xB6041107, .vtopk 16 4 2 1 0), (0xD105614C, .vredAdd 8 5 12 1 2 12),
      (0xDC1E0300, .vspill 0 30 3), (0xE085010C, .vld 4 5 0 1 0 12), (0xE486010C, .vst 4 6 0 1 0 12),
      (0xB9042901, .rgenTop 8 4 5 1 0), (0xB9443123, .xsend 10 4 6 1 1), (0xB8860105, .mplane 4 6 1 0),
      (0xC10A00C0, .settile 8 10 3), (0xC12C68E2, .mmac 9 12 13 3 1), (0xC1340025, .mfill 9 20 1), (0xC48A0026, .xstat 4 10 1),
      (0xC52A6827, .xsampleHost 9 10 13), (0xC5460000, .xopen 10 6), (0xC9460000, .qopen 10 6), (0xCC800042, .tread 4 2),
      (0xCC090003, .twait 9 0), (0xCD2A0000, .dcopy 9 10)] : List (Nat × Instr)), decodeWord p.1 = .ok p.2

/-! Reset, steps and traps (06, 13, 15, 16). -/

/-- Device reset leaves every register at the Reset value of its table, the shape registers sh0 to sh7 of Table 06.3 among them, every vector
line dead, every accumulator slot integer zero and every slice idle (06 R139; the values of 02 Tables 02.5 and 02.6, 04 Tables 04.8 and 04.9,
06 Tables 06.3 and 06.5 and 16 R345). -/
def Obligations.ResetState : Prop :=
  (∀ h : Nat, (getHart State.reset h).csr = { Csrs.reset with resthr := 16384 } ∧ (getHart State.reset h).vlines = [] ∧
    (getHart State.reset h).acc = [] ∧ (getHart State.reset h).bound = false ∧ (∀ n : Nat, n < 8 → (getHart State.reset h).getSh n = 0) ∧
    (∀ v c : Nat, (getHart State.reset h).getC v c = 0) ∧ (∀ t r k : Nat, (getHart State.reset h).acc74 t r k = 0)) ∧
  (∀ c j : Nat, (getCore State.reset c).slice j = Slice.idle ∧ (getCore State.reset c).poolReg = 128 ∧
    (getCore State.reset c).poolScr = 64 ∧ (getCore State.reset c).poolL1 = 64 ∧ (getCore State.reset c).lpwait = 4096) ∧
  State.reset.hotidle = 65536 ∧ State.reset.hostmode = 0 ∧
  Csrs.reset = {
    fpctl := 0, fpflags := 0, nestid := 0, deadline := 0, tvec := 0, tcause := 0, tpc := 0, tval := 0, tval2 := 0,
    tstatus := 0, residx := 0, viqpos := 0, hwm := 0, vback := 0, ptroot := 0, cpyerr := 0, resthr := 16384 }

/-- Memory after reset is in its canonical form; the form is the model's own (log entry 43). -/
def Obligations.ResetMemoryFormed : Prop := MemoryFormed State.reset

/-- Every step keeps the canonical form of memory, from every state, reachable or not; the form is the model's own (log entry 43). -/
def Obligations.StepKeepsMemoryFormed : Prop := ∀ s t : State, MemoryFormed s → step s = .next t → MemoryFormed t

/-- A step runs the decoded instruction: when no other unit's step comes first, hart h's turn has come and the word at its pc decodes to i,
the step is exec of i at the state in which h executes and its fetch has been made (13 R277, 03 R45; the order of units is the model's, log
entry 12). The hart whose turn has come is ready, and no ready hart has waited longer since it last issued (13 R276, R277). -/
def Obligations.StepRunsDecodedInstruction : Prop :=
  (∀ (s t : State) (h w : Nat) (i : Instr), Powered s → s.agenda = [] →
    (nextEvent? s = none ∨ (s.relaxed = true ∧ s.steps % 2 = 1)) → pickHart s = some h →
    (curHart (begin s h)).role = .program → fetchWord (begin s h) h = .ok (w, t) → decodeWord w = .ok i → step s = exec i t) ∧
  (∀ (s : State) (h : Nat), pickHart s = some h →
    issues s h = true ∧ ∀ k ∈ s.harts.map (fun p => p.1), issues s k = true → (getHart s h).lastIssue ≤ (getHart s k).lastIssue)

/-- A fetch reads the word at the pc from memory, the four bytes at the address that the pc translates to, which without a TLB entry is the
one that the walk of the pc gives, and changes no hart, no register and no flag; in memory it changes at most the page-table entry in which
its walk sets ACC (03 R45, 04 R84, R86). That it reads the word that memory holds now, with no instruction cache between, is the model's choice
(log entry 77). A word that is no instruction raises ILLEGAL with the word in TVAL, precise at it, once it is executed (03 R50, R51). -/
def Obligations.FetchAndIllegalWords : Prop :=
  (∀ (s t : State) (w : Nat), MemoryFormed s → fetchWord s s.cur = .ok (w, t) →
     t.harts = s.harts ∧ t.cur = s.cur ∧ t.time = s.time ∧
     (let x := curHart s
      ∃ key : Nat, access s (agentOf s s.cur) x.pc 4 .fetch .front = .ok (key, t) ∧ w = memNat t key 4 ∧ isPoisoned t key = false ∧
        ∀ l : Leaf, tlbFind s (coreOf s.cur) x.csr.ptroot x.pc = none → walk s x.csr.ptroot x.pc .fetch = .ok l →
          resolve s (coreOf s.cur) x.pc ((tlbOf x.csr.ptroot x.pc l).paOf x.pc) .fetch = .ok key) ∧
     (∀ k : Nat, (∀ l : Leaf, walk s (curHart s).csr.ptroot (curHart s).pc .fetch = .ok l → k < l.key ∨ l.key + 8 ≤ k) →
       memByte t k = memByte s k)) ∧
  (∀ (s t : State) (h w : Nat) (r : Reject), Powered s → s.agenda = [] → nextEvent? s = none → pickHart s = some h →
     (curHart (begin s h)).role = .program → fetchWord (begin s h) h = .ok (w, t) → decodeWord w = .error r → (curHart t).viq = [] →
     step s = .next (trapTaken t .illegal (curHart t).pc (BitVec.ofNat 64 w) 0))

/-- A step that stands on the agenda is taken first, as the meaning of its event; with power removed no other step than a reset is taken,
and no instruction runs: each stops with the fault powerRemoved (16 R357, R358). That an agenda holds such steps is the model's (log entry
12). -/
def Obligations.StepRunsEvent : Prop :=
  (∀ (s : State) (e : Event) (rest : List Event), s.agenda = e :: rest →
     (Powered s → step s = runEvent e (tick { s with agenda := rest })) ∧
     (¬ Powered s → isReset e = false → step s = .fault .powerRemoved) ∧
     (isReset e = true → step s = runEvent e (tick { s with agenda := rest }))) ∧
  (∀ s : State, ¬ Powered s → s.agenda = [] → step s = .fault .powerRemoved)

/-- A trap at the executing hart's instruction (15 R322): with no older VIQ entry it is taken at once, writing TCAUSE with VEC = 0, TPC,
TVAL, TVAL2, PMODE, MODE and the pc; while older entries are left it waits, and the event TAKE_TRAP takes it when they are done. A trap of
the oldest VIQ entry e at position p (15 R322 to R324): TCAUSE has VEC = 1, RESIDX is p, VIQPOS names e's slot and sequence number, VQ is
set, e at p and every younger entry but the synchronising reads are held, the VIQ is empty, and TPC is where the front end stands. With
HOSTMODE.PF = 1 a page fault of reason 0 or 1 is the host's (16 R346): TCAUSE, TVAL and TVAL2 are written as the trap would write them, no
handler is entered, the pc stays at the instruction, and the hart is halted with a halt request for the host; entries of the VIQ stay live, e at
p. A stop that already stands wins over that request (14 Table 14.5). -/
def Obligations.TrapEntry : Prop :=
  (∀ (s : State) (t : Trap), faultToHost s t = false →
     ((curHart s).viq = [] → trapHere s t = trapTaken s t.cause (curHart s).pc t.tval t.tval2) ∧
     ((curHart s).viq ≠ [] →
       trapHere s t = putCur s { curHart s with pending := some { trap := t, vec := none, tpc := (curHart s).pc } }) ∧
     (∀ p : PendTrap, (curHart s).pending = some p → p.trap = t → (curHart s).viq = [] → Powered s →
       exec (.takeTrap s.cur) s = .next (trapTaken s t.cause p.tpc t.tval t.tval2))) ∧
  (∀ (s : State) (h p : Nat) (t : Trap) (e : VEntry) (es : List VEntry), faultToHost s t = false → (getHart s h).viq = e :: es →
     isSync e.instr = false →
     (let x := getHart s h
      let y := getHart (deliverVector s h t p) h
      y.viq = [] ∧
      y.held = { e with prog := .sweep p, issued := false, inflight := [] } ::
        (es.filter (fun d => !isSync d.instr)).map (fun (d : VEntry) => { d with issued := false }) ∧
      y.csr = { x.csr with
        residx := BitVec.ofNat 64 (p % 4096), viqpos := viqposOf e.seq, tcause := 0x8000000000000000#64 ||| BitVec.ofNat 64 t.cause.code,
        tpc := x.pc &&& ~~~3#64, tval := t.tval, tval2 := t.tval2, tstatus := 4 ||| (if x.user then 2 else 0) } ∧
      y.pc = x.csr.tvec &&& ~~~3#64 ∧ y.gpr = x.gpr ∧ y.vreg = x.vreg ∧ y.mask = x.mask ∧ y.acc = x.acc) ∧
     (deliverVector s h t p).mem = s.mem) ∧
  (∀ (s : State) (t : Trap), faultToHost s t = true → (curHart s).viq = [] →
     (let x := curHart s
      let told := { x.csr with tcause := BitVec.ofNat 64 t.cause.code, tval := t.tval, tval2 := t.tval2 }
      (stopStands x = false → trapHere s t = putCur s { x with
        pending := none, wait := .none, request := some .hostPageFault, halted := some .hostPageFault, csr := told }) ∧
      (stopStands x = true → trapHere s t = putCur s { x with pending := none, wait := .none, csr := told }))) ∧
  (∀ (s : State) (h p : Nat) (t : Trap) (e : VEntry) (es : List VEntry), faultToHost s t = true → (getHart s h).viq = e :: es →
     isSync e.instr = false →
     (let x := getHart s h
      let y := getHart (deliverVector s h t p) h
      y.viq = { e with prog := .sweep p, issued := false, inflight := [] } ::
        (es.filter (fun d => !isSync d.instr)).map (fun (d : VEntry) => { d with issued := false }) ∧
      y.held = x.held ∧ y.pc = x.pc ∧ y.gpr = x.gpr ∧ y.vreg = x.vreg ∧ y.mask = x.mask ∧ y.acc = x.acc ∧
      y.csr = { x.csr with tcause := 0x8000000000000000#64 ||| BitVec.ofNat 64 t.cause.code, tval := t.tval, tval2 := t.tval2 } ∧
      (stopStands x = false → y.request = some .hostPageFault ∧ y.halted = some .hostPageFault) ∧
      (stopStands x = true → y.request = x.request ∧ y.halted = x.halted) ∧
      (deliverVector s h t p).mem = s.mem))

/-- trap n is CTL fn 1 with n in fn[10:5]: its word is 0x8C00_0001 with 32 n added, and trap 5 encodes as 0x8C00_00A1. In both modes it
completes and takes TRAP with TPC its own address, TVAL n and TVAL2 0: at once when no older VIQ entry is left, else as the pending trap
that TAKE_TRAP takes once none is. A handler that adds 4 to TPC resumes after it (13 R294), where no lost atomic waits to be raised (16 R349). -/
def Obligations.TrapInstruction : Prop :=
  (∀ n : BitVec 6, encode (.trap n) = some (0x8C000001 + 32 * n.toNat) ∧ decodeWord (0x8C000001 + 32 * n.toNat) = .ok (.trap n)) ∧
    decodeWord 0x8C0000A1 = .ok (.trap 5) ∧
    ∀ (s : State) (n : BitVec 6), Powered s →
      (let x := curHart s
       let waiting : PendTrap := { trap := { cause := .trap, tval := n.setWidth 64, tval2 := 0 }, vec := none, tpc := x.pc }
       let taken := trapTaken s .trap x.pc (n.setWidth 64) 0
       let y := curHart taken
       let next := (x.pc &&& ~~~3#64) + 4
       (x.viq = [] → exec (.trap n) s = .next taken) ∧
       (x.viq ≠ [] → exec (.trap n) s = .next (putCur s { x with pending := some waiting })) ∧
       (x.viq = [] → x.pending = some waiting → exec (.takeTrap s.cur) s = .next taken) ∧
       (x.vq = false → x.lostAtoms = LostAtoms.none → exec .eret (putCur taken { y with csr := { y.csr with tpc := y.csr.tpc + 4 } }) =
         .next (putCur taken { y with pc := next, csr := { y.csr with tpc := next, tstatus := if x.user then 3 else 0 } })))

/-- eret in supervisor mode (13 R295, 15 R324): MODE becomes PMODE and the pc TPC × 4; with VQ = 1 the held image is reinstated first, the
entry that VIQPOS names at the position in RESIDX, and VQ becomes 0. That only the entry VIQPOS names takes RESIDX is the model's reading
(log entry 40). Where links have lost more than one atomic of the hart (16 R349), the return from the handler of one raises the next, as
STOREPF with reason 2 and its address; that they are raised one after another is the model's choice (log entry 51). -/
def Obligations.EretReturns : Prop :=
  ∀ s : State, Powered s → (curHart s).user = false →
    (let x := curHart s
     let mode : Word := if x.csr.tstatus.getLsbD 1 then 3 else 0
     (x.vq = false → x.lostAtoms = LostAtoms.none →
       exec .eret s = .next (putCur s { x with pc := x.csr.tpc &&& ~~~3#64, csr := { x.csr with tstatus := mode } })) ∧
     (∀ (e : VEntry) (es : List VEntry), x.vq = true → x.viq = [] → x.held = e :: es → viqposOf e.seq = x.csr.viqpos → x.lostAtoms = LostAtoms.none →
       exec .eret s = .next (putCur s { x with
         viq := { e with prog := .sweep (x.csr.residx.toNat % 4096) } :: es, held := [],
         pc := x.csr.tpc &&& ~~~3#64, csr := { x.csr with tstatus := mode } })) ∧
     (∀ (va : Word) (rest : List Word), x.vq = false → x.viq = [] → x.pending = none → x.halted = none → x.lostAtoms.waiting = va :: rest →
       exec .eret s = .next (trapTaken (putCur s { x with
         pc := x.csr.tpc &&& ~~~3#64, csr := { x.csr with tstatus := mode }, lostAtoms := { waiting := rest, inHand := true } })
         .storepf (x.csr.tpc &&& ~~~3#64) va 2)) ∧
     (x.vq = false → x.lostAtoms = { waiting := [], inHand := true } → exec .eret s = .next (putCur s { x with
       pc := x.csr.tpc &&& ~~~3#64, csr := { x.csr with tstatus := mode }, lostAtoms := LostAtoms.none })))

/-- In user mode eret, ctxsave, ctxrest, tlbinv and every access of a system register of Table 06.4 numbered from 0x100 raise PRIV with the instruction
word, and change nothing else (06 R136, 13 R295, 15 R338 to R340). -/
def Obligations.UserModeTraps : Prop :=
  ∀ (s : State) (i : Instr) (d a b : BitVec 5) (c : BitVec 12), Powered s → (curHart s).user = true → (curHart s).viq = [] →
    (i = .eret ∨ i = .ctxsave a ∨ i = .ctxrest a ∨ i = .tlbinvPage a b ∨ i = .tlbinvCtx b ∨ i = .tlbinvAll ∨
      (c.toNat ∈ csrNumbers ∧ 0x100 ≤ c.toNat ∧ (i = .csrr d c ∨ i = .csrw d a c ∨ i = .csrs d a c ∨ i = .csrc d a c))) →
    exec i s = .next (trapTaken s .priv (curHart s).pc (instrWord i) 0)

/-! Scalar instructions (13). -/

/-- add, sub, mul, mulh, mulhn, and, or, xor, the shifts, and the immediate forms write their result modulo 2^64 to d, and go on (13 R278,
R280, Table 13.1, 03 R46). -/
def Obligations.ScalarArithmetic : Prop :=
  (∀ (s : State) (d a b : BitVec 5), Powered s →
     (let p := (curHart s).getS a
      let q := (curHart s).getS b
      exec (.add d a b) s = .next (scalarResult s d (p + q)) ∧
      exec (.sub d a b) s = .next (scalarResult s d (p - q)) ∧
      exec (.mul d a b) s = .next (scalarResult s d (p * q)) ∧
      exec (.mulh d a b) s = .next (scalarResult s d ((p.signExtend 128 * q.signExtend 128).extractLsb' 64 64)) ∧
      exec (.mulhn d a b) s = .next (scalarResult s d ((p.setWidth 128 * q.setWidth 128).extractLsb' 64 64)) ∧
      exec (.and d a b) s = .next (scalarResult s d (p &&& q)) ∧
      exec (.or d a b) s = .next (scalarResult s d (p ||| q)) ∧
      exec (.xor d a b) s = .next (scalarResult s d (p ^^^ q)) ∧
      exec (.sll d a b) s = .next (scalarResult s d (p <<< (q.extractLsb' 0 6).toNat)) ∧
      exec (.srl d a b) s = .next (scalarResult s d (p >>> (q.extractLsb' 0 6).toNat)) ∧
      exec (.sra d a b) s = .next (scalarResult s d (p.sshiftRight (q.extractLsb' 0 6).toNat)))) ∧
  (∀ (s : State) (d a : BitVec 5) (im : BitVec 16) (n : BitVec 6), Powered s →
     (let p := (curHart s).getS a
      exec (.addi d a im) s = .next (scalarResult s d (p + im.signExtend 64)) ∧
      exec (.andi d a im) s = .next (scalarResult s d (p &&& im.setWidth 64)) ∧
      exec (.ori d a im) s = .next (scalarResult s d (p ||| im.setWidth 64)) ∧
      exec (.xori d a im) s = .next (scalarResult s d (p ^^^ im.setWidth 64)) ∧
      exec (.lhi d a im) s = .next (scalarResult s d (p + im.signExtend 64 * 65536)) ∧
      exec (.slli d a n) s = .next (scalarResult s d (p <<< n.toNat)) ∧
      exec (.srli d a n) s = .next (scalarResult s d (p >>> n.toNat)) ∧
      exec (.srai d a n) s = .next (scalarResult s d (p.sshiftRight n.toNat))))

/-- Division never traps; its special cases are those of Table 13.2, and every other case truncates toward zero with the remainder's sign
that of the dividend (13 R278, R279). -/
def Obligations.ScalarDivision : Prop :=
  ∀ (s : State) (d a b : BitVec 5), Powered s →
    (let p := (curHart s).getS a
     let q := (curHart s).getS b
     exec (.div d a b) s = .next (scalarResult s d (if q = 0 then 0xFFFFFFFFFFFFFFFF#64 else p.sdiv q)) ∧
     exec (.divn d a b) s = .next (scalarResult s d (if q = 0 then 0xFFFFFFFFFFFFFFFF#64 else p / q)) ∧
     exec (.rem d a b) s = .next (scalarResult s d (if q = 0 then p else p.srem q)) ∧
     exec (.remn d a b) s = .next (scalarResult s d (if q = 0 then p else p % q)) ∧
     (p = 0x8000000000000000#64 → q = 0xFFFFFFFFFFFFFFFF#64 →
       exec (.div d a b) s = .next (scalarResult s d 0x8000000000000000#64) ∧ exec (.rem d a b) s = .next (scalarResult s d 0)))

/-- min, max, minn, maxn, cmp, cmpi, csel and lea, and clz, ctz and popc: the zeros above the highest 1 bit, the zeros below the lowest, and
the 1 bits (13 R278, R280, Table 13.1, 03 Table 03.5). -/
def Obligations.ScalarCompareAndCount : Prop :=
  (∀ (s : State) (d a b c : BitVec 5) (cc : BitVec 3) (im : BitVec 13) (sc : BitVec 2), Powered s → cc.toNat < 6 →
     (let p := (curHart s).getS a
      let q := (curHart s).getS b
      let holds := fun (p q : Word) =>
        [p == q, p != q, p.slt q, !p.slt q, p.ult q, !p.ult q].getD cc.toNat false
      exec (.min d a b) s = .next (scalarResult s d (if q.slt p then q else p)) ∧
      exec (.max d a b) s = .next (scalarResult s d (if p.slt q then q else p)) ∧
      exec (.minn d a b) s = .next (scalarResult s d (if q.ult p then q else p)) ∧
      exec (.maxn d a b) s = .next (scalarResult s d (if p.ult q then q else p)) ∧
      exec (.cmp d a b cc) s = .next (scalarResult s d (if holds p q then 1 else 0)) ∧
      exec (.cmpi d a cc im) s = .next (scalarResult s d (if holds p (im.signExtend 64) then 1 else 0)) ∧
      exec (.csel d a b c) s = .next (scalarResult s d (if (curHart s).getS c = 0 then q else p)) ∧
      exec (.lea d a b sc) s = .next (scalarResult s d (p + q * BitVec.ofNat 64 (2 ^ sc.toNat))))) ∧
  (∀ (s : State) (d a : BitVec 5), Powered s →
     (let p := (curHart s).getS a
      (∃ n : Nat, n ≤ 64 ∧ exec (.clz d a) s = .next (scalarResult s d (BitVec.ofNat 64 n)) ∧
        (∀ j : Nat, j < n → p.getLsbD (63 - j) = false) ∧ (n < 64 → p.getLsbD (63 - n) = true)) ∧
      (∃ n : Nat, n ≤ 64 ∧ exec (.ctz d a) s = .next (scalarResult s d (BitVec.ofNat 64 n)) ∧
        (∀ j : Nat, j < n → p.getLsbD j = false) ∧ (n < 64 → p.getLsbD n = true)) ∧
      exec (.popc d a) s = .next (scalarResult s d (BitVec.ofNat 64 ((List.range 64).countP (fun j => p.getLsbD j))))))

/-- Conditional branches go to PC + 4 × sext(off16) when taken and past themselves when not (13 R281, 03 R46). jmp and jal go to PC + 4 ×
sext(off26), jal with its link in s31; jalr goes to a + sext(imm16), formed before d takes the link, and raises ALIGN with the target,
writing nothing, where the target's bits 1:0 are not 0 (13 R281, 03 R46). -/
def Obligations.BranchesAndJumpsGo : Prop :=
  (∀ (s : State) (a b : BitVec 5) (o : BitVec 16), Powered s →
     (let p := (curHart s).getS a
      let q := (curHart s).getS b
      let goes := fun (taken : Bool) => atPc s ((curHart s).pc + (if taken then 4 * o.signExtend 64 else 4))
      exec (.beq a b o) s = .next (goes (p == q)) ∧ exec (.bne a b o) s = .next (goes (p != q)) ∧
      exec (.blt a b o) s = .next (goes (p.slt q)) ∧ exec (.bge a b o) s = .next (goes (!p.slt q)) ∧
      exec (.bltn a b o) s = .next (goes (p.ult q)) ∧ exec (.bgen a b o) s = .next (goes (!p.ult q)))) ∧
  (∀ (s : State) (d a : BitVec 5) (o : BitVec 26) (im : BitVec 16), Powered s →
     (let x := curHart s
      let target := x.getS a + im.signExtend 64
      exec (.jmp o) s = .next (atPc s (x.pc + 4 * o.signExtend 64)) ∧
      exec (.jal o) s = .next (atPc (putCur s (x.setS 31 (x.pc + 4))) (x.pc + 4 * o.signExtend 64)) ∧
      (target.toNat % 4 = 0 → exec (.jalr d a im) s = .next (atPc (putCur s (x.setS d (x.pc + 4))) target)) ∧
      (target.toNat % 4 ≠ 0 → x.viq = [] → exec (.jalr d a im) s = .next (trapTaken s .align x.pc target 0))))

/-- bstrip (13 R283): it subtracts the grant; at zero it clears the progress record and falls through; otherwise it branches with the record
of this pass, and the second pass running that makes no progress raises NOPROG with its address and the grant. -/
def Obligations.BstripPasses : Prop :=
  ∀ (s : State) (a b : BitVec 5) (o : BitVec 16), Powered s →
    (let x := curHart s
     let g := (x.getS b).toNat
     let left := (x.getS a).toNat - g
     let again := x.strip.addr = x.pc ∧ x.strip.count.toNat ≤ left
     (left = 0 → exec (.bstrip a b o) s =
       .next (scalarResult (putCur s { x with strip := { addr := 0, count := 0, strikes := 0 } }) a 0)) ∧
     (left ≠ 0 → ¬ again → exec (.bstrip a b o) s =
       .next (putCur s { x.setS a (BitVec.ofNat 64 left) with
         strip := { addr := x.pc, count := BitVec.ofNat 64 left, strikes := 0 }, pc := x.pc + 4 * o.signExtend 64 })) ∧
     (left ≠ 0 → again → x.strip.strikes ≠ 1 → exec (.bstrip a b o) s =
       .next (putCur s { x.setS a (BitVec.ofNat 64 left) with
         strip := { addr := x.pc, count := BitVec.ofNat 64 left, strikes := x.strip.strikes + 1 },
         pc := x.pc + 4 * o.signExtend 64 })) ∧
     (left ≠ 0 → again → x.strip.strikes = 1 → x.viq = [] → exec (.bstrip a b o) s =
       .next (trapTaken s .noprog x.pc x.pc (x.getS b))))

/-- What the register forms, the immediate forms, the branches and the jumps jmp and jal leave unchanged (13 R278, R280, R281): every scalar
register but d, every flag and system register, masks, shapes, vector registers, accumulators, every byte of memory, every other hart. A
branch and jmp write no register; jal writes s31; s0 discards what is written to it. -/
def Obligations.RegisterInstructionsFrame : Prop :=
  ∀ (s t : State) (i : Instr) (d : BitVec 5), registerOnly i = some d → exec i s = .next t →
    (∀ r : BitVec 5, r ≠ d ∨ r = 0 → (curHart t).getS r = (curHart s).getS r) ∧
    (curHart t).csr = (curHart s).csr ∧ (curHart t).mask = (curHart s).mask ∧ (curHart t).shape = (curHart s).shape ∧
    (curHart t).vreg = (curHart s).vreg ∧ (curHart t).acc = (curHart s).acc ∧ (curHart t).viq = (curHart s).viq ∧
    (∀ h : Nat, h ≠ s.cur → getHart t h = getHart s h) ∧ (∀ k : Nat, memByte t k = memByte s k) ∧
    t = putCur s (curHart t)

/-! System registers (06, 13). -/

/-- csrr returns the register that its number names (06 Table 06.4), in a mode that may read it; FPFLAGS once the VIQ is empty, until when it
waits (02 R37). LPART holds one byte per slice (06 Table 06.6): OWNER, HELD, REQ, PEND and two bits of 0; that OWNER and REQ read 0 where HELD
and PEND are 0 is the model's choice (log entry 23), and no clause here rests on it. -/
def Obligations.CsrReads : Prop :=
  ∀ (s : State) (d : BitVec 5), Powered s →
    (let x := curHart s
     let r := x.csr
     let c := curCore s
     (∀ p ∈ ([(0x000, r.fpctl), (0x001, r.fpflags), (0x008, x.getSh 0), (0x009, x.getSh 1), (0x00A, x.getSh 2), (0x00B, x.getSh 3),
         (0x00C, x.getSh 4), (0x00D, x.getSh 5), (0x00E, x.getSh 6), (0x00F, x.getSh 7), (0x011, r.nestid), (0x012, s.time),
         (0x013, r.deadline), (0x100, r.tvec), (0x101, r.tcause), (0x102, r.tpc), (0x103, r.tval), (0x104, r.tval2),
         (0x105, r.tstatus), (0x106, r.residx), (0x107, r.viqpos), (0x108, r.hwm), (0x109, r.vback), (0x10A, r.ptroot),
         (0x10B, r.cpyerr), (0x10C, r.resthr), (0x200, c.poolReg), (0x201, c.poolScr), (0x202, c.poolL1), (0x203, c.lpwait),
         (0x300, s.hotidle)] : List (BitVec 12 × Word)), (x.user = false ∨ p.1.toNat < 0x100) → (x.viq = [] ∨ p.1 ≠ 0x001) →
       exec (.csrr d p.1) s = .next (scalarResult s d p.2)) ∧
    (x.viq ≠ [] → exec (.csrr d 0x001) s = .next s) ∧
    exec (.csrr d 0x010) s = .next (scalarResult s d (BitVec.ofNat 64 (Config.pkg.toNat * 4096 + s.cur % 4096))) ∧
    ∃ v : Word, exec (.csrr d 0x014) s = .next (scalarResult s d v) ∧ v.toNat < 2 ^ 32 ∧
      ∀ j < 4,
        (let y := c.slice j
         v.extractLsb' (8 * j) 2 = y.owner ∧ v.getLsbD (8 * j + 2) = y.held ∧ v.extractLsb' (8 * j + 3) 2 = y.req ∧
           v.getLsbD (8 * j + 5) = y.pend ∧ v.extractLsb' (8 * j + 6) 2 = 0))

/-- csrw, csrs and csrc return the old value in d and leave in the writable fields of a register a, old OR a, and old AND NOT a (13 R293),
by the masks of 06 Table 06.5 and its neighbours, in a mode that may write it; FPCTL, which both modes may write, VBACK and CPYERR keep their
own fields (02 Table 02.5, 05 Table 05.6). An access of FPFLAGS waits while the VIQ holds older vector instructions (02 R37): the step changes
nothing. A write to a register whose every field is read-only raises PRIV in either mode (06 R136). -/
def Obligations.CsrWrites : Prop :=
  (∀ (s : State) (d a : BitVec 5) (p : BitVec 12 × Word), Powered s → ((curHart s).user = false ∨ p.1.toNat < 0x100) →
     ((curHart s).viq = [] ∨ p.1 ≠ 0x001) → p ∈ ([(0x001, 0x3F), (0x008, 0x1FFFFFFFF), (0x009, 0x1FFFFFFFF), (0x00A, 0x1FFFFFFFF), (0x00B, 0x1FFFFFFFF), (0x00C, 0x1FFFFFFFF),
       (0x00D, 0x1FFFFFFFF), (0x00E, 0x1FFFFFFFF), (0x00F, 0x1FFFFFFFF), (0x100, 0xFFFFFFFFFFFFFFFC), (0x101, 0x800000000000003F),
       (0x102, 0xFFFFFFFFFFFFFFFC), (0x103, 0xFFFFFFFFFFFFFFFF), (0x104, 0xFFFFFFFFFFFFFFFF), (0x105, 7), (0x106, 0xFFF),
       (0x107, 0x1FFFFF), (0x108, 0x3FFFFFFFF), (0x10A, 0x000FFFFFFFFFFFFF), (0x10C, 0xFFFFFFFF), (0x203, 0xFFFF),
       (0x300, 0xFFFFFFFF)] : List (BitVec 12 × Word)) →
     (let n := p.1.toNat
      let old := csrValue s s.cur n
      let v := (curHart s).getS a
      ∃ t1 t2 t3 : State, exec (.csrw d a p.1) s = .next (scalarResult t1 d old) ∧ csrValue t1 s.cur n = v &&& p.2 ∧
        exec (.csrs d a p.1) s = .next (scalarResult t2 d old) ∧ csrValue t2 s.cur n = (old ||| v) &&& p.2 ∧
        exec (.csrc d a p.1) s = .next (scalarResult t3 d old) ∧ csrValue t3 s.cur n = (old &&& ~~~v) &&& p.2 ∧
        (∀ t ∈ [t1, t2, t3], (∀ m : Nat, m ≠ n → csrValue t s.cur m = csrValue s s.cur m) ∧ (curHart t).gpr = (curHart s).gpr ∧
          (curHart t).pc = (curHart s).pc ∧ t.mem = s.mem))) ∧
  (∀ (s : State) (d a : BitVec 5) (c : BitVec 12), Powered s → (curHart s).viq = [] →
     c ∈ ([0x010, 0x011, 0x012, 0x013, 0x014, 0x200, 0x201, 0x202] : List (BitVec 12)) →
     exec (.csrw d a c) s = .next (trapTaken s .priv (curHart s).pc (instrWord (.csrw d a c)) 0) ∧
     exec (.csrs d a c) s = .next (trapTaken s .priv (curHart s).pc (instrWord (.csrs d a c)) 0) ∧
     exec (.csrc d a c) s = .next (trapTaken s .priv (curHart s).pc (instrWord (.csrc d a c)) 0)) ∧
  (∀ (s : State) (d a : BitVec 5), Powered s → (curHart s).viq ≠ [] →
     exec (.csrw d a 0x001) s = .next s ∧ exec (.csrs d a 0x001) s = .next s ∧ exec (.csrc d a 0x001) s = .next s) ∧
  (∀ (s : State) (d a : BitVec 5), Powered s →
     (let r := (curHart s).csr
      let v := (curHart s).getS a
      ∀ p ∈ ([(fun c => Instr.csrw d a c, fun (_ : Word) => v), (fun c => Instr.csrs d a c, fun (o : Word) => o ||| v),
          (fun c => Instr.csrc d a c, fun (o : Word) => o &&& ~~~v)] : List ((BitVec 12 → Instr) × (Word → Word))),
        (∃ t : State, exec (p.1 0x000) s = .next (scalarResult t d r.fpctl) ∧ (curHart t).csr = { r with
          fpctl := (p.2 r.fpctl &&& 8) ||| (if (p.2 r.fpctl).toNat % 8 < 5 then p.2 r.fpctl &&& 7 else 0) }) ∧
        ((curHart s).user = false → ∃ t : State, exec (p.1 0x109) s = .next (scalarResult t d r.vback) ∧ (curHart t).csr = { r with
          vback := ((p.2 r.vback).extractLsb' 12 44 ++ (0 : BitVec 12)).signExtend 64 }) ∧
        ((curHart s).user = false → ∃ t : State, exec (p.1 0x10B) s = .next (scalarResult t d r.cpyerr) ∧ (curHart t).csr = { r with
          cpyerr := if (p.2 r.cpyerr).getLsbD 63 then r.cpyerr else r.cpyerr &&& 0x7FFFFFFFFFFFFFFF#64 })))

/-! Scalar memory accesses (05, 12). -/

/-- A scalar load of n bytes that its address, its page and its chunk allow writes to d the bytes from key on, the lowest address in the
lowest bits, extended as the mnemonic says; key and s1 are what the access resolves to (05 R89, R91, 00 R2, 12 R264). A load may pass the
hart's own pending stores to other chunks alone: where one of them is to a chunk of the bytes it reads, the queue is performed first (12 R262,
R264). A scalar access waits for older vector memory entries in the model (log entry 18). What a scalar load leaves unchanged when it completes:
every register but d, every flag and system register, and, beyond those pending stores, every byte of memory but the page-table entry in which
its walk sets ACC (05 R89, 04 R84). -/
def Obligations.ScalarLoads : Prop :=
  (∀ (s : State) (d a : BitVec 5) (im : BitVec 16), Powered s → vmemPending (curHart s) = false →
     (let va := (curHart s).getS a + im.signExtend 64
      let got := fun (n key : Nat) (s1 : State) =>
        va.toNat % n = 0 ∧ access s (agentOf s s.cur) va n .load .scalar = .ok (key, s1) ∧
          isPoisoned (ownSettled s1 s.cur key n) key = false
      ∀ (key : Nat) (s1 : State),
        (let r := fun (n : Nat) => ownSettled s1 s.cur key n
         let b := fun (n j : Nat) => memByte (r n) (key + j)
         (got 1 key s1 → exec (.ldI8 d a im) s = .next (scalarResult (r 1) d ((b 1 0).signExtend 64))) ∧
         (got 1 key s1 → exec (.ldN8 d a im) s = .next (scalarResult (r 1) d ((b 1 0).setWidth 64))) ∧
         (got 2 key s1 → exec (.ldI16 d a im) s = .next (scalarResult (r 2) d ((b 2 1 ++ b 2 0).signExtend 64))) ∧
         (got 2 key s1 → exec (.ldN16 d a im) s = .next (scalarResult (r 2) d ((b 2 1 ++ b 2 0).setWidth 64))) ∧
         (got 4 key s1 →
           exec (.ldI32 d a im) s = .next (scalarResult (r 4) d ((b 4 3 ++ b 4 2 ++ b 4 1 ++ b 4 0).signExtend 64))) ∧
         (got 4 key s1 → exec (.ldN32 d a im) s = .next (scalarResult (r 4) d ((b 4 3 ++ b 4 2 ++ b 4 1 ++ b 4 0).setWidth 64))) ∧
         (got 8 key s1 → exec (.ldI64 d a im) s =
           .next (scalarResult (r 8) d (b 8 7 ++ b 8 6 ++ b 8 5 ++ b 8 4 ++ b 8 3 ++ b 8 2 ++ b 8 1 ++ b 8 0)))))) ∧
  (∀ (s s1 : State) (d a : BitVec 5) (im : BitVec 16) (n key : Nat) (i : Instr), MemoryFormed s →
     Powered s → vmemPending (curHart s) = false →
     (i, n) ∈ [(.ldI8 d a im, 1), (.ldN8 d a im, 1), (.ldI16 d a im, 2), (.ldN16 d a im, 2), (.ldI32 d a im, 4), (.ldN32 d a im, 4),
       (.ldI64 d a im, 8)] →
     (let va := (curHart s).getS a + im.signExtend 64
      va.toNat % n = 0 → access s (agentOf s s.cur) va n .load .scalar = .ok (key, s1) →
      isPoisoned (ownSettled s1 s.cur key n) key = false →
      ∃ t : State, exec i s = .next t ∧ (∀ r : BitVec 5, r ≠ d ∨ r = 0 → (curHart t).getS r = (curHart s).getS r) ∧
        (curHart t).csr = (curHart s).csr ∧ (curHart t).vreg = (curHart s).vreg ∧ (curHart t).mask = (curHart s).mask ∧
        (curHart t).acc = (curHart s).acc ∧ (curHart t).shape = (curHart s).shape ∧ (curHart t).pc = (curHart s).pc + 4 ∧
        (∀ h : Nat, h ≠ s.cur → getHart t h = getHart s h) ∧
        (ownPending (curHart s) key n = false → (curHart t).storeQ = (curHart s).storeQ ∧
          ∀ k : Nat, (∀ l : Leaf, walk s (curHart s).csr.ptroot va .load = .ok l → k < l.key ∨ l.key + 8 ≤ k) →
            memByte t k = memByte s k) ∧
        (ownPending (curHart s) key n = true → (curHart t).storeQ = [] ∧ t.mem = (drainAll s1 s.cur).mem)))

/-- A scalar store writes the low n bytes of its data register from key on, the lowest bits at the lowest address, and goes on; no register
and no flag changes, and in memory nothing but those bytes and the page-table entry in which its walk sets ACC and DRT (05 R90, 04 R84). The
address is the one that its access resolves to. While the model runs relaxed a scalar store joins the hart's store queue, which its own later
load of a chunk that a store there writes performs first, and the event STORE_QUEUE_DRAIN performs the oldest of them (12 R262, R264); one to the host window is performed behind that
queue at once, so that no later read of the window passes it (R275). That only a relaxed run holds stores back is the model's (log entry 12). -/
def Obligations.ScalarStores : Prop :=
  (∀ (s s1 : State) (d a : BitVec 5) (im : BitVec 16) (n key : Nat) (i : Instr), MemoryFormed s →
     Powered s → vmemPending (curHart s) = false → s.relaxed = false →
     (i, n) ∈ [(.st8 d a im, 1), (.st16 d a im, 2), (.st32 d a im, 4), (.st64 d a im, 8)] →
     (let va := (curHart s).getS a + im.signExtend 64
      va.toNat % n = 0 → access s (agentOf s s.cur) va n .store .scalar = .ok (key, s1) → s1.relaxed = false →
      ∃ t : State, exec i s = .next t ∧ curHart t = { curHart s with pc := (curHart s).pc + 4 } ∧
        (∀ j : Nat, j < n → memByte t (key + j) = ((curHart s).getS d).extractLsb' (8 * j) 8) ∧
        (∀ h : Nat, h ≠ s.cur → getHart t h = getHart s h) ∧
        (∀ k : Nat, k < key ∨ key + n ≤ k →
          (∀ l : Leaf, walk s (curHart s).csr.ptroot va .store = .ok l → k < l.key ∨ l.key + 8 ≤ k) → memByte t k = memByte s k))) ∧
  ((∀ (s s1 : State) (d a : BitVec 5) (im : BitVec 16) (n key : Nat) (i : Instr), MemoryFormed s → Powered s →
     vmemPending (curHart s) = false → (i, n) ∈ [(.st8 d a im, 1), (.st16 d a im, 2), (.st32 d a im, 4), (.st64 d a im, 8)] →
     (let va := (curHart s).getS a + im.signExtend 64
      va.toNat % n = 0 → access s (agentOf s s.cur) va n .store .scalar = .ok (key, s1) → s1.relaxed = true →
      (key < 2 ^ 53 → exec i s = .next (passed (putCur s1 { curHart s1 with
        storeQ := (curHart s1).storeQ ++ [bytesAt key ((curHart s).getS d).toNat n] }))) ∧
      (2 ^ 53 ≤ key → ∃ t : State, exec i s = .next t ∧ (curHart t).storeQ = [] ∧ (curHart t).pc = (curHart s).pc + 4 ∧
        ∀ j : Nat, j < n → memByte t (key + j) = ((curHart s).getS d).extractLsb' (8 * j) 8))) ∧
   (∀ (s : State) (h : Nat) (bs : List MaskedByte) (q : List (List MaskedByte)), Powered s → (getHart s h).storeQ = bs :: q →
     exec (.storeQueueDrain h) s = .next (putHart (writeAll s (scalarWriter (getHart s h).ctx) bs) h { getHart s h with storeQ := q })))

/-- A scalar load or store whose address is no multiple of its size raises ALIGN with the address; one that its page or its protection
refuses takes that trap; a load from a poisoned chunk raises POISON with the address. What their walk has set stays set, and nothing else is
written, beyond the hart's own pending stores where the load of one of their chunks has performed them (05 R91, 04 R84, R86, 12 R264). A page
fault that HOSTMODE.PF gives to the host halts the hart for it at the instruction, with the fault in TCAUSE, TVAL and TVAL2 (16 R346). -/
def Obligations.ScalarAccessTraps : Prop :=
  ∀ (s : State) (d a : BitVec 5) (im : BitVec 16) (n : Nat) (i : Instr) (k : AKind), Powered s → vmemPending (curHart s) = false →
    (i, n, k) ∈ [(.ldI8 d a im, 1, .load), (.ldN8 d a im, 1, .load), (.ldI16 d a im, 2, .load), (.ldN16 d a im, 2, .load),
      (.ldI32 d a im, 4, .load), (.ldN32 d a im, 4, .load), (.ldI64 d a im, 8, .load), (.st8 d a im, 1, .store),
      (.st16 d a im, 2, .store), (.st32 d a im, 4, .store), (.st64 d a im, 8, .store)] →
    (let va := (curHart s).getS a + im.signExtend 64
     (va.toNat % n ≠ 0 → (curHart s).viq = [] → exec i s = .next (trapTaken s .align (curHart s).pc va 0)) ∧
     (∀ e : Stop, va.toNat % n = 0 → access s (agentOf s s.cur) va n k .scalar = .error e → TrapsNow e.state e.trap →
       exec i s = .next (trapTaken e.state e.trap.cause (curHart e.state).pc e.trap.tval e.trap.tval2) ∧ e.state.harts = s.harts ∧
         e.state.cur = s.cur ∧
         (MemoryFormed s → ∀ j : Nat, (∀ l : Leaf, walk s (curHart s).csr.ptroot va k = .ok l → j < l.key ∨ l.key + 8 ≤ j) →
           memByte e.state j = memByte s j)) ∧
     (∀ (key : Nat) (s1 : State), va.toNat % n = 0 → access s (agentOf s s.cur) va n .load .scalar = .ok (key, s1) → k = .load →
       isPoisoned (ownSettled s1 s.cur key n) key = true → (curHart s).viq = [] →
       exec i s = .next (trapTaken (ownSettled s1 s.cur key n) .poison (curHart s).pc va 0)) ∧
     (∀ e : Stop, va.toNat % n = 0 → access s (agentOf s s.cur) va n k .scalar = .error e → faultToHost e.state e.trap = true →
       (curHart s).viq = [] → stopStands (curHart s) = false → exec i s = .next (putCur e.state { curHart s with
         pending := none, wait := .none, request := some .hostPageFault, halted := some .hostPageFault,
         csr := { (curHart s).csr with
           tcause := BitVec.ofNat 64 e.trap.cause.code, tval := e.trap.tval, tval2 := e.trap.tval2 } })))

/-- Atomics (05 R92, R93): amo returns the old value, sign-extended to 64 bits, and stores the operation's result; cas stores b where memory
equals d and returns the old value; red stores and returns nothing; 32 or 64 bits as the width bit says. In the host window only amo.add,
amo.swap and cas are admitted (04 Table 04.3), which is what the access asks for. The hart's own stores have been performed, and an atomic on
another package's memory sends its record (16 R347), for which the link has room; the bytes of that record are the model's free values (log
entry 51). That such an atomic changes the other package's memory within the step that issues it is the model's choice (log entry 52). -/
def Obligations.Atomics : Prop :=
  ∀ (s s1 : State) (d a b : BitVec 5) (sc : BitVec 3) (o : BitVec 2) (w : BitVec 1) (p : BitVec 4) (key : Nat), Powered s →
    vmemPending (curHart s) = false → (curHart s).storeQ = [] → isPoisoned s1 key = false →
    (∀ q : Nat, pkgOfKey key = some q → linkStalled s1 q 2 (if w = 1 then 8 else 4) = false) →
    (let va := (curHart s).getS a
     let n := if w = 1 then 8 else 4
     let can := fun (plain : Bool) =>
       va.toNat % n = 0 ∧ access s (agentOf s s.cur) va n (.atomic plain) .scalar = .ok (key, s1)
     let s2 := match pkgOfKey key with
       | some q => linkSend s1 q 2 (plainRecord s1 n) (.atomic (curHart s).ctx va)
       | none => s1
     let old : Word := BitVec.ofNat 64 (memNat s2 key n)
     let ret : Word := if w = 1 then old else (old.setWidth 32).signExtend 64
     let new := fun (k : Nat) (v : Word) => if w = 1 then (amoResult k old v).toNat
       else (amoResult k (old.setWidth 32) (v.setWidth 32)).toNat
     let same := if w = 1 then old = (curHart s).getS d else old.setWidth 32 = ((curHart s).getS d).setWidth 32
     (p.toNat < 9 → can (p.toNat == 0 || p.toNat == 8) → exec (.amo d a b sc o w p) s =
       .next (scalarResult (writeNat s2 0 key (new p.toNat ((curHart s).getS b)) n) d ret)) ∧
     (p.toNat < 8 → can false → exec (.red a b sc o w p) s =
       .next (passed (writeNat s2 0 key (new p.toNat ((curHart s).getS b)) n))) ∧
     (can true → same → exec (.cas d a b sc o w) s =
       .next (scalarResult (writeNat s2 0 key (new 8 ((curHart s).getS b)) n) d ret)) ∧
     (can true → ¬ same → exec (.cas d a b sc o w) s = .next (scalarResult s2 d ret)))

/-! Ordering, waiting, lanes, nests and streams (05, 07, 12 to 15). -/

/-- lsync and fence (12 R265, R266): once no older VIQ entry has memory accesses left they perform the pending stores and go on; an acquire
alone performs none; while such an entry is left they wait, which for an acquire before older vector stores is the model's reading (log entry
72). A fence of kind 0 or of scope 6 or 7 is ILLEGAL. tlbinv (15 R340): in supervisor
mode, with older vector work done, the pending stores are performed and the entries named leave every core's and every cluster's TLB: those
that cover the page of s[a] in context s[b], those of context s[b] that are not global, or all. -/
def Obligations.FencesComplete : Prop :=
  (∀ (s : State) (a b : BitVec 5), Powered s → (curHart s).user = false → (curHart s).viq = [] →
    (let page := (curHart s).getS a
     let ctx := ((curHart s).getS b).toNat % 65536
     (∃ t : State, exec (.tlbinvPage a b) s = .next t ∧ TlbsWithout (drainOwn s) t (fun e => e.covers ctx page)) ∧
     (∃ t : State, exec (.tlbinvCtx b) s = .next t ∧ TlbsWithout (drainOwn s) t (fun e => !e.glb && e.ctxid == ctx)) ∧
     (∃ t : State, exec .tlbinvAll s = .next t ∧ TlbsWithout (drainOwn s) t (fun _ => true)))) ∧
  ∀ (s : State) (k : BitVec 2) (sc : BitVec 3), Powered s →
    (pathsBusy s = false →
      exec .lsync s = .next (passed (drainOwn s)) ∧ (curHart (drainOwn s)).storeQ = [] ∧
      (k ≠ 0 → sc.toNat < 6 → exec (.fence k sc) s = .next (passed (if k = 1 then s else drainOwn s)))) ∧
    (pathsBusy s = true →
      exec .lsync s = .next s ∧ (k ≠ 0 → sc.toNat < 6 → exec (.fence k sc) s = .next s)) ∧
    ((k = 0 ∨ 6 ≤ sc.toNat) → (curHart s).viq = [] →
      exec (.fence k sc) s = .next (trapTaken s .illegal (curHart s).pc (instrWord (.fence k sc)) 0))

/-- waitm (13 R296): it reads the aligned word at s[a]; where it differs from s[b], d takes it and the hart goes on; where it is equal the
hart waits at the instruction. WAITM_RECHECK reads the word of a waiting hart again in the same way, and a word still equal leaves it waiting. yield (13 R297): the hart waits at it for
every other hart of its core that was ready when it issued; a hart that issues, or that is no longer ready when a step is taken, stops
counting; YIELD_RELEASE lets the hart go on once none counts and 16 cycles of 0.625 ns have passed (00 R4). -/
def Obligations.HartsWait : Prop :=
  (∀ (s s1 : State) (d a b : BitVec 5) (v : Nat), Powered s → vmemPending (curHart s) = false → ((curHart s).getS a).toNat % 8 = 0 →
     loadNat s (agentOf s s.cur) ((curHart s).getS a) 8 = .ok (v, s1) →
     (BitVec.ofNat 64 v ≠ (curHart s).getS b →
       exec (.waitm d a b) s = .next (scalarResult (putCur s1 { curHart s1 with wait := .none }) d (BitVec.ofNat 64 v))) ∧
     (BitVec.ofNat 64 v = (curHart s).getS b →
       exec (.waitm d a b) s = .next (putCur s1 { curHart s1 with wait := .waitm d a b })) ∧
     (∀ u : State, Powered u → (getHart u s.cur).wait = .waitm d a b →
       s = putHart { u with cur := s.cur } s.cur { getHart u s.cur with wait := .none } →
       BitVec.ofNat 64 v ≠ (curHart s).getS b →
       exec (.waitmRecheck s.cur) u =
         .next { scalarResult (putCur s1 { curHart s1 with wait := .none }) d (BitVec.ofNat 64 v) with cur := u.cur }) ∧
     (∀ u : State, Powered u → (getHart u s.cur).wait = .waitm d a b →
       s = putHart { u with cur := s.cur } s.cur { getHart u s.cur with wait := .none } →
       BitVec.ofNat 64 v = (curHart s).getS b →
       exec (.waitmRecheck s.cur) u = .next { putCur s1 { curHart s1 with wait := .waitm d a b } with cur := u.cur })) ∧
  (∀ s : State, Powered s →
     exec .yield s = .next (putCur s { curHart s with
       wait := .yield (s.ready.filter (fun h => h != s.cur && h / 4 == s.cur / 4)) s.time }) ∧
     (∀ (h k : Nat) (l : List Nat) (since : Word), (getHart s h).wait = .yield l since →
       (l = [] ∧ 10 ≤ (s.time - since).toNat → exec (.yieldRelease h) s =
         .next (putHart s h { getHart s h with wait := .none, pc := (getHart s h).pc + 4 })) ∧
       (l ≠ [] ∨ (s.time - since).toNat < 10 → exec (.yieldRelease h) s = .next s) ∧
       (k ≠ h → (begin s k).ready = readyHarts s ∧
         (getHart (tick s) h).wait = .yield (l.filter (readyHarts s).contains) since ∧
         (getHart (begin s k) h).wait = .yield ((l.filter (readyHarts s).contains).filter (fun j => j != k)) since)))

/-- forkl and joinl (13 R289, R290). forkl writes 0 where fewer than two slices are free or no slot is unbound; else the lowest unbound slot
runs the child at s[a] with copies of the parent's registers and the highest half of the free slices, once what the parent has stored is
performed, and d is the slot plus 1. joinl goes
on at once for any other value, waits for a live child, and takes the slices that an ended one passed to it. -/
def Obligations.ForkAndJoin : Prop :=
  ∀ (s : State) (d a : BitVec 5), Powered s →
    (let x := curHart s
     let me := s.cur % 4
     let c := getCore s (coreOf s.cur)
     let free := [0, 1, 2, 3].filter (fun j => (c.slice j).held && (c.slice j).owner.toNat == me && !(c.slice j).pend)
     let n := free.length
     (x.viq = [] → x.eng.mtxQ = [] → (x.getS a).toNat % 4 = 0 →
       ((n < 2 ∨ ∀ k < 4, (getHart s (4 * coreOf s.cur + k)).bound = true) → exec (.forkl d a) s = .next (scalarResult s d 0)) ∧
       (∀ k < 4, 2 ≤ n → k ≠ me → (getHart s (4 * coreOf s.cur + k)).bound = false →
         (∀ m < k, (getHart s (4 * coreOf s.cur + m)).bound = true) →
         ∃ t : State, exec (.forkl d a) s = .next t ∧
           (let y := getHart t (4 * coreOf s.cur + k)
            y.bound = true ∧ y.pc = x.getS a ∧ y.gpr = x.gpr ∧ y.shape = x.shape ∧ y.csr.fpctl = x.csr.fpctl ∧
            y.csr.nestid = x.csr.nestid ∧ y.csr.deadline = x.csr.deadline ∧ y.csr.tvec = x.csr.tvec ∧
            y.csr.ptroot = x.csr.ptroot ∧ y.csr.resthr = x.csr.resthr ∧ y.csr.fpflags = 0 ∧ y.parent = some x.ctx ∧ y.mask = Hart.reset.mask ∧
            y.vreg = [] ∧ y.acc = []) ∧
           (∀ j < 4, (getCore t (coreOf s.cur)).slice j =
             if j ∈ free.drop (n - n / 2) then Slice.heldBy k else c.slice j) ∧
           (curHart t).gpr = (x.setS d (BitVec.ofNat 64 (k + 1))).gpr ∧ (curHart t).pc = x.pc + 4 ∧ (curHart t).storeQ = [] ∧
           t.mem = (drainOwn s).mem)) ∧
     ((∀ p ∈ x.kids, BitVec.ofNat 64 (p.1 + 1) ≠ x.getS a ∧ p.1 < 4) → exec (.joinl a) s = .next (passed s)) ∧
     (∀ k kid : Nat, x.kids.find? (fun p => p.1 + 1 == (x.getS a).toNat) = some (k, kid) →
       (liveCtx s kid = true → exec (.joinl a) s = .next s) ∧
       (liveCtx s kid = false →
         ∃ t : State, exec (.joinl a) s = .next t ∧ (curHart t).pc = x.pc + 4 ∧ (curHart t).gpr = x.gpr ∧ t.mem = s.mem ∧
           (∀ j < 4, (getCore t (coreOf s.cur)).slice j =
             if (c.slice j).held = false ∧ (c.slice j).pend = true ∧ (c.slice j).req.toNat = me ∧ (c.slice j).kid = some kid
             then Slice.heldBy me else c.slice j))))

/-- end (13 R292): with no VIQ entry, no child, no exchange membership and no engine command left, the hart's slot is unbound, and no slice of
its core stays held by it, wanted by it or passing toward it. The slot's scalar, mask and shape registers stay as they were, and so do its
system registers but for the flags that its engine commands add to FPFLAGS (21 R372). -/
def Obligations.EndUnbindsHart : Prop :=
  ∀ s : State, Powered s → (curHart s).viq = [] → (curHart s).kids = [] →
    (∀ p ∈ s.xctx, p.2.forLens = true ∨ p.2.memberOf (curHart s).ctx = none) →
    (∀ w : EngX, ((curHart s).eng.line w).done = ((curHart s).eng.line w).issued ∧ ((curHart s).eng.line w).reports = []) →
    (curHart s).csr.cpyerr.getLsbD 63 = false →
    ∃ t : State, exec .endIter s = .next t ∧
      (let x := curHart s
       let y := getHart t s.cur
       y = { x.unbound with csr := { x.csr with fpflags := y.csr.fpflags } } ∧ y.bound = false ∧ y.gpr = x.gpr ∧ y.mask = x.mask ∧
         y.shape = x.shape ∧ ((∀ w : EngX, (x.eng.line w).flags = []) → y.csr = x.csr)) ∧
      ∀ j : Nat, ((getCore t (coreOf s.cur)).slice j).isHeldBy (s.cur % 4) = false ∧
        ((getCore t (coreOf s.cur)).slice j).toward (s.cur % 4) = false

/-- setvl (07 R145, 13 R285): wanted slices leave the hart and passing ones join it; over the n held slices that are not wanted then, the
grant is whole blocks within VLMAX, and the shape register and d are written. A boundary with a change to make waits for older work; a
format code from 24 on is ILLEGAL. -/
def Obligations.SetvlGrants : Prop :=
  ∀ (s : State) (d a : BitVec 5) (n : BitVec 3) (f : BitVec 5) (k o : BitVec 2) (r : BitVec 3), Powered s →
    (let x := curHart s
     let me := s.cur % 4
     let c := getCore s (coreOf s.cur)
     let mine := fun j => c.slice j
     let due := ∃ j < 4, ((mine j).held = true ∧ (mine j).owner.toNat = me ∧ (mine j).pend = true) ∨
       ((mine j).held = false ∧ (mine j).pend = true ∧ (mine j).req.toNat = me)
     (f.toNat < 24 → (¬ due ∨ (x.viq = [] ∧ x.eng.mtxQ = [])) →
       ∃ t : State, exec (.setvl d a n f k o r) s = .next t ∧
         (∀ j < 4, (getCore t (coreOf s.cur)).slice j =
           if (mine j).held = true ∧ (mine j).owner.toNat = me ∧ (mine j).pend = true then
             Slice.passing (mine j).req.toNat (some x.ctx)
           else if (mine j).held = false ∧ (mine j).pend = true ∧ (mine j).req.toNat = me then Slice.heldBy me
           else mine j) ∧
         (let got := ([0, 1, 2, 3].filter (fun j => let y := (getCore t (coreOf s.cur)).slice j
            y.held && y.owner.toNat == me && !y.pend)).length
          let avl := (x.getS a).toNat
          let blk := 16 * 2 ^ k.toNat
          let vmax := if f = 3 ∨ f = 7 ∨ f = 13 then 64 * got else 128 * got
          let grant := min ((avl + blk - 1) / blk * blk) (vmax / blk * blk)
          let pad := if avl < grant then grant - avl else 0
          (curHart t).gpr = (x.setS d (BitVec.ofNat 64 (grant - pad))).gpr ∧
          (curHart t).shape = (x.setSh n.toNat (shapeOf grant pad f.toNat k.toNat r.toNat o.toNat)).shape) ∧
         (curHart t).pc = x.pc + 4 ∧ (curHart t).vreg = x.vreg ∧ (curHart t).mask = x.mask ∧ (curHart t).csr = x.csr ∧ t.mem = s.mem ∧
         (∀ h : Nat, h ≠ s.cur → getHart t h = getHart s h)) ∧
     (f.toNat < 24 → due → (x.viq ≠ [] ∨ x.eng.mtxQ ≠ []) → exec (.setvl d a n f k o r) s = .next s) ∧
     (24 ≤ f.toNat → x.viq = [] →
       exec (.setvl d a n f k o r) s = .next (trapTaken s .illegal x.pc (instrWord (.setvl d a n f k o r)) 0)))

/-- lpreq (13 R286, Table 13.7): each slice by its state and the take and cancel bits, and the result word formed after the changes. When a
slice becomes wanted its LPWAIT count starts; that count's start is the model's own field (log entry 20). vrel (13 R291): with older work
done, every slice the hart holds passes toward its REQ or becomes idle, its requests are cancelled, every stream is freed, every vector line
is dead and every accumulator column is discarded. -/
def Obligations.SlicesChangeHands : Prop :=
  (∀ (s : State) (d a : BitVec 5), Powered s →
     (let x := curHart s
      let me := s.cur % 4
      let v := x.getS a
      ∃ (t : State) (w : Word), exec (.lpreq d a) s = .next t ∧
        (∀ j < 4,
          (let y := (getCore s (coreOf s.cur)).slice j
           let z := (getCore t (coreOf s.cur)).slice j
           (v.getLsbD j = true →
             (y.held = false ∧ y.pend = false → z = Slice.passing me none) ∧
             (y.held = true ∧ y.owner.toNat ≠ me ∧ y.pend = false →
               z = { y with pend := true, req := BitVec.ofNat 2 me, since := s.time }) ∧
             (y.pend = true ∨ (y.held = true ∧ y.owner.toNat = me) → z = y)) ∧
           (v.getLsbD j = false → v.getLsbD (4 + j) = true →
             (y.pend = true ∧ y.req.toNat = me ∧ y.held = true → z = Slice.heldBy y.owner.toNat) ∧
             (y.pend = true ∧ y.req.toNat = me ∧ y.held = false → z = Slice.idle) ∧
             (y.pend = false ∨ y.req.toNat ≠ me → z = y)) ∧
           (v.getLsbD j = false → v.getLsbD (4 + j) = false → z = y) ∧
           w.getLsbD j = (z.held && z.owner.toNat == me) ∧ w.getLsbD (4 + j) = (z.pend && z.req.toNat == me))) ∧
        w.toNat < 256 ∧ (curHart t).gpr = (x.setS d w).gpr ∧ (curHart t).pc = x.pc + 4 ∧ t.mem = s.mem ∧
        ((getCore s (coreOf s.cur)).lpwait ≠ 0 → ∀ h : Nat, h ≠ s.cur → getHart t h = getHart s h))) ∧
  (∀ s : State, Powered s → (curHart s).viq = [] → (curHart s).eng.mtxQ = [] →
     ∃ t : State, exec .vrel s = .next t ∧
       (∀ j < 4,
         (let me := s.cur % 4
          let y := (getCore s (coreOf s.cur)).slice j
          let z := (getCore t (coreOf s.cur)).slice j
          (y.held = true ∧ y.owner.toNat = me ∧ y.pend = true ∧ y.req.toNat ≠ me →
            z = Slice.passing y.req.toNat (some (curHart s).ctx)) ∧
          (y.held = true ∧ y.owner.toNat = me ∧ y.pend = false → z = Slice.idle) ∧
          (y.held = true ∧ y.owner.toNat ≠ me ∧ y.pend = true ∧ y.req.toNat = me → z = Slice.heldBy y.owner.toNat) ∧
          (y.held = false ∧ y.pend = true ∧ y.req.toNat = me → z = Slice.idle) ∧
          (y.owner.toNat ≠ me ∨ y.held = false → y.pend = false ∨ y.req.toNat ≠ me → z = y))) ∧
       (∀ v ∈ [28, 29, 30, 31], (curHart t).streamAt v = none) ∧ (curHart t).vreg = [] ∧ (curHart t).vlines = [] ∧
       (curHart t).acc = [] ∧ (curHart t).pc = (curHart s).pc + 4 ∧ (curHart t).gpr = (curHart s).gpr ∧
       ((curHart s).streams = [] → t.mem = s.mem))

/-- ctxsave and ctxrest in supervisor mode at an aligned slot, with nothing left to wait for (15 R338, R339). ctxsave writes the image of Table
15.5 to the slot and goes on; ctxrest, which reads the image once its hart's older vector accesses are complete and its pending stores performed
(12 R264), holds the registers of the image (HoldsImage), once its checks pass and its lines are written back, and
goes on at its own next instruction. ctxsave traps where a page of the slot cannot be written; a write of its image that meets an uncorrectable
error ends the save, and the context is discarded with its error and its slot logged (15 R329). ctxrest raises BADTILE 96, 97 or 98 where a check
of the image fails. -/
def Obligations.ContextImages : Prop :=
  (∀ (s s1 : State) (a : BitVec 5), Powered s → (curHart s).user = false → ((curHart s).getS a).toNat % 4096 = 0 →
     waitAll s = .passed s1 → s1.cur = s.cur →
     (let slot := (curHart s).getS a
      let pages := translatePages s1 (agentOf s1 s.cur) slot 0x54010 .store (pageList slot.toNat 0x54010)
      (∀ (m : PageMap) (s2 s5 : State) (keys : List Nat), pages = .ok (m, s2) →
        (let u := takeBack (drainAll s2 s.cur) s.cur
         let f := flushLines s.cur (rectLines (getHart u s.cur).csr.hwm) u none
         let s4 := settleStreams f.1 s.cur
         let x := getHart s4 s.cur
         let p : ImageParts := { lost := f.2.isSome, slices := slicesOf s4 s.cur, home := coreOf s.cur, det := false, pc := x.pc + 4,
                                 copyDet := false, lensDet := false, xchDet := false, mtxQ := [], viq := x.held }
         u.cur = s.cur → s4.cur = s.cur →
         writePieces (agentOf s1 s.cur) (imagePath x (16 * slicesOf s4 s.cur)) slot (imagePieces s4 s.cur p) s4 = (s5, keys, none) →
         (keys.any (isPoisoned s5) = false → exec (.ctxsave a) s = .next (passed s5)) ∧
         (keys.any (isPoisoned s5) = true →
           exec (.ctxsave a) s = .next (discardContext (notePartial s5 keys) x.ctx false (some slot))))) ∧
      (∀ e : Stop, pages = .error e → TrapsNow e.state e.trap →
        exec (.ctxsave a) s = .next (trapTaken e.state e.trap.cause (curHart e.state).pc e.trap.tval e.trap.tval2)))) ∧
  (∀ (w s s1 : State) (a : BitVec 5) (ws : List Nat), Powered w → s = drainOwn w → (curHart w).user = false →
     ((curHart w).getS a).toNat % 4096 = 0 →
     (let slot := (curHart w).getS a
      (vmemPending (curHart w) = true → exec (.ctxrest a) w = .next w) ∧
      (vmemPending (curHart w) = false → readWords s (agentOf s s.cur) slot slot 1024 = .ok (ws, s1) → s1.cur = s.cur →
      (∀ (s2 s3 s4 : State), restError (curCore s1) (s.cur % 4) ws = none →
        (∃ u : State, loadTiles s1 s.cur (agentOf s1 s.cur) slot (16 * slicesOf s1 s.cur) = .ok u) →
        waitAll s1 = .passed s2 → s2.cur = s.cur → flushLines s.cur (liveLines (curHart s2)) (takeBack s2 s.cur) none = (s3, none) →
        s3.cur = s.cur → loadOwnImage (freeStreams s3 s.cur) slot ws = .ok s4 →
        exec (.ctxrest a) w = .next (passed s4) ∧ HoldsImage (getHart s4 s.cur) ws ∧ (getHart s4 s.cur).pc = (curHart w).pc) ∧
      (∀ code : Nat, restError (curCore s1) (s.cur % 4) ws = some code → (curHart s1).viq = [] →
        code ∈ [96, 97, 98] ∧
        exec (.ctxrest a) w = .next (trapTaken s1 .badtile (curHart s1).pc slot (BitVec.ofNat 64 code))))))

/-- nest, nwithdraw and nstat (14 R301, R316, R319). nest: a record without error becomes the live nest whose id d receives, or d receives
−1 where 1,024 are live: the id is the lowest that no live nest holds, the record is that of 14 Table 14.1, but that a PRIO which a hart in user
mode submits above its own nest's is cut to it, and the nest runs with the hart's TVEC, RESTHR, PTROOT and mode. nwithdraw of a live nest that is not the hart's own marks it withdrawing and draining; of any other value it does
nothing. nstat: the word of Table 14.6, or −1. -/
def Obligations.NestsSubmitted : Prop :=
  ∀ (s : State) (d a : BitVec 5), Powered s →
    (let v := (curHart s).getS a
     (∀ (ws : List Nat) (s1 : State), (curHart s).viq = [] → (curHart s).storeQ = [] → v.toNat % 256 = 0 →
       readWords s (submitterOf s).agent v v 32 = .ok (ws, s1) → nestError s.boot.fenced (bytesOfWords ws) = none →
       (1024 ≤ s1.nests.length → exec (.nest d a) s = .next (scalarResult s1 d (BitVec.allOnes 64))) ∧
       (s1.nests.length < 1024 →
         ∃ (id : Nat) (n : Nest) (t : State), exec (.nest d a) s = .next t ∧ findNest t id = some n ∧
           0 < id ∧ id < 65536 ∧ findNest s1 id = none ∧ (∀ k : Nat, 0 < k → k < id → (findNest s1 k).isSome = true) ∧
           (let x := curHart s
            let at8 := fun (off : Nat) => (BitVec.ofNat 64 (fieldAt (bytesOfWords ws) off 8) : Word)
            let at4 := fun (off : Nat) => fieldAt (bytesOfWords ws) off 4
            let at2 := fun (off : Nat) => fieldAt (bytesOfWords ws) off 2
            let ctrl := (at8 88).toNat
            n.rc = {
              entry := at8 0, param := at8 8, stack := at8 16, back := at8 24, save := at8 32, cnt := [at4 40, at4 44, at4 48, at4 52],
              ind := [at8 56, at8 64, at8 72, at8 80], ctrl := n.rc.ctrl, stksz := at4 96, preg := at2 100, pscr := at2 102, pl1 := at2 104,
              age := at4 108, dline := (at8 112).toNat, waita := [at8 120, at8 128, at8 136, at8 144],
              waitn := [at8 152, at8 160, at8 168, at8 176], cblk := at8 184, place := fieldAt (bytesOfWords ws) 192 16 } ∧
            n.rc.ctrl.toNat % 4096 = ctrl % 4096 ∧ n.rc.ctrl.toNat / 2 ^ 15 = ctrl / 2 ^ 15 ∧ n.rc.ctrl.toNat / 4096 % 8 = n.eprio ∧
            (x.user = false → n.eprio = ctrl / 4096 % 8) ∧
            (∀ m : Nest, x.user = true → findNest s x.nest = some m →
              n.eprio = min (ctrl / 4096 % 8) (m.rc.ctrl.toNat / 4096 % 8)) ∧
            n.ptroot = x.csr.ptroot ∧ n.tvec = x.csr.tvec ∧ n.resthr = x.csr.resthr ∧ n.user = x.user ∧ n.submitter = x.nest) ∧
           n.walk = Walk.fresh n.rc.ndim ∧ n.waitsOk = n.rc.waita.map (fun a => a == 0) ∧ n.ordinal = 0 ∧ n.out = 0 ∧ n.expn = 0 ∧
           n.badref = false ∧ n.stopped = false ∧ n.withdrawing = false ∧ n.draining = false ∧
           t.harts = (scalarResult s1 d (BitVec.ofNat 64 id)).harts ∧ t.mem = s1.mem)) ∧
     (findNest s v.toNat = none →
       exec (.nwithdraw a) s = .next (passed s) ∧ exec (.nstat d a) s = .next (scalarResult s d (BitVec.allOnes 64))) ∧
     (∀ n : Nest, findNest s v.toNat = some n →
       exec (.nstat d a) s = .next (scalarResult s d (nstatWord s v.toNat n)) ∧
       (n.withdrawing = true → exec (.nwithdraw a) s = .next (passed s)) ∧
       (n.withdrawing = false → (curHart s).nest ≠ v.toNat →
         ((curHart s).user = false ∨ (curHart s).csr.ptroot.toNat % 65536 = n.ptroot.toNat % 65536) →
         exec (.nwithdraw a) s = .next (passed
           (stopContexts (putNest s v.toNat { n with withdrawing := true, draining := true }) v.toNat .withdraw false)))))

/-- sbind, sfree and sstat of v28 to v31 with an empty VIQ (05 R109, R114, R115). sbind of a descriptor without error performs the hart's older
stores and binds the stream that it describes at position 0; sfree writes what a bound stream has pushed, unbinds the register and zeroes it; sstat writes the word of Table
05.4. A register below v28 is ILLEGAL. Streams move by themselves (05 R113): an in-stream with room reads its next element ahead; an
out-stream's oldest pushed element leaves its buffer, to be written when the stream is freed, behind the hart's older stores (12 R271). -/
def Obligations.StreamsBound : Prop :=
  (∀ (s : State) (d a v : BitVec 5), Powered s → (curHart s).viq = [] →
     (28 ≤ v.toNat →
       exec (.sstat d v) s = .next (scalarResult s d (match (curHart s).streamAt v.toNat with
         | none => 0
         | some t => BitVec.ofNat 64
             (2 ^ 63 + (if t.out then 2 ^ 62 else 0) + t.overrun % 65536 * 2 ^ 40 + t.pos % 2 ^ 40))) ∧
       ((curHart s).streamAt v.toNat = none → exec (.sfree v) s = .next (passed s)) ∧
       (∀ t : Stream, (curHart s).streamAt v.toNat = some t →
         ∃ u : State, exec (.sfree v) s = .next u ∧ (curHart u).streamAt v.toNat = none ∧
           u.mem = (writeAll (drainOwn s) (2 ^ 63 + 4 * s.cur + v.toNat % 4) (t.drained ++ t.pushed).flatten).mem ∧ (∀ c < 512, (curHart u).getC v.toNat c = 0) ∧
           (curHart u).pc = (curHart s).pc + 4 ∧ (curHart u).gpr = (curHart s).gpr) ∧
       (∀ (ws : List Nat) (s1 : State), ((curHart s).getS a).toNat % 64 = 0 → s1.cur = s.cur →
         readWords s (agentOf s s.cur) ((curHart s).getS a) ((curHart s).getS a) 8 = .ok (ws, s1) →
         streamDescError (bytesOfWords ws) = none →
         ∃ u : State, exec (.sbind v a) s = .next u ∧ (curHart u).streamAt v.toNat = some (streamOf (bytesOfWords ws) 0 0) ∧ (curHart u).storeQ = [] ∧
           (curHart u).pc = (curHart s1).pc + 4 ∧ (curHart u).gpr = (curHart s1).gpr)) ∧
     (v.toNat < 28 →
       exec (.sbind v a) s = .next (trapTaken s .illegal (curHart s).pc (instrWord (.sbind v a)) 0) ∧
       exec (.sfree v) s = .next (trapTaken s .illegal (curHart s).pc (instrWord (.sfree v)) 0) ∧
       exec (.sstat d v) s = .next (trapTaken s .illegal (curHart s).pc (instrWord (.sstat d v)) 0))) ∧
  (∀ (s : State) (h v : Nat) (t : Stream), Powered s → (getHart s h).streamAt v = some t →
     (∀ (q : StreamDatum) (s1 : State), t.out = false → t.pos + t.fetched.length < streamLen t →
       t.fetched.length * streamElemBytes t < 4096 → streamRead s (agentOf s h) t (t.pos + t.fetched.length) = .ok (q, s1) →
       ∃ u : State, exec (.streamFetch h v) s = .next u ∧ (getHart u h).streamAt v = some { t with fetched := t.fetched ++ [q] } ∧
         u.mem = s1.mem) ∧
     (∀ (b : List MaskedByte) (bs : List (List MaskedByte)), t.pushed = b :: bs →
       ∃ u : State, exec (.streamDrain h v) s = .next u ∧ (getHart u h).streamAt v = some { t with pushed := bs, drained := t.drained ++ [b] } ∧
         u.mem = s.mem ∧ (getHart u h).gpr = (getHart s h).gpr))

/-- tread and twait (05 R118, R119). tread sD, X is COPY fn 2 with X in fn[6:5], copy, mtx, lens and xch as 0 to 3, and tread s4, lens encodes
as 0xCC80_0042; it writes the completion counter of X to d, whatever is queued. twait waits for the lesser of s[a] and the count of issued
commands; when the counter has it and no covered command has a report, the flags of the covered commands are set and the hart goes on. -/
def Obligations.TimelinesWaitedOn : Prop :=
  (∀ (d : BitVec 5) (x : BitVec 2),
    encode (.tread d x) = some (0xCC000002 + 2 ^ 21 * d.toNat + 32 * x.toNat) ∧
    decodeWord (0xCC000002 + 2 ^ 21 * d.toNat + 32 * x.toNat) = .ok (.tread d x)) ∧
  decodeWord 0xCC800042 = .ok (.tread 4 2) ∧
  (∀ (s : State) (d : BitVec 5), Powered s →
    exec (.tread d 0) s = .next (scalarResult s d (curHart s).eng.copy.done) ∧
    exec (.tread d 1) s = .next (scalarResult s d (curHart s).eng.mtx.done) ∧
    exec (.tread d 2) s = .next (scalarResult s d (curHart s).eng.lens.done) ∧
    exec (.tread d 3) s = .next (scalarResult s d (curHart s).eng.xch.done)) ∧
  ∀ (s : State) (a : BitVec 5) (x : BitVec 2), Powered s →
    (let t := (curHart s).eng.line (EngX.ofCode x)
     let n := min ((curHart s).getS a).toNat t.issued.toNat
     (curHart s).csr.cpyerr.getLsbD 63 = false →
       (t.done.toNat < n → exec (.twait a x) s = .next s) ∧
       (n ≤ t.done.toNat → (∀ r ∈ t.reports, n < r.num.toNat) →
         ∃ u : State, exec (.twait a x) s = .next u ∧ (curHart u).pc = (curHart s).pc + 4 ∧ (curHart u).gpr = (curHart s).gpr ∧
           (curHart u).csr = { (curHart s).csr with fpflags := (curHart s).csr.fpflags |||
             (((t.flags.filter (fun p => p.1.toNat ≤ n)).foldl (fun f p => f ||| p.2) 0) &&& 0x3F) } ∧
           u.mem = s.mem))

/-! Vector instructions (05, 07 to 10). -/

/-- A vector instruction other than xsend that passes the checks at capture enters the VIQ with its captures, at the next sequence number,
and the front end goes on or, at a synchronising read, stalls; it does no more than that while older entries are left or the model runs
relaxed (07 R142, R143; the relaxed order is the model's, log entry 12). At a full VIQ it waits. -/
def Obligations.VectorEntersQueue : Prop :=
  ∀ (s : State) (i : Instr) (op : VOp),
    (Admitted s i op → (∀ d a b n m, i ≠ .xsend d a b n m) → (s.relaxed = true ∨ (curHart s).viq ≠ []) →
      exec i s = .next (vectorQueued s i)) ∧
    (Powered s → (shapeFields i).isSome = true → vopOf s s.cur (vectorEntry s i) = some op → (curHart s).vq = false →
      op.legal (curHart s) (vectorEntry s i).cap = true → streamsOk (curHart s) op (vectorEntry s i).cap = true →
      32 ≤ (curHart s).viq.length → (∀ d a b n m, i ≠ .xsend d a b n m) → exec i s = .next s)

/-- A vector instruction that fails a check at capture, or that executes while a VIQ image is held, raises ILLEGAL with its word (03 R50,
R51, 06 R129, 15 R324). A poisoned element of operand a at the first active position raises POISON there (07 R150): VEC = 1, RESIDX 0, TVAL
the register, TVAL2 1, and the entry is held. That operand a is the one reported even where another operand of the position is poisoned too is the
model's order (log entry 109). -/
def Obligations.VectorChecks : Prop :=
  (∀ (s : State) (i : Instr) (op : VOp), Powered s → (shapeFields i).isSome = true → vopOf s s.cur (vectorEntry s i) = some op →
     (curHart s).viq = [] → (∀ d a b n m, i ≠ .xsend d a b n m) →
     ((curHart s).vq = true ∨ op.legal (curHart s) (vectorEntry s i).cap = false ∨
       streamsOk (curHart s) op (vectorEntry s i).cap = false) →
     exec i s = .next (trapTaken s .illegal (curHart s).pc (instrWord i) 0)) ∧
  (∀ (s s2 : State) (i : Instr) (op : VOp) (d a b : BitVec 5) (n m : BitVec 3), Issues s i op s2 →
     (i = .vadd d a b n m ∨ i = .vmul d a b n m ∨ i = .vsll d a b n m ∨ i = .vfadd d a b n m ∨ i = .vfma d a b n m ∨
       i = .vfmin d a b n m ∨ i = .vcmpLt d a b n m) →
     (let c := (vectorEntry s i).cap
      let x := getHart s2 s.cur
      0 < realLen c.shape → x.maskBit m.toNat 0 = true → (x.elem (shFmt c.shape) a.toNat 0).psn = true →
      ∃ t : State, exec i s = .next t ∧
        (getHart t s.cur).csr = { x.csr with
          residx := 0, viqpos := viqposOf (vectorEntry s i).seq, tcause := 0x8000000000000000#64 ||| BitVec.ofNat 64 (Cause.code .poison),
          tpc := x.pc &&& ~~~3#64, tval := BitVec.ofNat 64 a.toNat, tval2 := 1, tstatus := 4 ||| (if x.user then 2 else 0) } ∧
        (getHart t s.cur).pc = x.csr.tvec &&& ~~~3#64 ∧ (getHart t s.cur).vreg = x.vreg ∧
        (getHart t s.cur).held = [{ vectorEntry s i with issued := false }] ∧ t.mem = s2.mem))

/-- The integer arithmetic of 07 Table 07.3 at every active position of a group: sums, differences and products modulo 2^w, the high half,
saturation with SAT, minimum and maximum by signedness, bitwise operations and shifts (07 R147, R151, 02 R19). vmacc: sat_W(d + a × b) in
the twice-wide format; vnshr: a twice-wide element shifted right exactly, brought to an integer toward zero, to nearest up, to nearest even
or to odd, and saturated (07 R152, R153). -/
def Obligations.IntegerElements : Prop :=
  (∀ (s s2 : State) (i : Instr) (op : VOp) (l : ElementLaw), integerLaw i = some l → Issues s i op s2 → NoPoison (getHart s2 s.cur) →
     exec i s = .next (lawDone s s2 i l)) ∧
  (∀ (s s2 : State) (i : Instr) (op : VOp) (l : ElementLaw), widthLaw i = some l → Issues s i op s2 → NoPoison (getHart s2 s.cur) →
     exec i s = .next (lawDone s s2 i l))

/-- vmv (unpacked), vmerge, vsplat, vid and viota place values in a group, poison moving with copied containers; vins writes the one element
at position s[b] where it lies below VL − PAD, and nothing else (07 R155, R158). The permutes: vperm, vslide.up, vslide.dn and vbcast within
rows, vreshape across shapes, vunpack, vlut, vexpand and vcompress (07 R159 to R163). That a vreshape does nothing where VL of its source shape
alone is 0 is the model's reading (log entry 89). -/
def Obligations.ElementsMoved : Prop :=
  ((∀ (s s2 : State) (i : Instr) (op : VOp) (l : ElementLaw), placeLaw i = some l → Issues s i op s2 →
     ((∃ d a n m, i = .vmv d a n m) → fmtPacked (shFmt (vectorEntry s i).cap.shape) = false) → exec i s = .next (lawDone s s2 i l)) ∧
   (∀ (s s2 : State) (op : VOp) (d a b : BitVec 5) (n : BitVec 3), Issues s (.vins d a b n) op s2 →
     (let c := (vectorEntry s (.vins d a b n)).cap
      let x := getHart s2 s.cur
      let p := c.sb.toNat
      exec (.vins d a b n) s = .next (vectorDone s2 s.cur
        (if p < shRows c.shape * shVL c.shape ∧ p % shVL c.shape < realLen c.shape then
          x.setElem (shFmt c.shape) (d.toNat + p / shVL c.shape) (p % shVL c.shape) (plainElem c.sa.toNat)
         else x))))) ∧
  (∀ (s s2 : State) (i : Instr) (op : VOp) (l : ElementLaw), permuteLaw i = some l → Issues s i op s2 → NoPoison (getHart s2 s.cur) →
     exec i s = .next (lawDone s s2 i l))

/-- The comparisons write one mask (07 R147, R154, 08 R170): at an active position the predicate's value, at an inactive one below VL − PAD
the bit as it was, and 0 from VL − PAD up; their flags are raised. mand, mor, mxor and mandn write each bit below VL − PAD and clear the
others (07 R156). -/
def Obligations.MasksWritten : Prop :=
  (∀ (s s2 : State) (i : Instr) (op : VOp) (d a b : BitVec 5) (n m : BitVec 3) (g : Nat → Elem → Elem → Bool × Flags),
     compareLaw i = some (d, a, b, n, m, g) → Issues s i op s2 → NoPoison (getHart s2 s.cur) →
     (let c := (vectorEntry s i).cap
      let f := shFmt c.shape
      let x := getHart s2 s.cur
      let at1 := fun k => g f (x.elem f a.toNat k) (x.elem f b.toNat k)
      let fl := ((List.range (realLen c.shape)).filter (fun k => x.maskBit m.toNat k)).foldl (fun (u : Flags) k => u ||| (at1 k).2) 0
      ∃ v : BitVec 512, exec i s = .next (vectorDone s2 s.cur ((x.setM d.toNat v).addFlags fl)) ∧
        ∀ k < 512, v.getLsbD k =
          (decide (k < realLen c.shape) && if x.maskBit m.toNat k then (at1 k).1 else x.maskBit d.toNat k))) ∧
  (∀ (s s2 : State) (i : Instr) (op : VOp) (d a b : BitVec 5) (n : BitVec 3) (g : Bool → Bool → Bool),
     maskLaw i = some (d, a, b, n, g) → Issues s i op s2 →
     (let x := getHart s2 s.cur
      ∃ v : BitVec 512, exec i s = .next (vectorDone s2 s.cur (x.setM d.toNat v)) ∧
        ∀ k < 512, v.getLsbD k =
          (decide (k < realLen (vectorEntry s i).cap.shape) && g (x.maskBit a.toNat k) (x.maskBit b.toNat k))))

/-- The synchronising reads at an empty VIQ return their result and let the front end go on (07 R143, R157, R158, 08 R182, 13 R282): mpop
counts, mfirst finds the least, vmovs reads the element at position s[b] or 0, vargmax finds the highest-ranked active element, and bvany
and bvnone branch on the bits of a mask below VL − PAD. -/
def Obligations.SyncReadsReturn : Prop :=
  ∀ (s s2 : State) (op : VOp) (d a b : BitVec 5) (n m : BitVec 3) (o : BitVec 16),
    (Issues s (.mpop d a n m) op s2 →
      (let x := getHart s2 s.cur
       let k := (List.range (realLen (vectorEntry s (.mpop d a n m)).cap.shape)).filter
         (fun j => x.maskBit m.toNat j && x.maskBit a.toNat j)
       exec (.mpop d a n m) s = .next (syncDone s2 s.cur x d (BitVec.ofNat 64 k.length)))) ∧
    (Issues s (.mfirst d a n m) op s2 →
      (let x := getHart s2 s.cur
       let k := (List.range (realLen (vectorEntry s (.mfirst d a n m)).cap.shape)).filter
         (fun j => x.maskBit m.toNat j && x.maskBit a.toNat j)
       exec (.mfirst d a n m) s = .next (syncDone s2 s.cur x d
         (match k with | [] => BitVec.allOnes 64 | j :: _ => BitVec.ofNat 64 j)))) ∧
    (Issues s (.vmovs d a b n) op s2 → NoPoison (getHart s2 s.cur) →
      (let c := (vectorEntry s (.vmovs d a b n)).cap
       let x := getHart s2 s.cur
       let f := shFmt c.shape
       let p := c.sb.toNat
       let e := x.elem f (a.toNat + p / shVL c.shape) (p % shVL c.shape)
       exec (.vmovs d a b n) s = .next (syncDone s2 s.cur x d
         (if p < shRows c.shape * shVL c.shape ∧ p % shVL c.shape < realLen c.shape then
           (if f < 4 then BitVec.ofInt 64 (patValue true (fmtWidth f) e.bits) else BitVec.ofNat 64 e.bits)
          else 0)))) ∧
    (Issues s (.vargmax d a n m) op s2 → NoPoison (getHart s2 s.cur) →
      (let c := (vectorEntry s (.vargmax d a n m)).cap
       let x := getHart s2 s.cur
       let f := shFmt c.shape
       let es := (List.range (shRows c.shape)).flatMap (fun r =>
         (actives c m.toNat x a r).map (fun p => (r * shVL c.shape + p.1, p.2)))
       let y := x.addFlags (if fmtFloat f && es.any (fun p => isSig (valOf f p.2)) then flagNV else 0)
       exec (.vargmax d a n m) s = .next (syncDone s2 s.cur y d
         (match es with
          | [] => BitVec.allOnes 64
          | p :: ps => BitVec.ofNat 64 (ps.foldl (fun b q => if ranksAbove f q.2 b.2 then q else b) p).1)))) ∧
    (∀ (i : Instr) (want : Bool), (i = .bvany a d o ∧ want = true) ∨ (i = .bvnone a d o ∧ want = false) → Issues s i op s2 →
      (let x := getHart s2 s.cur
       let some1 := (List.range (realLen (vectorEntry s i).cap.shape)).any (fun k => x.maskBit a.toNat k)
       exec i s = .next (putHart s2 s.cur { x with
         viq := [], sync := none,
         pc := (curHart s).pc + (if some1 = want then o.signExtend 64 <<< 2 else 4) })))

/-- Floating-point sums, differences, products, fused forms, quotients and square roots at every active position, each part computed exactly
and written once under FPCTL (08 R164 to R168, Table 08.2). Minimum, maximum, signs, classes, estimates, vsettle, vtail and vcvt at every
active position (08 R169 to R178). How many steps an estimate's series takes is the model's; its rounding is the rule's. -/
def Obligations.FloatElements : Prop :=
  (∀ (s s2 : State) (i : Instr) (op : VOp) (l : ElementLaw), floatLaw i = some l → Issues s i op s2 → NoPoison (getHart s2 s.cur) →
     exec i s = .next (lawDone s s2 i l)) ∧
  (∀ (s s2 : State) (i : Instr) (op : VOp) (l : ElementLaw), floatMoveLaw i = some l → Issues s i op s2 → NoPoison (getHart s2 s.cur) →
     exec i s = .next (lawDone s s2 i l))

/-- Reductions write element 0 of each row from its active elements, scans write each active position's running result and zero at padding,
and at VL = 0 neither writes anything; vtopk keeps the k best candidates of each element (08 R179 to R185). -/
def Obligations.RowsReduced : Prop :=
  (∀ (s s2 : State) (i : Instr) (op : VOp) (d a : BitVec 5) (n m : BitVec 3)
     (g : Capture → Hart → Nat → List (Nat × Elem) → Elem × Flags),
    reduceLaw i = some (d, a, n, m, g) → Issues s i op s2 → NoPoison (getHart s2 s.cur) →
    (let c := (vectorEntry s i).cap
     exec i s = .next (vectorDone s2 s.cur
       (if shVL c.shape = 0 then getHart s2 s.cur
        else rowsDone c.shape (fun x r =>
          (x.setElem (shFmt c.shape) (d.toNat + r) 0 (g c x r (actives c m.toNat x a r)).1).addFlags
            (g c x r (actives c m.toNat x a r)).2) (getHart s2 s.cur))))) ∧
  (∀ (s s2 : State) (i : Instr) (op : VOp) (d a : BitVec 5) (n m : BitVec 3) (g : Nat → Word → Elem → Elem → Elem × Flags),
    scanLaw i = some (d, a, n, m, g) → Issues s i op s2 → NoPoison (getHart s2 s.cur) →
    (let c := (vectorEntry s i).cap
     let f := shFmt c.shape
     exec i s = .next (vectorDone s2 s.cur
       (if shVL c.shape = 0 then getHart s2 s.cur
        else rowsDone c.shape (fun x r =>
          let z := scanRow f c.fpctl (g f c.fpctl) none (actives c m.toNat x a r)
          let y := z.1.foldl (fun (x : Hart) p => x.setElem f (d.toNat + r) p.1 p.2) x
          (((List.range (shVL c.shape)).drop (realLen c.shape)).foldl (fun (x : Hart) i => x.zeroElem f (d.toNat + r) i) y).addFlags z.2)
          (getHart s2 s.cur))))) ∧
  (∀ (s s2 : State) (op : VOp) (d a k : BitVec 5) (n m : BitVec 3), Issues s (.vtopk d a k n m) op s2 →
    (let c := (vectorEntry s (.vtopk d a k n m)).cap
     let f := shFmt c.shape
     exec (.vtopk d a k n m) s = .next (vectorDone s2 s.cur (sweepHart c.shape (fun x _ i =>
       if realLen c.shape ≤ i then
         (List.range k.toNat).foldl (fun (x : Hart) j => (x.zeroElem f (d.toNat + j) i).setC (d.toNat + k.toNat + j) i 0) x
       else if x.maskBit m.toNat i then
         topkStep f c.fpctl d.toNat k.toNat i (List.range k.toNat) (x.elem f a.toNat i) (x.getC (a.toNat + 1) i) x
       else x) (getHart s2 s.cur)))))

/-- rgen and rgen.top order the active keys of a register and carry their indices; rmerge merges two runs, the first one's entry first among
equal keys (10 R211 to R214). Every place without an entry is zero. -/
def Obligations.RunsSorted : Prop :=
  (∀ (s s2 : State) (i : Instr) (op : VOp) (d a b : BitVec 5) (n m : BitVec 3) (sel : List (Nat × Nat) → List (Nat × Nat)),
    ((i = .rgen d a b n m ∧ sel = rgenOrder) ∨ (i = .rgenTop d a b n m ∧ sel = rgenTop64)) → Issues s i op s2 →
    NoPoison (getHart s2 s.cur) →
    (let c := (vectorEntry s i).cap
     let f := shFmt c.shape
     let x := getHart s2 s.cur
     let keys := ((List.range (realLen c.shape)).filter (fun k => x.maskBit m.toNat k)).map
       (fun k => (keyWord f true (x.elem f a.toNat k), k))
     let out := sel keys
     let y := (List.zip (List.range out.length) out).foldl (fun y p => putRun y f d.toNat (d.toNat + 1) p.1 x a.toNat b.toNat p.2.2) x
     exec i s = .next (vectorDone s2 s.cur
       (((List.range (shVL c.shape)).drop out.length).foldl (zeroRun f d.toNat (d.toNat + 1)) y)))) ∧
  (∀ (s s2 : State) (op : VOp) (d a b : BitVec 5) (n : BitVec 3), Issues s (.rmerge d a b n) op s2 → NoPoison (getHart s2 s.cur) →
    (let c := (vectorEntry s (.rmerge d a b n)).cap
     let f := shFmt c.shape
     let x := getHart s2 s.cur
     let l := realLen c.shape
     let keys := fun (v : BitVec 5) => (List.range l).map (fun k => (keyWord f true (x.elem f v.toNat k), k))
     let out := mergeRuns (2 * l) (keys a) (keys b)
     let y := (List.zip (List.range out.length) out).foldl (fun y p =>
       let src := if p.2.1 then b.toNat else a.toNat
       let dst := if p.1 < l then d.toNat else d.toNat + 2
       putRun y f dst (dst + 1) (if p.1 < l then p.1 else p.1 - l) x src (src + 1) p.2.2) x
     exec (.rmerge d a b n) s = .next (vectorDone s2 s.cur (((List.range (shVL c.shape)).drop l).foldl
       (fun y k => zeroRun f (d.toNat + 2) (d.toNat + 3) (zeroRun f d.toNat (d.toNat + 1) y k) k) y))))

/-- Vector loads (05 R96 to R108), after the hart's older scalar stores: each position in turn is zero at padding, unchanged where the mask bit is 0, and else takes the data at
the addresses of its instruction, converted; vldw serves the indices inside its window and clears the mask bits of the positions that it
served and those from VL − PAD up; vfill takes raw containers with their tails. The statement holds wherever every access succeeds. That vldw
reads its window bound W as a signed number, and that every vector access waits for all of the hart's older scalar stores, are the model's
choices (log entries 92 and 18). -/
def Obligations.VectorLoads : Prop :=
  (∀ (s s2 u : State) (i : Instr) (op : VOp) (d : BitVec 5) (fields : Nat) (m : BitVec 3) (f : BitVec 5),
    loadFields i = some (d, fields, m, f) → Issues s i op s2 → NoPoison (getHart s2 s.cur) →
    (let c := (vectorEntry s i).cap
     let win := match i with | .vldw .. => true | _ => false
     let step := fun (t : State) (r k : Nat) =>
       let x := getHart t s.cur
       if realLen c.shape ≤ k then
         some (putHart t s.cur ((List.range fields).foldl
           (fun (y : Hart) j => y.setElemIn (shFmt c.shape) (d.toNat + j * shRows c.shape + r) k Elem.zero (loadFills x (vectorEntry s i))) x))
       else if x.maskBit m.toNat k then
         ((loadPlaces i c x r k).foldl (fun (o : Option (List LoadDatum × State)) q =>
            o.bind (fun w =>
              match readDatum w.2 s.cur f.toNat r k q.1 q.2.1 q.2.2.1 q.2.2.2.1 (loadRoute i (vectorEntry s i) w.2 s.cur fields k m f q.2.2.2.2) with
              | .ok (q1, t1) => some (w.1 ++ [q1], t1)
              | .error _ => none)) (some ([], t))).map
           (fun w => putHart w.2 s.cur (w.1.foldl (fun y q =>
             let z := landDatum d f.toNat y (vectorEntry s i) q
             if win then z.setM m.toNat (withBit (z.getM m.toNat) q.elem false) else z) (getHart w.2 s.cur)))
       else some t
     (17 ≤ f.toNat → c.sa1.toNat % 2 = 0) → sweepTo c.shape step (storesDone s2 s.cur) = some u →
     exec i s = .next (vectorDone u s.cur
       (let x := getHart u s.cur
        if win then x.setM m.toNat (clearFrom (x.getM m.toNat) (realLen c.shape)) else x)))) ∧
  (∀ (s s2 u : State) (op : VOp) (d a : BitVec 5) (n : BitVec 3), Issues s (.vfill d a n) op s2 →
    (let e := vectorEntry s (.vfill d a n)
     let step := fun (t : State) (r k : Nat) =>
       match fillSome t s.cur e r k (spillCs e k) with
       | .ok (qs, t1) => some (putHart t1 s.cur (qs.foldl (fun y q =>
           y.setC (d.toNat + q.row) q.fld (mkC q.psn (q.bits / 2 ^ 32) q.bits)) (getHart t1 s.cur)))
       | .error _ => none
     e.cap.sa.toNat % 4 = 0 → sweepTo e.cap.shape step (storesDone s2 s.cur) = some u →
     exec (.vfill d a n) s = .next (vectorDone u s.cur (getHart u s.cur))))

/-- Vector stores (05 R96 to R108): each active position in turn settles its element and performs its bytes at the addresses of its
instruction, after the hart's older scalar stores; inactive positions and padding store nothing; vspill stores raw containers and tails. The
statement holds wherever every access succeeds. vred (05 R106): each active position in turn replaces the element of memory at s[a] + idx ×
size by its sum, minimum or maximum with the register's element; the flags are raised at completion. Over memory of this package's own. That
every vector access waits for all of the hart's older scalar stores is the model's choice (log entry 18). -/
def Obligations.VectorStores : Prop :=
  ((∀ (s s2 u : State) (i : Instr) (op : VOp) (d : BitVec 5) (m : BitVec 3) (f : BitVec 5),
     storeFields i = some (d, m, f) → Issues s i op s2 → NoPoison (getHart s2 s.cur) →
     (let e := vectorEntry s i
      let c := e.cap
      let step := fun (t : State) (r k : Nat) =>
        let x := getHart t s.cur
        if realLen c.shape ≤ k ∨ x.maskBit m.toNat k = false then some t
        else
          ((storePlaces i c x r k).foldl (fun (o : Option (List MaskedByte × Flags × State)) q =>
             o.bind (fun w =>
               match storeDatum w.2.2 s.cur e f.toNat (d.toNat + q.1 * shRows c.shape + r) k q.2.1 q.2.2 (storeRoute i e w.2.2 s.cur k m f q.2.1 q.2.2) with
               | .ok (bs, fl, t1) => some (w.1 ++ bs, w.2.1 ||| fl, t1)
               | .error _ => none)) (some ([], 0, t))).map
            (fun w => performStores w.2.2 s.cur e w.1 w.2.1)
      sweepTo c.shape step (storesDone s2 s.cur) = some u → exec i s = .next (vectorDone u s.cur (getHart u s.cur)))) ∧
   (∀ (s s2 u : State) (op : VOp) (d a : BitVec 5) (n : BitVec 3), Issues s (.vspill d a n) op s2 →
     (let e := vectorEntry s (.vspill d a n)
      let step := fun (t : State) (r k : Nat) =>
        match spillSome t s.cur e (d.toNat + r) r (spillCs e k) with
        | .error _ => none
        | .ok (bs, ks, t1) =>
          match spillZeros t1 s.cur e r (if k + 1 = shVL e.cap.shape then spillRest e.cap else []) with
          | .error _ => none
          | .ok (cs, t2) => some (ks.foldl poisonChunk (performStores t2 s.cur e (bs ++ cs) 0))
      e.cap.sa.toNat % 4 = 0 → sweepTo e.cap.shape step (storesDone s2 s.cur) = some u →
      exec (.vspill d a n) s = .next (vectorDone u s.cur (getHart u s.cur))))) ∧
  (∀ (s s2 u : State) (i : Instr) (op : VOp) (kind : RedKind) (d b : BitVec 5) (m : BitVec 3) (f : BitVec 5),
     vredFields i = some (kind, d, b, m, f) → Issues s i op s2 → NoPoison (getHart s2 s.cur) →
     (let c := (vectorEntry s i).cap
      let step := fun (w : State) (r k : Nat) =>
        let x := getHart w s.cur
        let va := addInt c.sa (signedOf 32 (cData (x.getC (b.toNat + r) k)) * (fmtBytes f.toNat : Nat))
        if realLen c.shape ≤ k ∨ x.maskBit m.toNat k = false then some w
        else if va.toNat % fmtBytes f.toNat ≠ 0 then none
        else
          match access w (agentOf w s.cur) va (fmtBytes f.toNat) (.atomic false)
            (storePath (vecAlloc x (gatherFoot w s.cur (vectorEntry s i) f.toNat b.toNat m.toNat k) true) 0 [] 0 0) with
          | .error _ => none
          | .ok (key, w1) =>
            if isPoisoned w1 key = true ∨ (pkgOfKey key).isSome = true then none
            else
              let z := vredUpdate kind f.toNat c.fpctl (memNat w1 key (fmtBytes f.toNat)) (x.elem f.toNat (d.toNat + r) k)
              some (setHead (writeNat w1 0 key z.1 (fmtBytes f.toNat)) s.cur (fun q => { q with flags := q.flags ||| z.2 }))
      sweepTo c.shape step (storesDone s2 s.cur) = some u →
      exec i s = .next (vectorDone u s.cur
        (let x := getHart u s.cur
         x.addFlags (match x.viq with | q :: _ => q.flags | [] => 0)))))

/-- mext extracts accumulator slots into a group at every active position, a mark as the NaN or as zero with NV; mplane writes each active
element's code into the panel of its target word, or whole blocks of 32 with their scales (09 R205 to R207). BADTILE of a field out of range
comes at issue: row 6, columns 2, target 7; that it has VEC = 1 in TCAUSE is the model's reading (log entry 25), and so is the order of these
codes where several hold (log entry 114). -/
def Obligations.TileVectors : Prop :=
  (∀ (s s2 : State) (op : VOp) (d a t : BitVec 5) (n m : BitVec 3), Issues s (.mext d a t n m) op s2 →
    exec (.mext d a t n m) s = .next (lawDone s s2 (.mext d a t n m) (plainLaw d n m (fun c x r i =>
      let v := x.acc74 t.toNat (c.sa.toNat + r) i
      let wf := x.isWf t.toNat
      let f := shFmt c.shape
      let z := if isMark wf v then (if fmtFloat f then writeElem f c.fpctl (.fp matrixNan) else (Elem.zero, flagNV))
        else writeElem f c.fpctl (if wf then .fp (slotValue v) else .int (signedOf 72 v.toNat))
      (x.setElem f (d.toNat + r) i z.1).addFlags z.2)))) ∧
  (∀ (s s2 : State) (op : VOp) (d a : BitVec 5) (n m : BitVec 3), Issues s (.mplane d a n m) op s2 → NoPoison (getHart s2 s.cur) →
    (let e := vectorEntry s (.mplane d a n m)
     let t := targetOf e.cap.sa
     let f := shFmt e.cap.shape
     let u := sweepState e.cap.shape (fun w r i =>
       let x := getHart w s.cur
       if bScaled t.fmt then
         (if i % 32 = 31 ∨ i + 1 = shVL e.cap.shape then planeBlock w s.cur e d.toNat m.toNat r i else w)
       else if i < realLen e.cap.shape ∧ x.maskBit m.toNat i = true then
         let el := x.elem f (d.toNat + r) i
         let z := settleTo t.fmt (rndOf e.cap.fpctl) (elemVal f el.bits el.tail).1
         performStores w s.cur e (targetBits (coreOf s.cur) t (32 * t.kblk0 + i) (t.first + r) z.1) ((elemVal f el.bits el.tail).2 ||| z.2)
       else w) (storesDone s2 s.cur)
     exec (.mplane d a n m) s = .next (vectorDone u s.cur (getHart u s.cur)))) ∧
  (∀ (s : State) (i : Instr) (op : VOp) (tr : Trap), Admitted s i op → s.relaxed = false → (curHart s).viq = [] →
    op.ready (vectorQueued s i) s.cur (vectorEntry s i) = true → op.pre (vectorQueued s i) s.cur (vectorEntry s i) = some tr →
    (∃ d a t n m, i = .mext d a t n m) ∨ (∃ d a n m, i = .mplane d a n m) →
    ∃ t : State, exec i s = .next t ∧ (curHart t).csr.tcause = 0x8000000000000000#64 ||| BitVec.ofNat 64 (Cause.code .badtile) ∧
      (curHart t).csr.tval = tr.tval ∧ (curHart t).csr.tval2 = tr.tval2 ∧ t.mem = s.mem ∧
      ((tr.tval = (vectorEntry s i).cap.sa ∧ (tr.tval2 = 6 ∨ tr.tval2 = 7)) ∨ (tr.tval = (vectorEntry s i).cap.shape ∧ tr.tval2 = 2)))

/-! Engine commands (05, 09 to 11). -/

/-- settile (09 R189): M cut to 256 and N to 16 columns for each held slice that is not wanted; the grant to d and the tile shape to a shape
register, or BADTILE with code 1 where a field is reserved or the pairing is none of Table 09.1. mzero, mmac, mmaci, mspill and mfill (09
R199 to R204) whose checks pass are queued with their captures while the context holds fewer than 16 commands, and wait while it holds 16; a
multiply with a reserved format in its shape register raises ILLEGAL (02 R18), and so does an mmaci whose register pair would begin at s31; one that a check of Table 09.4 refuses raises BADTILE.
dcopy and dfill (05 R117, R120): a descriptor without error, whose scratchpad sides lie in the scratchpad unless a count is 0, is read and
queued, and d takes the command's number; a descriptor in error raises BADTILE with the field's offset. An issue stands behind the older
accesses of its hart (12 R270): it waits for the vector ones, and the pending scalar stores are performed first. Which code BADTILE gives where
several conditions of Table 09.4 hold is the model's choice (log entry 114). -/
def Obligations.CommandsQueued : Prop :=
  (∀ (s : State) (d a b : BitVec 5) (n : BitVec 3) (t : BitVec 1), Powered s →
     (let x := curHart s
      let req := (x.getS a).toNat
      let cols := 16 * ([0, 1, 2, 3].filter (fun j =>
        let y := (getCore s (coreOf s.cur)).slice j
        y.held && y.owner.toNat == s.cur % 4 && !y.pend)).length
      let bf := req / 2 ^ 20 % 32
      let af := req / 2 ^ 27 % 4
      let tr := req.testBit 26
      let sp := req.testBit 25
      let fits := req % 2 ^ 20 = 0 ∧ req / 2 ^ 29 % 8 = 0 ∧ bf ∈ [0, 1, 8, 9, 20, 21, 22, 23] ∧ af < 2 ∧ (tr = true → sp = true ∧ bf < 20)
      let m := min (req / 2 ^ 48 % 512) 256
      let k := min (req / 2 ^ 57) cols
      let s0 := drainOwn s
      let image := m * 2 ^ 21 + (if tr then 2 ^ 19 else 0) + (if sp then 2 ^ 18 else 0) + bf * 2 ^ 13 + af * 2 ^ 10 + k
      (fits → exec (.settile d a n) s = .next (putCur s
        (let y := (x.setS d (BitVec.ofNat 64 (req % 2 ^ 48 + m * 2 ^ 48 + k * 2 ^ 57))).setSh n.toNat (BitVec.ofNat 64 image)
         { y with pc := x.pc + 4 }))) ∧
      (¬ fits → x.viq = [] → exec (.settile d a n) s = .next (trapTaken s .badtile x.pc (x.getS a) 1)) ∧
      (24 ≤ shFmt (x.getSh n.toNat) → x.viq = [] →
        exec (.mmac d a b n t) s = .next (trapTaken s .illegal x.pc (instrWord (.mmac d a b n t)) 0) ∧
        exec (.mmaci d a b n t) s = .next (trapTaken s .illegal x.pc (instrWord (.mmaci d a b n t)) 0)) ∧
      (x.viq = [] → exec (.mmaci d a 31 n t) s = .next (trapTaken s .illegal x.pc (instrWord (.mmaci d a 31 n t)) 0)) ∧
      (16 ≤ x.eng.mtxQ.length →
        exec (.mzero d t) s = .next s ∧ exec (.mspill d a t) s = .next s ∧ exec (.mfill d a t) s = .next s ∧
          (shFmt (x.getSh n.toNat) < 24 →
            exec (.mmac d a b n t) s = .next s ∧ (b ≠ 31 → exec (.mmaci d a b n t) s = .next s))) ∧
      (x.eng.mtxQ.length < 16 → vmemPending x = true →
        exec (.mzero d t) s = .next s ∧
        (shFmt (x.getSh n.toNat) < 24 → macCheck s s.cur (x.getSh n.toNat) (x.getS a) (x.getS b) = none →
          exec (.mmac d a b n t) s = .next s ∧
          (b ≠ 31 → (x.getS (b + 1)).toNat % 4 = 0 → exec (.mmaci d a b n t) s = .next s)) ∧
        ((x.getS a).toNat % 16 = 0 → exec (.mspill d a t) s = .next s ∧ exec (.mfill d a t) s = .next s)) ∧
      (x.eng.mtxQ.length < 16 → vmemPending x = false →
        exec (.mzero d t) s = .next (mtxIssued s0 d (newCmd x (.mzero d t) 0 0 0 0)) ∧
        (shFmt (x.getSh n.toNat) < 24 → macCheck s s.cur (x.getSh n.toNat) (x.getS a) (x.getS b) = none →
          exec (.mmac d a b n t) s =
            .next (mtxIssued s0 d (newCmd x (.mmac d a b n t) (x.getS a) (x.getS b) 0 (x.getSh n.toNat))) ∧
          (∀ (key : Nat) (s1 : State), b ≠ 31 → (x.getS (b + 1)).toNat % 4 = 0 →
            access s0 (agentOf s0 s0.cur) (x.getS (b + 1)) 4 .load .front = .ok (key, s1) →
            exec (.mmaci d a b n t) s = .next (mtxIssued s1 d
              (let y := newCmd x (.mmaci d a b n t) (x.getS a) (x.getS b) (x.getS (b + 1)) (x.getSh n.toNat)
               { y with recKey := key })))) ∧
        (∀ tr : Trap, shFmt (x.getSh n.toNat) < 24 → macCheck s s.cur (x.getSh n.toNat) (x.getS a) (x.getS b) = some tr → x.viq = [] →
          (tr.tval2 = 1 ∨ tr.tval2 = 2 ∨ tr.tval2 = 3 ∨ tr.tval2 = 4) ∧
          exec (.mmac d a b n t) s = .next (trapTaken s .badtile x.pc tr.tval tr.tval2) ∧
          (b ≠ 31 → exec (.mmaci d a b n t) s = .next (trapTaken s .badtile x.pc tr.tval tr.tval2))) ∧
        (∀ (pages : PageMap) (s1 : State), (x.getS a).toNat % 16 = 0 →
          (let bytes := 16 + 10 * spillRows x t.toNat * (16 * slicesOf s s.cur)
           translatePages s0 (agentOf s0 s0.cur) (x.getS a) bytes .store (pageList (x.getS a).toNat bytes) = .ok (pages, s1) →
           exec (.mspill d a t) s = .next (mtxIssued s1 d
             (let y := newCmd x (.mspill d a t) (x.getS a) 0 0 0
              { y with ncols := 16 * slicesOf s s.cur, pages := pages })))) ∧
        (∀ (w0 w1 : Nat) (pages : PageMap) (s1 s2 : State), (x.getS a).toNat % 16 = 0 →
          readWords s0 (agentOf s0 s0.cur) (x.getS a) (x.getS a) 2 = .ok ([w0, w1], s1) →
          imageHeaderOk w0 w1 (16 * slicesOf s0 s0.cur) = true →
          (let bytes := 16 + 10 * (w0 / 2 ^ 16 % 65536) * (w0 / 2 ^ 32 % 256)
           translatePages s1 (agentOf s1 s0.cur) (x.getS a) bytes .load (pageList (x.getS a).toNat bytes) = .ok (pages, s2) →
           exec (.mfill d a t) s = .next (mtxIssued s2 d
             (let y := newCmd x (.mfill d a t) (x.getS a) 0 (BitVec.ofNat 64 (w0 % 256)) 0
              { y with nrows := w0 / 2 ^ 16 % 65536, ncols := w0 / 2 ^ 32 % 256, pages := pages }))))))) ∧
  (∀ (s s1 : State) (d a : BitVec 5) (ws : List Nat) (i : Instr) (fill : Bool), Powered s →
     ((i = .dcopy d a ∧ fill = false) ∨ (i = .dfill d a ∧ fill = true)) →
     (let s0 := drainOwn s
      let v := (curHart s0).getS a
      let c := copyOfDesc s1 fill (bytesOfWords ws)
      let inside := fun (scr : Bool) (base : Word) (step : List Int) =>
        scr = true → 0 ≤ (copySpan base c.cnt step).1 ∧ (copySpan base c.cnt step).2 < (scratchBytes s1 (coreOf s.cur) : Int)
      (vmemPending (curHart s) = true → exec i s = .next s) ∧
      (vmemPending (curHart s) = false → v.toNat % 64 = 0 → readWords s0 (agentOf s0 s0.cur) v v 8 = .ok (ws, s1) → s1.cur = s.cur →
      (copyDescError fill (bytesOfWords ws) = none →
        ((∃ k ∈ c.cnt, k = 0) ∨ (inside c.sscr c.saddr c.sstep ∧ inside c.dscr c.daddr c.dstep)) → exec i s = .next (copyIssued s1 d c)) ∧
      (∀ off : Nat, copyDescError fill (bytesOfWords ws) = some off → (curHart s1).viq = [] →
        exec i s = .next (trapTaken s1 .badtile (curHart s1).pc v (BitVec.ofNat 64 off))))))

/-- Exchange instructions at a live handle of a member (10 R216 to R226, R233, R236 to R239, R242). xend closes the trains and sends a tail
to every receiver. xstep answers −1 where the context was closed with partial status, and the completed step once the Beacon has released
it; a member that has ended and has nothing held arrives and waits. xsplit and xpost keep what they read for the next step; xsample computes
the next splitters from the last step's samples; xsample.host queues the writing of its area; xfence waits for nothing; xstat reads its
item; xclose of a member that has ended and sent nothing leaves. That a released step has landed is the model's (log entry 44). Each but
xfence and xstat stands behind the older accesses of its hart (12 R270, R272): the vector ones are complete, and the pending scalar stores
are performed first. -/
def Obligations.ExchangeCommands : Prop :=
  (∀ (s : State) (d a : BitVec 5) (i : BitVec 4) (slot : Nat) (c : XCtx) (m : XMember), Powered s → ((curHart s).getS a).toNat = slot →
    slot < 64 → smFind s.xctx slot = some c → c.forLens = false → c.memberOf (curHart s).ctx = some m →
    exec (.xfence a) s = .next (passed s) ∧
    (i.toNat < 10 → exec (.xstat d a i) s = .next (scalarResult s d (BitVec.ofNat 64 (xstatItem c (some m) i.toNat))))) ∧
  (∀ (s : State) (d a b : BitVec 5), Powered s → vmemPending (curHart s) = true →
    ∀ i ∈ [.xend d a, .xstep d a, .xclose d a, .xsplit d a b, .xpost d a b, .xsample d a, .xsampleHost d a b], exec i s = .next s) ∧
  (∀ (w s : State) (d a b : BitVec 5) (slot : Nat) (c : XCtx) (m : XMember), Powered w → vmemPending (curHart w) = false → s = drainOwn w →
    ((curHart s).getS a).toNat = slot → slot < 64 →
    smFind s.xctx slot = some c → c.forLens = false → c.memberOf (curHart s).ctx = some m →
    (let x := curHart s
     let idle := ∀ e ∈ x.viq, ∀ p q r u v, e.instr ≠ .xsend p q r u v
     let free := ∀ q ∈ x.eng.xchQ, ∀ k r, q.kind ≠ .xend slot k r ∧ q.kind ≠ .post slot k
     let put := fun (t : State) (f : XMember → XMember) => putX t slot (c.setMember m.rank f)
     let last := c.setMember m.rank (fun k => { k with ended := true })
     let ended := { last with
       tails := c.tails ++ (List.range c.nrecv).map (fun r => (m.rank, r)) }
     (c.isPartial = true → exec (.xstep d a) w = .next (scalarResult s d (BitVec.allOnes 64))) ∧
     (c.isPartial = false →
       (idle → m.ended = false → exec (.xend d a) w = .next (xchIssued (putX s slot ended) d (.xend slot c.step m.rank) [])) ∧
       (idle → m.ended = true → exec (.xend d a) w = .next (xchIssued s d .nothing [])) ∧
       (∀ k : Nat, m.waiting = some k →
         (k < c.step → exec (.xstep d a) w = .next (scalarResult (put s (fun y => { y with waiting := none })) d (BitVec.ofNat 64 k))) ∧
         (c.step ≤ k → exec (.xstep d a) w = .next s)) ∧
       (m.waiting = none → m.ended = true → idle → free →
         exec (.xstep d a) w = .next (put s (fun y => { y with arrived := true, waiting := some c.step })) ∧
         (m.sent = 0 → ∃ t : State, exec (.xclose d a) w = .next t ∧ smFind t.xctx slot = some (leaveX c m.rank false) ∧
           (curHart t).gpr = (x.setS d (curHart t).eng.xch.issued).gpr ∧ (curHart t).eng.xch.issued = x.eng.xch.issued + 1 ∧
           (curHart t).pc = x.pc + 4 ∧ t.mem = s.mem)) ∧
       (∀ (l : List Nat) (s1 : State), readSplits s (agentOf s s.cur) (x.getS b) (16 * 2 ^ c.keyw) c.nrecv = .ok (l, s1) →
         exec (.xsplit d a b) w = .next (xchIssued (put s1 (fun y => { y with split := some l })) d .nothing [])) ∧
       (∀ (buf : XBuf) (s1 : State), readBuf s (agentOf s s.cur) (x.getS b) = .ok (buf, s1) →
         exec (.xpost d a b) w = .next (xchIssued (put s1 (fun y => { y with next := some buf })) d (.post slot c.step) [])) ∧
       exec (.xsample d a) w = .next (xchIssued (putX s slot
         (if c.pin = true ∨ c.lastSamples = [] then c
          else { c with pendHw := some ((List.range (c.nrecv - 1)).map (fun i =>
            (sortBy (fun p q => p < q) c.lastSamples).getD ((i + 1) * c.lastSamples.length / c.nrecv) 0)) })) d .nothing []) ∧
       (∀ (cap : Nat) (pages : PageMap) (s1 s2 : State), (x.getS b).toNat % 8 = 0 →
         loadNat s (agentOf s s.cur) (x.getS b) 4 = .ok (cap, s1) →
         (let keys := (sortBy (fun p q => p < q) c.lastSamples).take cap
          let bytes := (16 + 4 * c.nrecv + 7) / 8 * 8 + 8 * keys.length
          let hist := (List.range c.nrecv).map (fun r => smGet 0 c.lastHist r)
          translatePages s1 (agentOf s1 s.cur) (x.getS b) bytes .store (pageList (x.getS b).toNat bytes) = .ok (pages, s2) →
          exec (.xsampleHost d a b) w = .next (xchIssued
            (put s2 (fun y => { y with last := { y.last with
              flags := setFlags y.last.flags (if hist.any (fun k => 2 ^ 32 ≤ k) then flagSAT else 0) } })) d
            (.sampleHost (x.getS b) (hist.map (fun k => min k (2 ^ 32 - 1))) keys c.lastSamples.length) pages))))))

/-- xopen and qopen (10 R216, R218, 11 R244, R245): a descriptor without error joins the hart's arrival to the gathering of its tag, once,
and the hart waits; a result that has come goes to d and lets it on. qopen of 0 with no Lens command left makes the member leave. Both stand
behind the older accesses of their hart (12 R264, R270): they wait for the vector ones, and the pending scalar stores are performed first. -/
def Obligations.CollectivesOpen : Prop :=
  (∀ (s : State) (d a : BitVec 5), Powered s → vmemPending (curHart s) = true →
    exec (.xopen d a) s = .next s ∧ exec (.qopen d a) s = .next s) ∧
  ∀ (w s : State) (d a : BitVec 5), Powered w → vmemPending (curHart w) = false → s = drainOwn w →
    (let x := curHart s
     let v := x.getS a
     (∀ (i : Instr) (lens : Bool) (o : OpenResult), ((i = .xopen d a ∧ lens = false) ∨ (i = .qopen d a ∧ lens = true ∧ v ≠ 0)) →
       s.opened.find? (fun p => p.ctx == x.ctx && (p.lens == lens)) = some o → o.trap = none →
       exec i w = .next (scalarResult { s with opened := s.opened.filter (fun p => p != o) } d o.value)) ∧
     (∀ (ws : List Nat) (s1 : State), v.toNat % 64 = 0 → readWords s (agentOf s s.cur) v v 8 = .ok (ws, s1) →
       curHart s1 = x → s1.cur = s.cur →
       (let bs := bytesOfWords ws
        let tag : BitVec 32 := BitVec.ofNat 32 (fieldAt bs 0 4)
        let mine := fun (pages : PageMap) => ({ ctx := x.ctx, pkg := Config.pkg.toNat, hart := s.cur, desc := bs, user := x.user,
                                                root := x.csr.ptroot, pages := pages, splits := [], room := true, held := 0 } : Arrival)
        ((∀ o ∈ s.opened, o.ctx = x.ctx → o.lens = true) → (∀ g ∈ s.xgather, ∀ q ∈ g.arrivals, q.ctx ≠ x.ctx) →
          xopenDescError bs = none →
          exec (.xopen d a) w = .next { s1 with xgather := joinGathering xFull tag (mine []) s1.xgather }) ∧
        (∀ (pages : PageMap) (s2 : State), v ≠ 0 → (∀ o ∈ s.opened, o.ctx = x.ctx → o.lens = false) →
          (∀ g ∈ s.qgather, ∀ q ∈ g.arrivals, q.ctx ≠ x.ctx) → qopenDescError bs = none → curHart s2 = x → s2.cur = s.cur →
          (let base : Word := BitVec.ofNat 64 (fieldAt bs 16 8)
           let bytes := 8 * 2 ^ (fieldAt bs 4 4 - (fieldAt bs 8 4).log2)
           regionPages s1 (agentOf s1 s.cur) base bytes (pageList base.toNat bytes) = .ok (pages, s2) →
           (∀ p ∈ pages, inRegionWindow p.pa = true) →
           exec (.qopen d a) w = .next { s2 with qgather := joinGathering qFull tag (mine pages) s2.qgather })))) ∧
     (v = 0 → x.eng.lensQ = [] → ∃ t : State, exec (.qopen d a) w = .next t ∧ (curHart t).pc = x.pc + 4 ∧
       (curHart t).gpr = (x.setS d 0).gpr ∧ t.mem = s.mem ∧
       (∀ (slot : Nat) (l u : LensState), lensOf s x.ctx = some (slot, l) → smFind t.lens slot = some u → u.memberOf x.ctx = none)))

/-- xsend (10 R225, R227, R228): each active position in turn sends a record of its key and payload to the receiver whose splitters hold it,
counting it in its train; the key of a position must not lie below the one before it. The statement holds wherever every position can send,
with payloads from registers. A key below the last one sent raises ORDER at the first position. -/
def Obligations.RecordsSent : Prop :=
  ∀ (s s2 : State) (d a b : BitVec 5) (n m : BitVec 3) (op : VOp) (slot : Nat) (c0 : XCtx) (m0 : XMember),
    Issues s (.xsend d a b n m) op s2 → xcheck s ((curHart s).getS d) true false = .ok (slot, c0, some m0) →
    (let e := vectorEntry s (.xsend d a b n m)
     let f := shFmt e.cap.shape
     let s3 := storesDone s2 s.cur
     xsendMisfit (curHart s) c0 f b.toNat = false →
     (∀ u : State,
       (let step := fun (t : State) (_ k : Nat) =>
          let x := getHart t s.cur
          match smFind t.xctx slot with
          | none => some t
          | some c =>
            match c.memberOf x.ctx with
            | none => some t
            | some w =>
              let key := keyWord f false (x.elem f a.toNat k)
              let r := (c.splits.filter (fun p => p ≤ key)).length
              if k = 0 ∧ w.ended = true then none
              else if realLen e.cap.shape ≤ k ∨ x.maskBit m.toNat k = false ∨ c.isPartial = true then some t
              else if (x.elem f a.toNat k).psn = true ∨ (∃ l, w.lastKey = some l ∧ key < l) ∨ 2 ^ 32 ≤ smGet 0 w.trains r + 1 then none
              else
                match (if c.comb = 4 then .ok [mkC false 0 1] else payloadFrom x c.ptype k (groupRegs b.toNat (payloadRegs c))) with
                | .error _ => none
                | .ok cs =>
                  let z := c.setMember w.rank (fun y =>
                    { y with sent := y.sent + 1, lastKey := some key, trains := smPut y.trains r (smGet 0 w.trains r + 1) })
                  some (putX t slot { z with
                    flight := c.flight ++ [{ sender := w.rank, recv := r, key := key, no := w.sent, elems := cs, psn := false, flags := 0 }]
                    hist := smPut c.hist r (smGet 0 c.hist r + 1) })
        sweepTo e.cap.shape step s3 = some u → exec (.xsend d a b n m) s = .next (vectorDone u s.cur (getHart u s.cur)))) ∧
     (∀ (c : XCtx) (w : XMember) (l : Nat), smFind s3.xctx slot = some c → c.memberOf (getHart s3 s.cur).ctx = some w → w.ended = false →
       c.isPartial = false → 0 < realLen e.cap.shape → (getHart s3 s.cur).maskBit m.toNat 0 = true →
       ((getHart s3 s.cur).elem f a.toNat 0).psn = false → w.lastKey = some l →
       keyWord f false ((getHart s3 s.cur).elem f a.toNat 0) < l →
       ∃ t : State, exec (.xsend d a b n m) s = .next t ∧
         (getHart t s.cur).csr.tcause = 0x8000000000000000#64 ||| BitVec.ofNat 64 (Cause.code .order) ∧
         (getHart t s.cur).csr.tval = BitVec.ofNat 64 (keyWord f false ((getHart s3 s.cur).elem f a.toNat 0)) ∧
         (getHart t s.cur).csr.tval2 = 0 ∧ t.mem = s3.mem ∧ t.xctx = s3.xctx))

/-- The Lens commands (11 R248): at a handle of the hart's state, with an aligned record in the scratchpad that holds no poison and breaks
nothing of Table 11.5, the command is queued and d takes its number; a collective command of a state that a member has left fails it. A
handle of no state, a hart that is no member, a misplaced record and a record in error raise BADTILE 80 to 83. All of them stand behind the
older accesses of their hart (12 R270): they wait for the vector ones, and the pending scalar stores are performed first. -/
def Obligations.LensCommandsQueued : Prop :=
  ∀ (w s : State) (i : Instr) (d a b : BitVec 5), Powered w → s = drainOwn w →
    i ∈ [.qmap d a b, .qinit d a b, .qgate d a b, .qdiag d a b, .qswap d a b, .qprob d a b, .qproj d a b, .qread d a b] →
    (let x := curHart s
     let v := x.getS a
     let off := x.getS b
     let head := recordHead i
     let size := scratchBytes s (coreOf s.cur)
     let bs := (List.range head).map (fun k => memByte s (scrKey (coreOf s.cur) (off.toNat + k)))
     (vmemPending (curHart w) = true → exec i w = .next w) ∧
     (vmemPending (curHart w) = false →
     (∀ (l : LensState), v.toNat < 64 → smFind s.lens v.toNat = some l → (l.memberOf x.ctx).isSome = true →
       (off.toNat % 8 = 0 → off.toNat + head ≤ size →
         (∀ k < head, isPoisoned s (scrKey (coreOf s.cur) (off.toNat + k)) = false) →
         (off.toNat + head + matrixBytes i (recByte bs 0) ≤ size ∨ 5 < recByte bs 0) →
         (recordOk l i bs = true → ∀ (pages : PageMap) (s1 : State), readPages s i bs = .ok (pages, s1) → curHart s1 = x → s1.cur = s.cur →
           exec i w = .next (lensIssued (putL s1 v.toNat
             (if collective i bs = true ∧ ∃ m ∈ l.members, m.left = true then { l with failed := true } else l))
             i d v.toNat off.toNat bs pages)) ∧
         (recordOk l i bs = false → x.viq = [] → exec i w = .next (trapTaken s .badtile x.pc off 83))) ∧
       ((off.toNat % 8 ≠ 0 ∨ size < off.toNat + head) → x.viq = [] → exec i w = .next (trapTaken s .badtile x.pc off 82))) ∧
     ((64 ≤ v.toNat ∨ smFind s.lens v.toNat = none) → x.viq = [] → exec i w = .next (trapTaken s .badtile x.pc v 80)) ∧
     (∀ l : LensState, v.toNat < 64 → smFind s.lens v.toNat = some l → l.memberOf x.ctx = none → x.viq = [] →
       exec i w = .next (trapTaken s .badtile x.pc v 81))))

/-! Steps of the other units. -/

/-- The VIQ's own steps at an entry e with older entries `older` and younger ones `rest` (07 R141 to R144, 05 R98). VIQ_ISSUE: the first
entry that has not issued brings its lines in, once they can all be resident beside those of executing entries (06 R134). VECTOR_BEAT: the
oldest entry's next beat processes its positions, or fetches their data, when nothing left of the sweep faults, and where it accesses memory
behind all of the hart's older scalar stores, which beyond those to its own chunks is the model's choice (12 R264, log entry 18). LOAD_DATA_ARRIVAL: the oldest beat in flight lands. VECTOR_COMPLETE: an entry whose last beat has
landed is freed. SYNC_READ_RETURN: a waiting result reaches its register, or decides its branch. -/
def Obligations.VectorUnitSteps : Prop :=
  ∀ (s : State) (h : Nat) (e : VEntry) (op : VOp) (older rest : List VEntry), Powered s →
    (getHart s h).viq = older ++ e :: rest → vopOf s h e = some op →
    (let x := getHart s h
     let b := e.issuedBeats
     (∀ s1 : State, (∀ q ∈ older, q.issued = true) → e.issued = false → op.ready s h e = true → canStart s h e.lines = true →
       owedFor s x.ctx = false → op.pre s h e = none → issueEntry op s h e = .ok s1 → (getHart s1 h).viq = x.viq →
       exec (.viqIssue h) s = .next (putHart s1 h { getHart s1 h with viq := older ++ { e with issued := true } :: rest })) ∧
     (older = [] → e.issued = true → op.byBeats = true → headOnly x e op = false → b < totalBeats op e →
       (let t := if op.mem = true then storesDone s h else s
        ∀ s1 : State, sweepOver (onePos op h e) (positionsLeft op e) t = (s1, none) →
        let ps := (allPositions op e).filter (fun p => beatOfPos op e p == b)
        (∀ (g : State → Nat → VEntry → Nat → Nat → Except Stop State) (u : State), op.run = .pos g → u = (sweepOver (onePos op h e) ps t).1 →
          (getHart u h).viq = x.viq →
          exec (.vectorBeat h 0) s = .next (putHart u h { getHart u h with viq := { e with prog := .beats (b + 1) } :: rest })) ∧
        (∀ (fetch : State → Nat → VEntry → Nat → Nat → Except Stop (List LoadDatum × State)) (land : Hart → VEntry → LoadDatum → Hart)
           (ds : List LoadDatum) (u : State), op.run = .load fetch land →
          fetchBeat fetch h e (shVL (op.sweep e.cap)) ps t = (ds, u) → (getHart u h).viq = x.viq →
          exec (.vectorBeat h 0) s = .next (putHart u h { getHart u h with
            viq := { e with prog := .beats (b + 1), inflight := e.inflight ++ [ds] } :: rest })))) ∧
     (∀ (fetch : State → Nat → VEntry → Nat → Nat → Except Stop (List LoadDatum × State)) (land : Hart → VEntry → LoadDatum → Hart)
        (ds : List LoadDatum) (later : List (List LoadDatum)), op.run = .load fetch land → e.inflight = ds :: later →
       (let y := ds.foldl (fun y q => land y e q) x
        y.viq = x.viq →
        exec (.loadDataArrival h older.length) s = .next (putHart s h { y with viq := older ++ { e with inflight := later } :: rest }))) ∧
     (older = [] → e.issued = true → op.byBeats = true → totalBeats op e ≤ b - e.inflight.length → (op.fin x e).viq = x.viq →
       exec (.vectorComplete h) s = .next (putHart s h { op.fin x e with viq := rest })) ∧
     (older = [] → ∀ (w : Word) (d v k : BitVec 5) (n m : BitVec 3) (o : BitVec 16), x.sync = some w →
       ((e.instr = .mpop d v n m ∨ e.instr = .mfirst d v n m ∨ e.instr = .vmovs d v k n ∨ e.instr = .vargmax d v n m) →
         exec (.syncReadReturn h) s = .next (putHart s h { ({ x with viq := rest, sync := none } : Hart).setS d w with pc := e.pc + 4 })) ∧
       (∀ want : Bool, (e.instr = .bvany d k o ∧ want = true) ∨ (e.instr = .bvnone d k o ∧ want = false) →
         exec (.syncReadReturn h) s = .next (putHart s h { x with
           viq := rest, sync := none
           pc := e.pc + (if decide (w ≠ 0) = want then o.signExtend 64 <<< 2 else 4) }))))

/-- The copy and exchange contexts of a hart (05 R117, R121 to R123, 10 R242). COPY_TRANSFER moves up to 512 bytes of the command at the
head, or stops it at the byte that faults with CPYERR; CPYERR_CLEAR lets it go on; COPY_COMPLETE counts it, once no link can lose any of its data (16 R349). EXCHANGE_COMMAND_COMPLETE ends
the command at the head that can end, writing a sample area, and counts it. The matrix context of a hart, with a command c at its head that
may run (09 R195 to R202, R204, R209). MATRIX_KSTEP: the next K-block of a multiply; each slot of its rows and columns takes the block's
contribution, and no other slot changes. MATRIX_ROW_OP: the start and the rows of mzero, mspill and mfill; mspill's start takes NROW and writes
the header, mfill's sets the mode, zeroes the tile and sets HACC, and NROW of an HWM.HACC above 256 is the model's (log entry 113). MMACI_RECORD_POLL: a record with
V = 1 gives the row count, cut to M with SAT. MATRIX_COMPLETE: a finished command is counted, with its flags and its poison report.
ACC_COLUMN_MOVE: one moved column group arrives. -/
def Obligations.EngineSteps : Prop :=
  (∀ (s : State) (h : Nat), Powered s → h < 4096 →
     (let x := getHart s h
      (∀ (c : CopyCmd) (q : List CopyCmd), x.eng.copyQ = c :: q → copyReady s (.hart h) c = true →
        (c.byte < c.total → copyPkg s c c.byte = none →
          (let src := match c.src with | some l => (l, s) | none => if c.fill then ([], s) else copyReadAll c c.total 0 s
           let r := copyBytes (src.1.any (fun o => o.isNone)) 512 c.byte (src.1.drop c.byte) c src.2
           let t := served (notePartial r.state r.keys) (copyUnit (clusterOf (coreOf h))) h
           let y := getHart t h
           let c1 := { r.cmd with byte := r.byte, src := some src.1, fault := r.bad.map (fun p => copyTrap p.1 p.2) }
           exec (.copyTransfer h) s = .next (putHart t h { y with
             eng := { y.eng with copyQ := c1 :: q }
             csr := { y.csr with cpyerr := match r.bad with | none => y.csr.cpyerr | some p => cpyerrOf p.1 p.2 r.byte } }))) ∧
        (c.total ≤ c.byte → copyUnsure s x.ctx = true → exec (.copyComplete h) s = .next s) ∧
        (c.total ≤ c.byte → copyUnsure s x.ctx = false →
          exec (.copyComplete h) s =
            .next (putHart s h { x with eng := { x.eng with copy := lineDone x.eng.copy 0 none, copyQ := q } }))) ∧
      exec (.cpyerrClear h) s = .next (putHart s h { x with csr := { x.csr with cpyerr := x.csr.cpyerr &&& 0x7FFFFFFFFFFFFFFF#64 } }) ∧
      (∀ (c : XchCmd) (q : List XchCmd), x.eng.xchQ = c :: q → (∀ r ∈ q, r.num ≠ c.num) →
        (∀ slot k : Nat, c.kind = .post slot k →
          (let g : Engines := { x.eng with xch := lineDone x.eng.xch 0 none, xchQ := q }
           exec (.exchangeCommandComplete h) s = .next (putHart s h { x with eng := g.settleX }))) ∧
        (∀ (slot k r : Nat) (z : XCtx), c.kind = .xend slot k r → smFind s.xctx slot = some z →
          (z.isPartial = true ∨ k < z.step ∨ ∀ j < z.nrecv, (r, j) ∈ z.landed) →
          (let g : Engines := { x.eng with xch := lineDone x.eng.xch 0 none, xchQ := q }
           exec (.exchangeCommandComplete h) s = .next (putHart s h { x with eng := g.settleX }))) ∧
        (∀ (va : Word) (hist keys : List Nat) (count : Nat), c.kind = .sampleHost va hist keys count →
          ∃ t : State, exec (.exchangeCommandComplete h) s = .next t ∧ t.mem = (writeSamples s (coreOf h) c va hist keys count).mem ∧
            (let g : Engines := { x.eng with xch := lineDone x.eng.xch 0 none, xchQ := q }
             (getHart t h).eng = g.settleX))))) ∧
  (∀ (s : State) (h : Nat), Powered s →
     (let x := getHart s h
      (∀ (c : MtxCmd) (q : List MtxCmd), x.eng.mtxQ = c :: q → mtxReady s h c = true →
        (let tile := tileField c.instr
         let t := tileOf c.shape
         let head := fun (y : Hart) (c1 : MtxCmd) => putHart s h { y with eng := { y.eng with mtxQ := c1 :: q } }
         (isMac c.instr = true → c.polls = false → c.finished = false →
           (let y := if c.started then x
              else
                let y := x.setMode tile (bScaled t.b)
                { y with csr := { y.csr with hwm := raiseHacc y.csr.hwm tile c.rows } }
            ∃ u : State, exec (.matrixKstep h) s = .next u ∧ u.mem = s.mem ∧ (getHart u h).gpr = x.gpr ∧ (getHart u h).vreg = x.vreg ∧
              (∃ c1 : MtxCmd, (getHart u h).eng.mtxQ = c1 :: q ∧ c1.kdone = c.kdone + 1 ∧ c1.started = true ∧ c1.num = c.num) ∧
              (∀ r k : Nat, r < 256 → k < 64 → (getHart u h).acc74 tile r k =
                if r < c.rows ∧ k < t.n then
                  (accSlot (bScaled t.b) (rndOf c.fpctl == .down) (y.acc74 tile r k) (stripA s (coreOf h) (c.sa.toNat % 2 ^ 20) t c.kdone r)
                    (if t.sp then stripSparse s (coreOf h) (c.sb.toNat % 2 ^ 20) (c.sb.toNat / 2 ^ 20 % 256) t c.kdone k
                     else stripB s (coreOf h) (c.sb.toNat % 2 ^ 20) t c.kdone k)).1
                else y.acc74 tile r k))) ∧
         (∀ (d : BitVec 5) (z : BitVec 1), c.instr = .mzero d z →
           (c.started = false →
             exec (.matrixRowOp h) s = .next (head (((x.setMode tile false).zeroRows tile (min (x.hacc tile) 256) 256).setHacc tile 0)
               { c with started := true, nrows := min (x.hacc tile) 256 })) ∧
           (c.started = true → c.kdone < c.nrows →
             exec (.matrixRowOp h) s = .next (head (x.zeroRows tile c.kdone (c.kdone + 1)) { c with kdone := c.kdone + 1 }))) ∧
         (∀ (d a : BitVec 5) (z : BitVec 1), c.instr = .mspill d a z → c.started = false →
           (let n := min (x.hacc tile) 256
            let u := keptWrite s (coreOf h) c.pages (2 ^ 60 + c.order) c.sa
              ((if x.isWf tile then 1 else 0) + n * 2 ^ 16 + c.ncols * 2 ^ 32) 16
            exec (.matrixRowOp h) s = .next (putHart u h { getHart u h with
              eng := { (getHart u h).eng with mtxQ := { c with started := true, nrows := n } :: q } }) ∧
            (getHart u h).gpr = x.gpr ∧ (getHart u h).acc = x.acc)) ∧
         (∀ (d a : BitVec 5) (z : BitVec 1), c.instr = .mfill d a z → c.started = false →
           exec (.matrixRowOp h) s = .next (head (((x.setMode tile (c.srec == 1)).zeroRows tile 0 256).setHacc tile c.nrows)
             { c with started := true })) ∧
         (∀ (d a : BitVec 5) (z : BitVec 1), c.instr = .mspill d a z → c.started = true → c.kdone < c.nrows →
           ∃ u : State, exec (.matrixRowOp h) s = .next u ∧ u.mem = (imageRowOut s h c c.kdone).mem ∧
             (getHart u h).eng.mtxQ = { c with kdone := c.kdone + 1 } :: q ∧ (getHart u h).acc = x.acc) ∧
         (∀ (d a : BitVec 5) (z : BitVec 1), c.instr = .mfill d a z → c.started = true → c.kdone < c.nrows →
           ∃ u : State, exec (.matrixRowOp h) s = .next u ∧ u.mem = s.mem ∧
             (getHart u h).acc = (getHart (imageRowIn s h c c.kdone).1 h).acc ∧
             (∃ c1 : MtxCmd, (getHart u h).eng.mtxQ = c1 :: q ∧ c1.kdone = c.kdone + 1)) ∧
         (c.polls = true → isPoisoned s c.recKey = false → (memNat s c.recKey 4).testBit 31 = true →
           (let m := memNat s c.recKey 4 % 512
            exec (.mmaciRecordPoll h) s =
              .next (head x { c with mrec := some (min m t.m), flags := setFlags c.flags (if t.m < m then flagSAT else 0) }))) ∧
         (c.finished = true →
           exec (.matrixComplete h) s = .next (putHart s h { x with
             eng := { x.eng with mtx := lineDone x.eng.mtx c.flags (c.poison.map poisonTrap), mtxQ := q } })))) ∧
      (∀ n : Nat, x.colMoves = n + 1 → exec (.accColumnMove h) s = .next (putHart s h { x with colMoves := n }))))

/-- The exchange's own steps (10 R216 to R221, R226, R230 to R234, R238). XOPEN_RENDEZVOUS: a complete gathering whose members agree makes a
context in a slot of a package that holds a member (R217), and each of its harts there receives the handle; one that fails gives each the failure.
MERGE_PASS: the lowest record of a receiver of this package, or with a combiner all records of its key word as one, lands at its next place, in the
primary region and then in the overflow region, or is dropped beyond both or at an unmapped place; with no buffer posted it counts as unposted there
and, where the senders are of this package, at its senders. The integer combiners are those of Table 10.7. TAIL_LAND: a tail with no record before it
lands. BEACON_RELEASE: the step number rises by one, posted buffers become current, and splitters change. The Lens states' own steps (11 R244, R248 to
R253). QOPEN_RENDEZVOUS: a complete gathering makes a state with the identity map, or gives each arrival the failure. LENS_COMMAND_START: once every
member that has not left has the next collective command at its head, or has sent it from another package, it starts at every one: qgate chooses the
pairs of its swap stage, qswap its own, qmap and qinit set the map, qprob and qproj find their totals; commands that differ fail the state with code 1,
and a swap stage without a local bit ends the command with code 2. LENS_SWAP_SUPERSTEP: amplitudes change places and the map follows, or the state
fails where a package is out of reach (16 R349). LENS_COMMAND_COMPLETE: the head's work is done at its member, and it is counted with its flags and
report. The model's are: the lowest free slot and the sampling at the merge pass (log entry 47), each record of a combination counted (122), the
superstep as the place of that failure and 16 bytes an amplitude (53), and the totals at the start (54). -/
def Obligations.ExchangeAndLensSteps : Prop :=
  (∀ (s : State) (slot : Nat), Powered s →
     (∀ (tag : BitVec 32) (g : Gathering), s.xgather.find? (fun g => g.tag == tag && xFull g) = some g →
       (∀ f : Int, xopenFailure { s with xgather := s.xgather.erase g } g.arrivals = some f →
         ∃ t : State, exec (.xopenRendezvous tag) s = .next t ∧ t.xctx = s.xctx ∧ t.xgather = s.xgather.erase g ∧
           (∀ a ∈ g.arrivals, isRemote a.ctx = false →
             ({ ctx := a.ctx, lens := false, value := BitVec.ofInt 64 f, trap := none } : OpenResult) ∈ t.opened)) ∧
       (xopenFailure { s with xgather := s.xgather.erase g } g.arrivals = none →
         (List.range 64).find? (fun n => (smFind s.xctx n).isNone) = some slot → (∃ a ∈ g.arrivals, isRemote a.ctx = false) →
         ∃ (t : State) (c : XCtx), exec (.xopenRendezvous tag) s = .next t ∧ smFind t.xctx slot = some c ∧ c.step = 0 ∧ c.isPartial = false ∧
           c.flight = [] ∧ c.tails = [] ∧ c.away = [] ∧
           (∀ a ∈ g.arrivals, (∃ m ∈ c.members, m.rank = fieldAt a.desc 8 4 ∧ m.ctx = a.ctx ∧ m.left = false ∧ m.ended = false) ∧
             (isRemote a.ctx = false → ∃ o ∈ t.opened, o.ctx = a.ctx ∧ o.lens = false ∧ o.value = BitVec.ofNat 64 slot)))) ∧
     (∀ (c : XCtx) (m : XMember) (low : XRecord) (recv : Nat), smFind s.xctx slot = some c → c.isPartial = false →
       lowestRecord c recv = some low → mayPass c recv low.key (c.comb != 0) = true → c.members.find? (fun m => m.rank == recv) = some m →
       isRemote m.ctx = false →
       (let rs := if c.comb = 0 then [low] else c.flight.filter (fun r => r.recv == recv && r.key == low.key)
        let c2 := rs.foldl sampleRecord { c with flight := c.flight.filter (fun r => !rs.contains r) }
        let val := if c.comb = 0 then (low.elems, (0 : Flags)) else combineTree c (leavesOf c rs)
        let fl := rs.foldl (fun f r => f ||| r.flags) val.2
        (m.cur = none → (∀ r ∈ rs, ∀ k ∈ c.members, k.rank = r.sender → isRemote k.ctx = false) →
          exec (.mergePass slot recv) s = .next (putX s slot
            ((rs.foldl (fun z r => z.setMember r.sender (fun k => { k with stats := { k.stats with
                sentUnposted := k.stats.sentUnposted + 1 } })) c2).setMember recv (fun k => { k with stats := { k.stats with
              unposted := k.stats.unposted + rs.length, flags := setFlags k.stats.flags fl } })))) ∧
        (∀ b : XBuf, m.cur = some b →
          (let n := m.delivered
           let size := recordBytes c.plen
           let out := payloadOut c.ptype (Rnd.ofCode c.drnd) val.1
           let va := if n < b.pcap then b.prim + BitVec.ofNat 64 (n * size) else b.ovf + BitVec.ofNat 64 ((n - b.pcap) * size)
           let w := writeRecord s b.core (2 ^ 55 + s.steps) b va low.key out.1
           let lands := n < b.pcap + b.ocap ∧ placeMapped s b.core b va size = true
           (lands → exec (.mergePass slot recv) s = .next (putX (if rs.any (fun r => r.psn) then poisonPlace w b va size else w) slot
             (c2.setMember recv (fun _ => { m with delivered := n + 1, stats := { m.stats with
               primary := m.stats.primary + (if n < b.pcap then 1 else 0), overflow := m.stats.overflow + (if n < b.pcap then 0 else 1)
               flags := setFlags m.stats.flags (fl ||| out.2) } })))) ∧
           (¬ lands → exec (.mergePass slot recv) s = .next (putX s slot (c2.setMember recv (fun _ => { m with
             delivered := n + 1
             stats := { m.stats with dropped := m.stats.dropped + 1, flags := setFlags m.stats.flags fl } })))))))) ∧
     (∀ (drnd : Nat) (a b a2 b2 : BitVec 36),
       (let x := patValue true 32 (cData a)
        let y := patValue true 32 (cData b)
        let p := cData a + cData a2 * 2 ^ 32
        let q := cData b + cData b2 * 2 ^ 32
        let wide := fun (z : Nat) => [mkC false 0 z, mkC false 0 (z / 2 ^ 32)]
        let sum := patClamp true 64 (patValue true 64 p + patValue true 64 q)
        let one := fun (z : Nat × Flags) => ([mkC false 0 z.1], z.2)
        combPayload 2 1 drnd [a] [b] = one (patClamp true 32 (x + y)) ∧
        combPayload 2 2 drnd [a] [b] = one (if y < x then cData b else cData a, 0) ∧
        combPayload 2 3 drnd [a] [b] = one (if x < y then cData b else cData a, 0) ∧
        combPayload 2 4 drnd [a] [b] = one (patClamp false 32 ((cData a + cData b : Nat) : Int)) ∧
        combPayload 3 1 drnd [a, a2] [b, b2] = (wide sum.1, sum.2) ∧
        combPayload 3 2 drnd [a, a2] [b, b2] = (wide (if patValue true 64 q < patValue true 64 p then q else p), 0) ∧
        combPayload 3 3 drnd [a, a2] [b, b2] = (wide (if patValue true 64 p < patValue true 64 q then q else p), 0))) ∧
     (∀ (c : XCtx) (sender recv : Nat), smFind s.xctx slot = some c → (sender, recv) ∈ c.tails →
       (∀ r ∈ c.flight, ¬ (r.sender = sender ∧ r.recv = recv)) →
       (∀ m ∈ c.members, m.rank = recv → isRemote m.ctx = false) →
       exec (.tailLand slot sender recv) s = .next (putX s slot { c with
         tails := c.tails.erase (sender, recv), away := c.away.erase (sender, recv)
         landed := if (sender, recv) ∈ c.landed then c.landed else c.landed ++ [(sender, recv)] })) ∧
     (∀ (c : XCtx), smFind s.xctx slot = some c → c.isPartial = false → c.tails = [] → c.away = [] → c.flight = [] → (∃ m ∈ c.members, m.left = false) →
       (∀ m ∈ c.members, m.left = true ∨ (m.arrived = true ∧ m.ended = true)) →
       ∃ (t : State) (z : XCtx), exec (.beaconRelease slot) s = .next t ∧ smFind t.xctx slot = some z ∧ z.step = c.step + 1 ∧
         z.landed = [] ∧ z.lastHist = c.hist ∧ z.members.map (fun m => m.rank) = c.members.map (fun m => m.rank) ∧
         (∀ m ∈ z.members, m.ended = false ∧ m.next = none ∧ m.split = none ∧ m.delivered = 0) ∧
         z.splits = (match c.members.findSome? (fun m => m.split) with
           | some l => l
           | none => (match c.pendHw with | some l => l | none => c.splits)) ∧
         t.harts = s.harts)) ∧
  (∀ (s : State) (slot : Nat), Powered s →
     (∀ (tag : BitVec 32) (g : Gathering), s.qgather.find? (fun g => g.tag == tag && qFull g) = some g →
       (∀ f : Int, qopenFailure { s with qgather := s.qgather.erase g } g.arrivals = some f →
         exec (.qopenRendezvous tag) s = .next { s with
           qgather := s.qgather.erase g
           opened := s.opened ++ (g.arrivals.filter (fun a => !isRemote a.ctx)).map (fun a =>
             { ctx := a.ctx, lens := true, value := BitVec.ofInt 64 f, trap := none }) }) ∧
       (qopenFailure { s with qgather := s.qgather.erase g } g.arrivals = none →
         (List.range 64).find? (fun n => (smFind s.lens n).isNone) = some slot → (∃ a ∈ g.arrivals, isRemote a.ctx = false) →
         ∃ (t : State) (l : LensState), exec (.qopenRendezvous tag) s = .next t ∧ smFind t.lens slot = some l ∧ l.map = List.range l.n ∧
           l.failed = false ∧ l.next = 0 ∧ l.run = false ∧
           (∀ a ∈ g.arrivals, (∃ m ∈ l.members, m.rank = fieldAt a.desc 12 4 ∧ m.ctx = a.ctx ∧ m.left = false) ∧
             (isRemote a.ctx = false → ∃ o ∈ t.opened, o.ctx = a.ctx ∧ o.lens = true ∧ o.value = BitVec.ofNat 64 slot)))) ∧
     (∀ (l : LensState) (cmd : LMember → LensCmd) (far : LMember → LensIssue) (one : LMember) (rest : List LMember),
       smFind s.lens slot = some l → l.run = false → l.failed = false →
       l.members.filter (fun m => !m.left && !isRemote m.ctx) = one :: rest →
       (∀ m ∈ one :: rest, lensHead s m.ctx = some (cmd m) ∧ (cmd m).slot = slot ∧ (cmd m).coll = some l.next ∧ (cmd m).started = false) →
       (∀ m ∈ l.members, m.left = false → isRemote m.ctx = true → m.issued.head? = some (far m)) →
       (let c := cmd one
        let said := fun (m : LMember) => if isRemote m.ctx then ((far m).fn, (far m).record, (far m).matrix)
          else (lensFn (cmd m).instr, comparedBytes (cmd m), startMatrix s (cmd m))
        let agree := ∀ m ∈ l.members, m.left = false → said m = said one
        let met := { l with members := l.members.map (fun m => { m with issued := m.issued.drop 1 }), run := true }
        let ends := fun (k : Word) (z : LensState) => ∃ t : State, exec (.lensCommandStart slot) s = .next t ∧ smFind t.lens slot = some z ∧
          t.mem = s.mem ∧ ∀ m ∈ one :: rest, lensHead t m.ctx = some { cmd m with
            started := true, noop := true, report := some { cause := .qmap, tval := (cmd m).num, tval2 := k } }
        let at0 := l.phys (recByte c.record 0)
        let at1 := recByte c.record 1
        let pairs : Option (List (Nat × Nat)) := match c.instr with
          | .qgate .. => choosePairs l (busyBits l c.record) (targetsOf c.record)
          | .qswap .. => some (if at0 = at1 ∨ (at0 < l.local ∧ at1 < l.local) then [] else [(min at0 at1, max at0 at1)])
          | _ => some []
        (¬ agree → ends 1 { met with failed := true }) ∧
        (agree → pairs = none → ends 2 met) ∧
        (∀ ps : List (Nat × Nat), agree → pairs = some ps →
          ∃ t : State, exec (.lensCommandStart slot) s = .next t ∧ t.mem = s.mem ∧
            smFind t.lens slot = some { met with
              swap := ps, inbox := []
              map := if ps = [] then (match c.instr with
                | .qmap .. => (List.range l.n).map (fun j => recByte c.record (8 + j))
                | .qinit .. => List.range l.n
                | .qswap .. => exchangeMap [(at0, at1)] l.map
                | _ => l.map) else l.map } ∧
            ∀ m ∈ one :: rest, ∃ e : LensCmd, lensHead t m.ctx = some e ∧ e.started = true ∧ e.noop = (cmd m).noop ∧ e.num = (cmd m).num ∧
              e.instr = (cmd m).instr ∧ e.record = (cmd m).record ∧
              (∀ d a b : BitVec 5, (c.instr = .qgate d a b ∨ c.instr = .qdiag d a b) → e.matrix = startMatrix s c) ∧
              (∀ d a b : BitVec 5, (c.instr = .qprob d a b ∨ c.instr = .qproj d a b) →
                (let sums := (one :: rest).map (fun m => (m, probSums s l m (recByte c.record 0))) ++
                   (l.members.filter (fun m => !m.left && isRemote m.ctx)).map (fun m => (m, farParts (far m)))
                 let mark := fun (b : Option Trap) => if b.isSome then (1 : Byte) else 0
                 e.matrix = bytes4 (probTotal l (sums.map (fun p => (p.1, p.2.1.sum)))).1 ++
                   bytes4 (probTotal l (sums.map (fun p => (p.1, p.2.2.sum)))).1 ++
                   [mark (sums.findSome? (fun p => p.2.1.bad)), mark (sums.findSome? (fun p => p.2.2.bad))]))))) ∧
     (∀ l : LensState, smFind s.lens slot = some l → l.run = true → l.swap ≠ [] → l.failed = false →
       (let ms := l.members.filter (fun m => !isRemote m.ctx)
        let out := (swapTraffic l ms).filter (fun p => p.2 != 0)
        (out.map (fun p => p.2)).sum = 16 * l.inbox.length → (∀ p ∈ out, linkStalled s p.1 0 p.2 = false) →
        ((∀ p ∈ out, (portTo s p.1).isSome = true) →
          ∃ t : State, exec (.lensSwapSuperstep slot) s = .next t ∧
            smFind t.lens slot = some { l with map := exchangeMap l.swap l.map, swap := [], inbox := [] } ∧
            t.mem = (moveAmps s l l.swap ms).mem ∧ t.harts = s.harts ∧
            (∀ (x : Nat) (c : XCtx), l.xslot = some x → smFind s.xctx x = some c → smFind t.xctx x = some { c with step := c.step + 1 })) ∧
        ((∃ p ∈ out, portTo s p.1 = none) →
          exec (.lensSwapSuperstep slot) s = .next { s with lens := smPut s.lens slot { l with failed := true } }))) ∧
     (∀ (l : LensState) (m : LMember) (h : Nat) (c : LensCmd) (q : List LensCmd), h < 4096 → (getHart s h).eng.lensQ = c :: q →
       smFind s.lens c.slot = some l → l.memberOf (getHart s h).ctx = some m → c.started = true → l.swap = [] →
       (c.noop = false → (∀ d a b : BitVec 5, c.instr ≠ .qswap d a b) →
         (let r := lensApply (lensServed s (.hart h)) l m c
          ∃ t : State, exec (.lensCommandComplete h) s = .next t ∧ t.mem = r.1.mem ∧
            (getHart t h).eng = { (getHart r.1 h).eng with
              lens := lineDone (getHart r.1 h).eng.lens (setFlags c.flags r.2.1) (c.report.or r.2.2), lensQ := (getHart r.1 h).eng.lensQ.drop 1 })) ∧
       (∀ d a b : BitVec 5, c.noop = false → c.instr = .qswap d a b →
         (let p := fieldAt c.matrix 0 1
          let k := recByte c.record 1
          let r := moveAmps (lensServed s (.hart h)) { l with inbox := [] } (if p ≠ k ∧ p < l.local ∧ k < l.local then [(p, k)] else []) [m]
          ∃ t : State, exec (.lensCommandComplete h) s = .next t ∧ t.mem = r.mem ∧
            (getHart t h).eng = { (getHart s h).eng with lens := lineDone (getHart s h).eng.lens (setFlags c.flags 0) c.report, lensQ := q })) ∧
       (c.noop = true →
         ∃ t : State, exec (.lensCommandComplete h) s = .next t ∧ t.mem = s.mem ∧
           (getHart t h).eng = { (getHart s h).eng with lens := lineDone (getHart s h).eng.lens (setFlags c.flags 0) c.report, lensQ := q })))

/-- Link ports, the buoy, the checks of stored data and the LLC (16 R347 to R349, 10 R241, 04 R65, R66, R77, R78, R82, 15 R333, 16 Table
16.8). A flit in sequence whose CRC holds is accepted and its records performed, any other is answered by a NAK; acknowledgements, with the
credits owed, in the flits that records have begun to fill where there are any, and replays go out; lost lanes, eight replays in a row and timers
retrain a port, and a finished training of one with a package at its other end (01 R10) sets its width. A probe sends a token, and a token that
returns grants a reserve entry. A check logs what it corrects; what it cannot correct it poisons: a
chunk or word of memory, the containers of a word of a register line, the record of a switch buffer. A write-back of the LLC packs a line of
a compressed page unless its hot bit is set and it was not idle for HOTIDLE cycles. The model's are: the CRC's conventions and when a flit that is
not full goes out (log entry 51), that a new probe drops the origin's token still on its way (log entry 80), and the lanes that count as lost after
a training (lostAfter, log entry 102). -/
def Obligations.LinkSteps : Prop :=
  ∀ (s : State) (q : Nat), Powered s →
    (let p := getPort s q
     (∀ f : Flit, p.lanes ≠ 0 → p.training = none →
       ((flitSound f = false ∨ headSeq f.head ≠ p.rxLast + 1) → exec (.linkFlitReceive q f) s = .next (putPort s q { p with nakOut := true })) ∧
       (flitSound f = true → headSeq f.head = p.rxLast + 1 →
         (let p1 := takeAck { p with rxLast := headSeq f.head, toAck := p.toAck + 1, nakOut := false } f
          exec (.linkFlitReceive q f) s = .next (f.records.foldl performRecord (putPort s q p1)) ∧
          p1.rxLast = headSeq f.head ∧ p1.toAck = p.toAck + 1 ∧ p1.nakOut = false))) ∧
     (p.lanes ≠ 0 → p.training = none →
       ((509 < p.unacked.length ∨ ∀ c ∈ [0, 2, 3], (p.open c).bytes = []) →
         exec (.linkAck q) s = .next (putPort s q { p with toAck := 0, nakOut := false, owed := p.owed.map (fun n => n - 255) })) ∧
       (p.unacked.length ≤ 509 → (∃ c ∈ [0, 2, 3], (p.open c).bytes ≠ []) →
         (let p1 := flushRecords s.steps p
          exec (.linkAck q) s = .next (putPort s q p1) ∧ p1.toAck = 0 ∧ p1.nakOut = false ∧ p.unacked.length < p1.unacked.length))) ∧
     (p.lanes ≠ 0 → p.training = none → p.resend = true →
       (p.replays < 7 → exec (.linkNakReplay q) s = .next (putPort s q { p with resend := false, replays := p.replays + 1 })) ∧
       (p.replays = 7 → p.lanes = 4 →
         exec (.linkNakReplay q) s = .next (putPort s q { p with resend := false, replays := 8, training := some 2 }))) ∧
     (∀ n : Fin 4, p.lanes = 4 → p.lost = 0 → p.training = none →
       ∃ t : State, exec (.linkLaneLoss q (.lane n)) s = .next t ∧ getPort t q = { p with lost := 1#4 <<< n.val, training := some 2 } ∧
         t.harts = s.harts ∧ t.mem = s.mem) ∧
     (8 ≤ p.replays → p.training = none →
       (p.lanes = 4 → exec (.linkLaneLoss q .replays) s = .next (putPort s q { p with training := some 2 })) ∧
       (p.lanes = 2 → p.unacked = [] → p.filling = [] → ∃ t : State, exec (.linkLaneLoss q .replays) s = .next t ∧ (getPort t q).lanes = 0)) ∧
     (∀ w : Nat, p.training = some w → portJoined s q = true →
       ∃ t : State, exec (.linkRetrainDone q true) s = .next t ∧ getPort t q =
         { p with lanes := w, training := none, replays := 0, resend := false, since := s.time.toNat, lost := lostAfter p.lost w } ∧
         (p.lanes ≠ w → smGet 0 t.msix 2 = smGet 0 s.msix 2 + 1)) ∧
     (portJoined s q = false → p.lanes = 0 →
       ∃ t : State, exec (.linkRetrainDone q true) s = .next t ∧ (getPort t q).lanes = 0) ∧
     (s.hostmode.getLsbD 2 = false → p.lanes ≠ 4 → p.training = none → p.since + 10 ^ 10 ≤ s.time.toNat →
       exec (.linkRecoveryTimer q) s = .next (if portJoined s q = true then putPort s q { p with training := some 4 } else s))) ∧
    (∀ a w : QueueId,
      (let b := getBuoy s a
       exec (.buoyProbe a w) s = .next { putBuoy s a { b with seq := b.seq + 1, out := true } with
         tokens := s.tokens.filter (fun t => tokenOrigin t.2 != queueNo a) ++ [(w, tokenOf a 0 b.seq)] } ∧
       (∀ t : BitVec 64,
         (tokenOrigin t = queueNo a → b.out = true → tokenSeq t + 1 = b.seq →
           ∃ u : State, exec (.buoyTokenArrive a t (some w)) s = .next u ∧ getBuoy u a = { b with out := false, grants := b.grants + 1 } ∧
             u.tokens = s.tokens.erase (a, t)) ∧
         (tokenOrigin t ≠ queueNo a → tokenHops t < 254 →
           exec (.buoyTokenArrive a t (some w)) s =
             .next { s with tokens := s.tokens.erase (a, t) ++ [(w, t + BitVec.ofNat 64 (2 ^ 32))] }) ∧
         (tokenOrigin t ≠ queueNo a → exec (.buoyTokenArrive a t none) s = .next { s with tokens := s.tokens.erase (a, t) })))) ∧
    (∀ (w : CheckedWord) (key : Nat),
      ((∃ n, w = .chunk n ∧ key = 32 * n ∧ isHbm key = true ∧ s.boot.fenced.getLsbD (stackOfKey key) = false) ∨
       (∃ core n, w = .pool core n ∧ key = scrKey core (8 * n) ∧ 8 * n < scratchBytes s core) ∨
       (∃ n, w = .cached n ∧ key = 8 * n ∧ isHbm key = true ∧ s.caches.holds (key / 512) = true)) →
      exec (.patrolScrub w .clean) s = .next s ∧
      exec (.patrolScrub w .corrected) s = .next (keeperLog s 1 (BitVec.ofNat 64 (paOfKey key))) ∧
      exec (.patrolScrub w .dieReport) s = .next (keeperLog s 1 (BitVec.ofNat 64 (paOfKey key))) ∧
      (isPoisoned s key = true → exec (.patrolScrub w .uncorrectable) s = .next (keeperLog s 2 (BitVec.ofNat 64 (paOfKey key)))) ∧
      (isPoisoned s key = false → ∃ t : State, exec (.patrolScrub w .uncorrectable) s = .next t ∧ isPoisoned t key = true ∧ t.mem = s.mem)) ∧
    (∀ (h line k n : Nat) (dirty : Bool), k < 72 → (getHart s h).line line = .resident dirty n →
      ∃ t : State, exec (.patrolScrub (.line h line k) .uncorrectable) s = .next t ∧ t.mem = s.mem ∧
        (∀ v c : Nat, c < 512 → cData ((getHart t h).getC v c) = cData ((getHart s h).getC v c) ∧
          cTail ((getHart t h).getC v c) = cTail ((getHart s h).getC v c) ∧
          cPsn ((getHart t h).getC v c) =
            (cPsn ((getHart s h).getC v c) ||
              decide (v = line / 4 ∧ c / 128 = line % 4 ∧ (if k < 64 then c % 128 / 2 = k else c % 128 / 16 + 64 = k))))) ∧
    (∀ (slot : Nat) (c : XCtx) (r : XRecord), smFind s.xctx slot = some c → r ∈ c.flight →
      ∃ t : State, exec (.patrolScrub (.record slot r.sender r.recv r.no) .uncorrectable) s = .next t ∧
        smFind t.xctx slot = some { c with flight := c.flight.map (fun z =>
          if z.sender = r.sender ∧ z.recv = r.recv ∧ z.no = r.no then { z with psn := true } else z) }) ∧
    (∀ (line : Nat) (l : LlcLine), smFind s.caches.llc line = some l → l.dirty ≠ 0 →
      (let packs := l.cmp = true ∧ (l.hot = false ∨ 5 * s.hotidle.toNat ≤ 8 * (s.time - l.since).toNat)
       ∃ (t : State) (z : LlcLine), exec (.llcWriteBack (line / 2 ^ 27) (line % 2 ^ 27)) s = .next t ∧ smFind t.caches.llc line = some z ∧ z.dirty = 0 ∧
         z.valid = l.valid ∧ (z.packed = true ↔ packs) ∧ (¬ packs → z.hot = false ∧ smGet 4 t.caches.lengths line = 4) ∧
         (packs → 1 ≤ smGet 4 t.caches.lengths line ∧ smGet 4 t.caches.lengths line ≤ 4) ∧ t.mem = s.mem ∧ t.harts = s.harts))

/-- The scheduler's steps (14 R303 to R315, 13 R287). WALKER_HANDOUT starts the next iteration of a nest, its indirect bounds read (R304), on the
core that its walker found: the tuple in s1 to s4, PARAM, the ordinal, the id, the top of the stack, the nest's mode and page tables, and ENTRY. WAIT_WORD_POLL marks a
satisfied entry; AGEING_TICK raises the priority of a nest that waits for a walker or holds a ready unit, and of a nest that
has a walker the time that its saved context waited for the host does not count, its count beginning anew at the step that finds the answer, which
is the model's reading (R309, 16 R346, log entry 65); LPWAIT_EXPIRY, which reads LPWAIT's cycles as 0.625 ns of SPANTIME each (the model's,
log entry 20), and DEADLINE_EXPIRY ask harts to halt or drain a walk;
CORE_REBIND binds the pool; NEST_STATUS_WRITE writes the status word and frees the id. Halts, saves and resumptions (15 R326, R329 to R332).
HALT_REQUEST: a bound hart asked to halt, with no trap pending, halts, an end whose steps 1 to 4
have finished or a waiting tlbinv completed (15 R336). CONTEXT_SAVE: a halted hart whose image its slot takes becomes a
saved context with the engine contexts and the slot is unbound; at a page fault for the host the record of kind 1 is posted, and the context waits
for it. OWED_WRITE_LAND: data merges into its lines in memory; that it does nothing else, the flags and mask bits having been set at the halt, is
the model's choice (log entry 62). CONTEXT_RESUME: a unit of saved contexts runs again on the core that the walker found. -/
def Obligations.SchedulerSteps : Prop :=
  (∀ s : State, Powered s →
     (∀ (w id core k : Nat) (n n1 : Nest) (tuple : List Nat) (ord : Nat) (s1 : State), (getWalker s w).nest = some id → findNest s id = some n →
       readyUnit s w = some (id, n, .iteration, core) → turnOf s = some w → walkEmpty s n = false →
       walkTake s n = (some (tuple, ord), n1, s1) → coreTriple (getCore s core) = n1.rc.triple → freeSlot s core = some k →
       ∃ t : State, exec (.walkerHandout w) s = .next t ∧
         (let y := getHart t (4 * core + k)
          y.bound = true ∧ y.nest = id ∧ y.ordinal = ord ∧ y.pc = n1.rc.entry ∧ y.csr.ptroot = n1.ptroot ∧ y.csr.tvec = n1.tvec ∧
          y.user = n1.user ∧ y.csr.nestid = BitVec.ofNat 64 id ∧
          y.getS 1 = BitVec.ofNat 64 (tuple.getD 0 0) ∧ y.getS 2 = BitVec.ofNat 64 (tuple.getD 1 0) ∧
          y.getS 3 = BitVec.ofNat 64 (tuple.getD 2 0) ∧ y.getS 4 = BitVec.ofNat 64 (tuple.getD 3 0) ∧ y.getS 5 = n1.rc.param ∧
          y.getS 6 = BitVec.ofNat 64 ord ∧ y.getS 7 = BitVec.ofNat 64 id ∧
          y.getS 30 = n1.rc.stack + BitVec.ofNat 64 ((4 * core + k + 1) * n1.rc.stksz) ∧ y.getS 8 = 0)) ∧
     (∀ (w k id v : Nat) (n : Nest) (s1 : State), (getWalker s w).nest = some id → findNest s id = some n → n.withdrawing = false →
       n.waitsOk.getD k true = false → nestRead s n (n.rc.waita.getD k 0) 8 = (some v, s1) → bitOf n.rc.wstat k = false →
       ((n.rc.waitn.getD k 0).toNat ≤ v → ∃ (t : State) (m : Nest), exec (.waitWordPoll w k) s = .next t ∧ findNest t id = some m ∧
         m.waitsOk = n.waitsOk.set k true ∧ t.mem = s1.mem) ∧
       (v < (n.rc.waitn.getD k 0).toNat → exec (.waitWordPoll w k) s = .next s1)) ∧
     (∀ (id : Nat) (n : Nest), findNest s id = some n →
       (n.rc.age ≠ 0 → n.eprio < 7 → n.ageFrom + n.rc.age ≤ s.time.toNat →
         ((n.walker = none ∧ (n.walk.finished = false ∨ hasSaved s id = true)) ∨
           (n.open = true ∧ n.withdrawing = false ∧ nextUnit s id n ≠ none)) →
         (∀ v ∈ s.saved, v.nest = id → ∀ u ∈ familySaved s v, u.hostWait = false) →
         exec (.ageingTick id) s = .next { s with nests := smPut s.nests id { n with eprio := n.eprio + 1, ageFrom := n.ageFrom + n.rc.age } }) ∧
       (∀ v : Saved, n.rc.age ≠ 0 → s.saved.find? (fun v => v.nest == id) = some v → (∃ u ∈ familySaved s v, u.hostWait = true) →
         (∀ u ∈ familySaved s v, hostReady s u = true) →
         (n.walker ≠ none →
           ∃ t : State, exec (.ageingTick id) s = .next t ∧ findNest t id = some { n with ageFrom := s.time.toNat }) ∧
         (n.walker = none → n.eprio < 7 → n.ageFrom + n.rc.age ≤ s.time.toNat →
           ∃ t : State, exec (.ageingTick id) s = .next t ∧
             findNest t id = some { n with eprio := n.eprio + 1, ageFrom := n.ageFrom + n.rc.age })) ∧
       (n.rc.dline ≠ 0 → n.rc.dline ≤ s.time.toNat → n.withdrawing = false → n.walk.finished = false → hasSaved s id = false →
         n.rc.hard = false → exec (.deadlineExpiry id) s = .next { s with nests := smPut s.nests id { n with draining := true } }) ∧
       (n.walk.finished = true → hasRunning s id = false → hasSaved s id = false → n.withdrawing = false → n.rc.cblk = 0 →
         ∃ t : State, exec (.nestStatusWrite id) s = .next t ∧ t.harts = s.harts ∧ t.mem = s.mem ∧ findNest t id = none) ∧
       (n.walk.finished = true → hasRunning s id = false → hasSaved s id = false → n.withdrawing = false → n.rc.cblk ≠ 0 →
         ∀ (key : Nat) (s1 : State), access s n.agent (n.rc.cblk + 8) 8 .store .engine = .ok (key, s1) → isPoisoned s1 key = false →
           ∃ t : State, exec (.nestStatusWrite id) s = .next t ∧ findNest t id = none ∧ t.mem = (writeNat s1 0 key
             ((if n.expn ≠ 0 ∨ n.stopped = true then 2 else 1) * 2 ^ 61 + (if n.badref then 2 ^ 60 else 0) + n.expn) 8).mem)) ∧
     (∀ core j : Nat,
       (let y := (getCore s core).slice j
        let h := 4 * core + y.owner.toNat
        y.held = true → y.pend = true → 5 * (getCore s core).lpwait.toNat ≤ 8 * (s.time - y.since).toNat → (getHart s h).bound = true →
        (getHart s h).request = none → (∀ p ∈ s.harts, p.1 = h → p.2 = getHart s h) → h ∈ s.harts.map (fun p => p.1) →
        ∃ t : State, exec (.lpwaitExpiry core j) s = .next t ∧ t.mem = s.mem ∧ (getHart t h).request = some .repartition)) ∧
     (∀ (core id : Nat) (n : Nest), (getCore s core).rebind = some id → lanedHarts s core = [] → findNest s id = some n →
       (∀ v ∈ s.saved, v.home ≠ some core ∧ v.nest ≠ id) → n.walk.finished = false → n.rc.slices ≠ 0 → boundSlots s core = [] →
       ∃ t : State, exec (.coreRebind core id) s = .next t ∧ coreTriple (getCore t core) = (n.rc.preg % 2 ^ 64, n.rc.pscr % 2 ^ 64, n.rc.pl1 % 2 ^ 64) ∧
         (getCore t core).rebind = none ∧ t.harts = s.harts)) ∧
  (∀ s : State, Powered s →
     (∀ (h : Nat) (r : HaltReason), (getHart s h).bound = true → (getHart s h).request = some r → r ≠ .parity →
       haltStops r = false → (getHart s h).halted = none → (getHart s h).pending = none →
       (∀ s1 : State, endNow s h = some s1 → exec (.haltRequest h r) s = .next s1) ∧
       (endNow s h = none →
         (let s1 := tlbinvAtHalt s h
          exec (.haltRequest h r) s = .next (putHart s1 h { getHart s1 h with halted := some r, wait := .none, request := none })))) ∧
     (∀ (h : Nat) (r : HaltReason) (s3 : State) (keys : List Nat), (getHart s h).bound = true → (getHart s h).halted = some r →
       (getHart s h).request = none →
       (let s1 := takeBack (drainAll (quiesce (requestHalt s h .preempt) h) h) h
        let f := flushLines h (rectLines (getHart s1 h).csr.hwm) s1 none
        let s2 := settleStreams f.1 h
        let lost := f.2
        let x := getHart s2 h
        let g := x.parted
        let p : ImageParts :=
          { lost := lost.isSome, slices := slicesOf s2 h, home := coreOf h, det := g.copy.detached || g.lens.detached || g.xch.detached,
            pc := x.pc, copyDet := g.copy.detached, lensDet := g.lens.detached, xchDet := g.xch.detached, mtxQ := g.mtxQ,
            viq := if x.vq then x.held else x.viq }
        writePieces (slotAgent (coreOf h) x.csr.ptroot) (fun _ => .engine) x.saveSlot (imagePieces s2 h p) s2 = (s3, keys, none) →
        keys.any (isPoisoned s3) = false →
        ∃ t : State, exec (.contextSave h) s = .next t ∧ t.mem = s3.mem ∧ (getHart t h).bound = false ∧
          (∃ v ∈ t.saved, v.ctx = x.ctx ∧ v.slot = x.saveSlot ∧ v.home = some (coreOf h) ∧ v.eng = g ∧ v.lostAtoms = x.lostAtoms ∧
            v.hostWait = decide (r = .hostPageFault)) ∧
          (r = .hostPageFault → ∃ e ∈ t.events, e.kind = 1 ∧ e.ctx = some x.ctx ∧ e.addr = x.saveSlot ∧ e.tval = x.csr.tval))) ∧
     (∀ (k : Nat) (o : Owed) (s2 : State), (s.owed.drop k).head? = some o → (∀ q ∈ o.data, q.psn = false) →
       mergeOwed { s with owed := s.owed.take k ++ s.owed.drop (k + 1) } o = .ok s2 → exec (.owedWriteLand k false) s = .next s2) ∧
     (∀ (w id core : Nat) (n : Nest) (v : Saved), readyUnit s w = some (id, n, .resume [v], core) → turnOf s = some w → v.group = none →
       savedCtx s v.ctx = some v →
       ∀ u : State, resumeAt s v (lowestHart s core) ((getCore s core).idle.take v.slices) = some u →
         exec (.contextResume w) s = .next (settleAll (handedOut u w id core))))

/-- The host port (16 R341 to R346, R360, 14 R320). HOST_BAR_ACCESS: a read of supported places leaves their bytes, and moves nothing but the
caches; one that is unsupported or meets poison, and a request that fails under PCIe, leaves nothing and is logged; a write of memory changes its
bytes, a write that is refused is discarded and logged, and a write of CMD gives the mailbox a command, which ends at once where the mailbox
refuses it (R351, R354). HOST_ATOMICOP works at BAR2. ATS_INVALIDATE removes
pages and brings what the host answers from then on. HOSTMODE_WRITE keeps bits 4 to 0. EVENT_POST writes a record and PROD.
KEEPER_REQUEST_SERVE serves a request slot with DISP = 1, with or without a dispatcher, once for each SEQ: OP 1 submits a nest, 2 withdraws one,
3 reads a status, 4 withdraws the function's nests, and any other is ILLEGAL; a request that withdraws the dispatcher's own nest does not return, so
that nothing is written, and that SEQ counts as seen, which is the model's reading (14 R316, log entry 16). The Keeper (16 R350 to R357). The command at the head
of a mailbox is served and answered: its effect, then STAT, then RSEQ, then vector 1 or the in-band interrupt. I3C writes and reads go to the
out-of-band page at the offset of the last private write. At 95 °C, or above the power limit, issue is withheld; at 110 °C power is removed.
The model's are: that a refused host write or AtomicOp is discarded and logged (log entry 38), the address in that record (log entry 130), the rights that an invalidation brings (log entry
86), what the boot record's masks and the log's data bytes hold beyond the tables (log entries 11, 14), that I3C offsets wrap at 4,096
and which bytes count as CMD (log entry 76), and that the lower of command 7's limit and the form's own holds (log entry 84). -/
def Obligations.HostAndKeeperSteps : Prop :=
  (∀ (s : State) (f : Fn), Powered s →
     (∀ r : BarReq, s.boot.hostUp = true →
       (∀ key : Nat, barPlace s f r.bar r.offset = .mem key → barAddress s f r.bar r.offset = BitVec.ofNat 64 (paOfKey key)) ∧
       (r.failed = true → exec (.hostBarAccess f r) s = .next { uncorrectable s (barAddress s f r.bar r.offset) with barRead := [] }) ∧
       (r.failed = false → r.write = none →
         ((∀ i < r.len, barPlace s f r.bar (r.offset + i) ≠ .unsupported ∧
             ∀ key, barPlace s f r.bar (r.offset + i) = .mem key → isPoisoned s key = false) →
           ∃ c : Caches, exec (.hostBarAccess f r) s = .next { s with
             barRead := (List.range r.len).map (fun i => placeRead s (barPlace s f r.bar (r.offset + i))), caches := c }) ∧
         ((∃ i < r.len, barPlace s f r.bar (r.offset + i) = .unsupported ∨
             ∃ key, barPlace s f r.bar (r.offset + i) = .mem key ∧ isPoisoned s key = true) →
           exec (.hostBarAccess f r) s = .next { uncorrectable s (barAddress s f r.bar r.offset) with barRead := [] })) ∧
       (∀ bs : List Byte, r.failed = false → r.write = some bs →
         ((∃ i < bs.length, placeRefused s (barPlace s f r.bar (r.offset + i)) = true) →
           exec (.hostBarAccess f r) s = .next (uncorrectable s (barAddress s f r.bar r.offset))) ∧
         ((∀ i < bs.length, ∃ key, barPlace s f r.bar (r.offset + i) = .mem key ∧ protection s 0 key = none) →
           ∃ t : State, exec (.hostBarAccess f r) s = .next t ∧ t.harts = s.harts ∧
             t.mem = (writeAll s (2 ^ 57 + s.steps)
               (memWrites ((List.range bs.length).map (fun i => barPlace s f r.bar (r.offset + i))) bs)).mem) ∧
         (r.bar = false → r.offset = 0x4000 → bs.length = 8 → mailQueue s (.fn f) = [] →
           (let w := mailPutAll s (.fn f) 0 bs
            let e : MailReq := { cmd := BitVec.ofNat 64 (mailNat w (.fn f) 0 8), args :=
              (List.range 32).map (fun i => mailByte w (.fn f) (8 + i)) ++ (List.range 16).map (fun i => mailByte w (.fn f) (256 + i)) }
            let u := putMailQueue w (.fn f) [e]
            exec (.hostBarAccess f r) s = .next
              (match mailRefusal (.fn f) e.code with | some stat => mailFinish u (.fn f) e stat | none => u))))) ∧
     (∀ (r : HostAtomic) (key : Nat), s.boot.hostUp = true → bar2Place s f r.offset = .mem key →
       (let n := if r.wide then 8 else 4
        (r.failed = true ∨ r.offset % n ≠ 0 ∨ isPoisoned s key = true ∨ (protectionRange s 0 key n).isSome = true) →
          exec (.hostAtomicop f r) s = .next { uncorrectable s (BitVec.ofNat 64 (paOfKey key)) with barRead := [] })) ∧
     (∀ (r : HostAtomic) (key : Nat), s.boot.hostUp = true → r.failed = false → bar2Place s f r.offset = .mem key →
       r.offset % (if r.wide then 8 else 4) = 0 → isPoisoned s key = false →
       (let n := if r.wide then 8 else 4
        let old := memNat s key n
        let new := match r.op with
          | .fetchAdd => some ((old + r.operand.toNat % 2 ^ (8 * n)) % 2 ^ (8 * n))
          | .swap => some (r.operand.toNat % 2 ^ (8 * n))
          | .cas => if old = r.compare.toNat % 2 ^ (8 * n) then some (r.operand.toNat % 2 ^ (8 * n)) else none
        protectionRange s 0 key n = none →
        ∃ t : State, exec (.hostAtomicop f r) s = .next t ∧ t.barRead = bytesOf old n ∧ t.harts = s.harts ∧
          t.mem = (match new with | some v => (writeNat s 0 key v n).mem | none => s.mem))) ∧
     (∀ (page pages : Nat) (right : Option Bool), exec (.atsInvalidate { page := page, pages := pages } right) s = .next { s with
       ats := s.ats.filter (fun e => e.page < page || page + pages ≤ e.page)
       rights := { page := page, pages := pages, right := right } :: s.rights }) ∧
     (∀ v : BitVec 64, s.boot.hostUp = true → exec (.hostmodeWrite v) s = .next { s with hostmode := v &&& 31 }) ∧
     (∀ (e : HostEvent) (p : Nat), s.events.find? (fun e => e.fn == f) = some e → reservedPage s f = some p → e.ctx = none →
       (∀ i < 4096, isPoisoned s (p + i) = false) →
       (let prod := memNat s (p + 0x40) 8
        let cons := memNat s (p + 0x48) 8
        let k := p + 0x800 + 32 * (prod % 32)
        ((prod + 2 ^ 64 - cons) % 2 ^ 64 = 32 → exec (.eventPost f) s = .next s) ∧
        ((prod + 2 ^ 64 - cons) % 2 ^ 64 ≠ 32 →
          ∃ t : State, exec (.eventPost f) s = .next t ∧ t.events = s.events.erase e ∧
            t.mem = (writeNat (writeNat (writeNat (writeNat (writeNat s 0 k e.kind 8) 0 (k + 8) e.addr.toNat 8) 0 (k + 16) e.tval.toNat 8)
              0 (k + 24) e.extra.toNat 8) 0 (p + 0x40) (prod + 1) 8).mem ∧
            (prod = cons → smGet 0 t.msix (4 * fnIx f) = smGet 0 s.msix (4 * fnIx f) + 1)))) ∧
     (s.hostmode.getLsbD 0 = false → exec (.keeperRequestServe f) s = .next s) ∧
     (∀ p : Nat, s.hostmode.getLsbD 0 = true → reservedPage s f = some p → isPoisoned s p = false →
       (let seq := memNat s p 8
        let op := memNat s (p + 8) 8
        let v : Word := BitVec.ofNat 64 (memNat s (p + 16) 8)
        let u := serverOf s f
        let own := v.toNat = u.nest ∧ ∃ n : Nest, findNest s u.nest = some n ∧ n.withdrawing = false
        let after := fun (z : State) (m : Memory) => ∃ t : State, exec (.keeperRequestServe f) s = .next t ∧ t.mem = m ∧ t.harts = z.harts ∧
          t.nests = z.nests ∧ smGet 0 t.keeper.seen (fnIx f) = BitVec.ofNat 64 seq
        let answered := fun (res : Word) (z : State) => after z
          (writeNat (writeNat (writeNat (writeNat z 0 (p + 40) res.toNat 8) 0 (p + 48) 0 8) 0 (p + 56) 0 8) 0 (p + 32) seq 8).mem
        (BitVec.ofNat 64 seq = smGet 0 s.keeper.seen (fnIx f) → exec (.keeperRequestServe f) s = .next s) ∧
        (BitVec.ofNat 64 seq ≠ smGet 0 s.keeper.seen (fnIx f) →
          (op = 1 → (∀ (res : Word) (z : State), submitNest s u v = .ok (res, z) → answered res z) ∧
            ∀ e : Stop, submitNest s u v = .error e →
              answered (BitVec.ofNat 64 (2 ^ 63 + e.trap.cause.code * 2 ^ 32 + e.trap.tval2.toNat % 2 ^ 32)) e.state) ∧
          (op = 2 → ¬ own → answered 0 (withdrawNest s v.toNat false)) ∧
          (op = 2 → own → after (withdrawNest s v.toNat false) (withdrawNest s v.toNat false).mem) ∧
          (op = 3 → answered (match findNest s v.toNat with | some n => nstatWord s v.toNat n | none => BitVec.allOnes 64) s) ∧
          (op = 4 → answered 0 (withdrawFn s f)) ∧
          (op ∉ [1, 2, 3, 4] → answered 0x8000000200000000 s))))) ∧
  (∀ code : Nat,
     (∀ i : Fin 8, mailRefusal (.fn (.vf i)) code = if code ∈ [1, 2, 3, 9] then none else some 2) ∧
     mailRefusal .oob 2 = some 2 ∧ mailRefusal .oob 4 = some 2) ∧
  (∀ (s : State) (p : MailPort), Powered s →
     (let k := s.keeper
      (∀ (i : Instr) (code : Nat), ((i = .mailboxSensors p ∧ code = 1) ∨ (i = .mailboxLogCopy p ∧ code = 2) ∨ (i = .mailboxAttest p ∧ code = 3) ∨
          ((∃ v, i = .mailboxImageFetch p v) ∧ code = 4) ∨ (i = .mailboxFenceClear p ∧ code = 5) ∨ (i = .mailboxActivate p ∧ code = 6) ∨
          (i = .mailboxPowerLimit p ∧ code = 7) ∨ (i = .mailboxRetrain p ∧ code = 8) ∨ (i = .mailboxReportRead p ∧ code = 9)) →
        mailPending s p code = false → exec i s = .next s) ∧
      (∀ (e : MailReq) (q : List MailReq), mailQueue s p = e :: q →
        (let served := fun (t : State) (stat : Nat) => mailSettle (mailFinish { t with keeper := { t.keeper with lastOob := p == .oob } } p e stat) p
         (e.code = 1 → exec (.mailboxSensors p) s = .next (served (mailPutAll s p 256
           ((k.sensors.map (fun r => bytesOf (r.2.point.toNat * 2 ^ 24 + r.2.kind.toNat * 2 ^ 22 + r.2.value.toNat) 4)).flatten)) 0)) ∧
         (e.code = 2 → exec (.mailboxLogCopy p) s = .next (served (hostPut s (e.arg 0) (((k.log.map logBytes).flatten).take (e.arg 1))) 0)) ∧
         (e.code = 3 →
           (let s1 := { s with keeper := { k with report := reportHead s e, reports := k.reports + 1 } }
            let s2 := mailPutAll s1 p 256 (reportHead s e)
            ((p = .oob ∨ e.arg 4 = 0) → exec (.mailboxAttest p) s = .next (served s2 0)) ∧
            (p ≠ .oob → e.arg 4 ≠ 0 → e.arg 5 < reportLen → exec (.mailboxAttest p) s = .next (served s2 4)))) ∧
         (∀ v : ImageCheck, e.code = 4 →
           (let good := e.arg 1 ≤ 22 * 2 ^ 20 ∧ v.rsaOk = true ∧ v.slhOk = true ∧ v.digestOk = true ∧ k.fuses ≤ v.svn
            (good → ∃ t : State, exec (.mailboxImageFetch p v) s = .next t ∧
              t.keeper.image false = { len := e.arg 1, svn := v.svn, verified := true, bytes := hostGet s (e.arg 0) (e.arg 1) } ∧
              t.keeper.image true = k.image true ∧ t.keeper.switchNext = !s.hostmode.getLsbD 4) ∧
            (¬ good → exec (.mailboxImageFetch p v) s = .next (served s 3)))) ∧
         (e.code = 5 → exec (.mailboxFenceClear p) s = .next (served { s with
           boot := { s.boot with fences := s.boot.fences.filter (fun z => !(e.arg 0).testBit z.1) } } 0)) ∧
         (e.code = 6 →
           ((k.image false).verified = true →
             ∃ t : State, exec (.mailboxActivate p) s = .next t ∧ t.keeper.switchNext = true ∧ t.keeper.activeB = k.activeB) ∧
           ((k.image false).verified = false → exec (.mailboxActivate p) s = .next (served s 3))) ∧
         (e.code = 7 → exec (.mailboxPowerLimit p) s = .next (served { s with keeper := { k with limit := e.arg 0 } } 0)) ∧
         (e.code = 8 →
           ∃ t : State, exec (.mailboxRetrain p) s = .next t ∧
             (∀ q < 24, getPort t q =
               if (e.arg 0).testBit q = true ∧ (getPort s q).lanes ≠ 4 ∧ (getPort s q).training = none ∧ portJoined s q = true
               then { getPort s q with training := some 4 } else getPort s q)) ∧
         (e.code = 9 → exec (.mailboxReportRead p) s = .next (served (mailPutAll s p 256
           ((List.range 3840).map (fun i => reportByte k (e.arg 0 + i)))) 0)))) ∧
      (∀ (lo hi : Byte) (bs : List Byte),
        (let off := (lo.toNat + 256 * hi.toNat) % 4096
         let w := mailPutAll { s with keeper := { k with i3cOff := off, i3cIbi := false } } .oob off bs
         ((∀ i < bs.length, 8 ≤ (off + i) % 4096) → exec (.i3cPrivateWrite (i3cOwn k) (lo :: hi :: bs)) s = .next w) ∧
         ((∃ i < bs.length, (off + i) % 4096 < 8) → exec (.i3cPrivateWrite (i3cOwn k) (lo :: hi :: bs)) s = .next (mailEnter w .oob)))) ∧
      (∀ n : Nat, exec (.i3cPrivateRead (i3cOwn k) n) s = .next { s with
        barRead := (List.range n).map (fun i => mailByte s .oob (k.i3cOff + i))
        keeper := { k with i3cIbi := false } }) ∧
      (∀ a : BitVec 7, exec (.i3cAddressAssign a) s = .next { s with keeper := { k with i3cAddr := some a } }) ∧
      (∀ rs : List Sensor, ∃ t : State, exec (.sensorPoll rs) s = .next t ∧
        t.keeper.sensors = (rs.filter (fun r => r.point.toNat < 128)).foldl (fun m r => smPut m r.point.toNat r) k.sensors ∧
        (t.keeper.off = true ↔ hotter t.keeper 110000 = true) ∧
        (t.keeper.off = false → (t.keeper.withhold = true ↔ (k.withhold = true ∨ hotter t.keeper 95000 = true)))) ∧
      (∀ watts : Nat, ∃ t : State, exec (.powerAdjust watts) s = .next t ∧
        (t.keeper.withhold = true ↔ (min k.limit (if Config.onModule then 2500 else 2350) < watts ∨ hotter k 95000 = true)) ∧
        t.keeper.limit = k.limit ∧ t.harts = s.harts)))

/-- A device reset, with or without power (06 R139, 16 R352, R358, R359): every unit is at its reset state. Without a stack that fails for the
first time: when the Keeper's image, of a version no lower than the anti-rollback count, the rails, the fuses, the caches and the dispatchers are
good and a stack is left, boot runs to its end, fences the stacks that failed again or had been fenced, trains the ports and sets the span's time;
else boot stops, and no dispatcher is submitted. A stack that fails training for the first time in a sequence resets the device once more, with the
attempt counts kept; one that fails again in that pass is fenced all the same. That the slot booted after a fallback becomes the active one, and
what the Keeper holds as delivered, are the model's (log entry 11); so are the bytes of memory that read 0 after a reset, even where boot stops
early (scratchpads, log entry 3; mailbox pages, log entry 9; HBM, log entry 43), and the empty caches and ATS (log entry 4). -/
def Obligations.ResetBoots : Prop :=
  (∀ (s : State) (bs : List BootPass),
    ∃ t : State, exec (.deviceReset bs) s = .next t ∧ t.harts = [] ∧ t.cores = [] ∧ t.clusters = [] ∧ t.hostmode = 0 ∧ t.hotidle = 65536 ∧
      t.keeper.off = false ∧ t.keeper.withhold = false ∧ t.keeper.sensors = [] ∧ t.keeper.mailQ = [] ∧ t.keeper.i3cAddr = none ∧
      t.xctx = [] ∧ t.xgather = [] ∧ t.lens = [] ∧ t.qgather = [] ∧ t.opened = [] ∧ t.saved = [] ∧ t.owed = [] ∧ t.groups = [] ∧ t.mbox = [] ∧
      t.events = [] ∧ t.msix = [] ∧ t.caches = Caches.reset ∧ t.ats = [] ∧ t.buoys = [] ∧ t.tokens = [] ∧ t.turns = [] ∧ t.poison = [] ∧
      t.mem = s.mem.filter (fun p => 2 ^ 53 ≤ p.1 || (2 ^ 41 ≤ p.1 && p.1 < 2 ^ 52)) ∧
      (∀ q : Nat, (getPort t q).unacked = [] ∧ (getPort t q).filling = [] ∧ (getPort t q).training = none)) ∧
  (∀ (s : State) (b : BootPass) (bs : List BootPass), b.cut = none →
    (let act := if s.keeper.switchNext then !s.keeper.activeB else s.keeper.activeB
     let sound := fun (second : Bool) =>
       if second then b.slotBOk && s.keeper.slotB.verified && decide (s.keeper.fuses ≤ s.keeper.slotB.svn)
       else b.slotAOk && s.keeper.slotA.verified && decide (s.keeper.fuses ≤ s.keeper.slotA.svn)
     let skip := fun (i : Nat) => decide (0 < smGet 0 s.boot.fences i)
     let fails := fun (i : Nat) => b.trainFail.getLsbD i || b.zeroFail.getLsbD i
     let fenced := fun (i : Nat) => skip i || (fails i && s.boot.retried.getLsbD i)
     let starts := (sound act = true ∨ sound (!act) = true) ∧ b.railsOk = true ∧ b.fusesOk = true
     let runs := starts ∧ b.cachesOk = true ∧ b.dispatchOk = true ∧ ∃ i < 8, fenced i = false
     ((∀ i < 8, fails i = true → skip i = true ∨ s.boot.retried.getLsbD i = true) →
       ∃ t : State, exec (.deviceReset (b :: bs)) s = .next t ∧
         (runs → t.boot.done = true ∧ t.time = b.timeNs ∧ t.boot.hostUp = decide (4 ≤ b.hostWidth) ∧ t.span = b.packages ∧
           t.keeper.activeB = (if sound act then act else !act) ∧ (∀ i < 8, t.boot.fenced.getLsbD i = fenced i) ∧ t.boot.retried = 0 ∧
           (∀ q < 24, (getPort t q).lanes = if portPeer q ∈ b.packages then
             (if b.portWide.getLsbD q then 4 else if b.portNarrow.getLsbD q then 2 else 0) else 0)) ∧
         (¬ runs → t.boot.done = false ∧ t.nests = [])) ∧
     (starts → ∀ first : BitVec 8, first = b.trainFail &&& ~~~skippedStacks s &&& ~~~s.boot.retried → first ≠ 0 →
       ∃ u : State, exec (.deviceReset (b :: bs)) s = exec (.deviceReset bs) u ∧ u.boot.retried = s.boot.retried ||| first ∧
         (∀ i < 8, smGet 0 u.boot.fences i = smGet 0 s.boot.fences i +
           (if skip i = false ∧ b.trainFail.getLsbD i = true ∧ s.boot.retried.getLsbD i = true then 1 else 0)) ∧ smGet 0 u.boot.tries 4 = smGet 0 s.boot.tries 4 + 1)))
end

