-- ==== Sys2Proof/Laws/SMap.lean ====
section
/-! SUPPORT. Laws of sparse maps: what a put, a set and an erase change, and that each keeps the canonical form. -/

namespace Sys2Proof

variable {α : Type}

/-- A put value is read back. -/
@[simp] theorem smGet_smPut_same (d : α) (m : SMap α) (k : Nat) (v : α) : smGet d (smPut m k v) k = v := by
  induction m with
  | nil => simp [smPut, smGet]
  | cons p m ih =>
    obtain ⟨j, x⟩ := p
    simp only [smPut]
    split
    · simp [smGet]
    · split
      · simp [smGet]
      · simp [smGet, *]

/-- A put leaves every other key alone. -/
theorem smGet_smPut_other (d : α) (m : SMap α) {k j : Nat} (v : α) (h : j ≠ k) : smGet d (smPut m k v) j = smGet d m j := by
  induction m with
  | nil => simp only [smPut, smGet]; split <;> simp_all
  | cons p m ih =>
    obtain ⟨i, x⟩ := p
    simp only [smPut]
    split
    · simp only [smGet]; split <;> split <;> (try split) <;> first | rfl | omega
    · split
      · subst_vars; simp only [smGet]
        simp [h]
      · simp only [smGet, ih]

/-- A put value is found. -/
@[simp] theorem smFind_smPut_same (m : SMap α) (k : Nat) (v : α) : smFind (smPut m k v) k = some v := by
  induction m with
  | nil => simp [smPut, smFind]
  | cons p m ih =>
    obtain ⟨j, x⟩ := p
    simp only [smPut]
    split
    · simp [smFind]
    · split
      · simp [smFind]
      · simp [smFind, *]

/-- A put leaves what is found elsewhere alone. -/
theorem smFind_smPut_other (m : SMap α) {k j : Nat} (v : α) (h : j ≠ k) : smFind (smPut m k v) j = smFind m j := by
  induction m with
  | nil => simp only [smPut, smFind]; split <;> simp_all
  | cons p m ih =>
    obtain ⟨i, x⟩ := p
    simp only [smPut]
    split
    · simp only [smFind]; split <;> split <;> (try split) <;> first | rfl | omega
    · split
      · subst_vars; simp only [smFind]
        simp [h]
      · simp only [smFind, ih]

/-- Below the lowest key nothing is listed. -/
theorem smGet_below (d : α) {m : SMap α} {lo k : Nat} (hs : smSorted lo m = true) (h : k < lo) : smGet d m k = d := by
  cases m with
  | nil => rfl
  | cons p m =>
    obtain ⟨j, x⟩ := p
    simp only [smSorted, Bool.and_eq_true, decide_eq_true_eq] at hs
    simp only [smGet]
    rw [if_pos (by omega)]

/-- Keys that rise from one bound rise from a lower one. -/
theorem smSorted_mono {m : SMap α} {lo lo' : Nat} (h : smSorted lo m = true) (hl : lo' ≤ lo) : smSorted lo' m = true := by
  cases m with
  | nil => rfl
  | cons p m =>
    simp only [smSorted, Bool.and_eq_true, decide_eq_true_eq] at *
    exact ⟨by omega, h.2⟩

/-- A put keeps keys rising. -/
theorem smSorted_smPut {m : SMap α} {lo k : Nat} (v : α) (hs : smSorted lo m = true) (hk : lo ≤ k) :
    smSorted lo (smPut m k v) = true := by
  induction m generalizing lo with
  | nil => simp [smPut, smSorted, hk]
  | cons p m ih =>
    obtain ⟨j, x⟩ := p
    simp only [smSorted, Bool.and_eq_true, decide_eq_true_eq] at hs
    simp only [smPut]
    split
    · simp only [smSorted, Bool.and_eq_true, decide_eq_true_eq]
      exact ⟨hk, by omega, hs.2⟩
    · split
      · subst_vars
        simp only [smSorted, Bool.and_eq_true, decide_eq_true_eq]
        exact ⟨hk, hs.2⟩
      · simp only [smSorted, Bool.and_eq_true, decide_eq_true_eq]
        exact ⟨hs.1, ih hs.2 (by omega)⟩

/-- An erase keeps keys rising. -/
theorem smSorted_smErase {m : SMap α} {lo k : Nat} (hs : smSorted lo m = true) : smSorted lo (smErase m k) = true := by
  induction m generalizing lo with
  | nil => rfl
  | cons p m ih =>
    obtain ⟨j, x⟩ := p
    simp only [smSorted, Bool.and_eq_true, decide_eq_true_eq] at hs
    simp only [smErase, List.filter_cons]
    split
    · simp only [smSorted, Bool.and_eq_true, decide_eq_true_eq]
      exact ⟨hs.1, ih hs.2⟩
    · exact smSorted_mono (ih hs.2) (by omega)

/-- The entries of a map after a put. -/
theorem mem_smPut {m : SMap α} {k : Nat} {v : α} {p : Nat × α} (h : p ∈ smPut m k v) : p = (k, v) ∨ p ∈ m := by
  induction m with
  | nil => simpa [smPut] using h
  | cons q m ih =>
    obtain ⟨j, x⟩ := q
    simp only [smPut] at h
    split at h
    · simpa using h
    · split at h
      · rcases List.mem_cons.1 h with h | h
        · exact .inl h
        · exact .inr (List.mem_cons_of_mem _ h)
      · rcases List.mem_cons.1 h with h | h
        · exact .inr (by simp [h])
        · rcases ih h with h | h
          · exact .inl h
          · exact .inr (List.mem_cons_of_mem _ h)

/-- The entries of a map after an erase. -/
theorem mem_smErase {m : SMap α} {k : Nat} {p : Nat × α} (h : p ∈ smErase m k) : p ∈ m := (List.mem_filter.1 h).1

/-- An erased key is not found. -/
@[simp] theorem smFind_smErase_same (m : SMap α) (k : Nat) : smFind (smErase m k) k = none := by
  induction m with
  | nil => rfl
  | cons p m ih =>
    obtain ⟨j, x⟩ := p
    simp only [smErase, List.filter_cons]
    split
    · have hj : ¬ k = j := fun e => by simp_all
      simp only [smFind, if_neg hj]
      split
      · rfl
      · exact ih
    · exact ih

/-- An erased key reads as an unlisted one. -/
@[simp] theorem smGet_smErase_same (d : α) (m : SMap α) (k : Nat) : smGet d (smErase m k) k = d := by
  induction m with
  | nil => rfl
  | cons p m ih =>
    obtain ⟨j, x⟩ := p
    simp only [smErase, List.filter_cons]
    split
    · have hj : ¬ k = j := fun e => by simp_all
      simp only [smGet, if_neg hj]
      split
      · rfl
      · exact ih
    · exact ih

/-- An erase leaves every other key alone. -/
theorem smGet_smErase_other (d : α) {m : SMap α} {lo k j : Nat} (hs : smSorted lo m = true) (h : j ≠ k) :
    smGet d (smErase m k) j = smGet d m j := by
  induction m generalizing lo with
  | nil => rfl
  | cons p m ih =>
    obtain ⟨i, x⟩ := p
    simp only [smSorted, Bool.and_eq_true, decide_eq_true_eq] at hs
    have e := ih hs.2
    simp only [smErase, List.filter_cons] at e ⊢
    split
    · simp only [smGet, e]
    · have hi : i = k := by simp_all
      subst hi
      simp only [smGet, if_neg h]
      split
      · rw [e]; exact smGet_below d hs.2 (by omega)
      · exact e

/-- A set keeps the canonical form. -/
theorem smWf_smSet [DecidableEq α] (d : α) {m : SMap α} (k : Nat) (v : α) (h : smWf d m = true) :
    smWf d (smSet d m k v) = true := by
  simp only [smWf, Bool.and_eq_true, List.all_eq_true, decide_eq_true_eq] at *
  unfold smSet
  split
  · exact ⟨smSorted_smErase h.1, fun p hp => h.2 p (mem_smErase hp)⟩
  · refine ⟨smSorted_smPut v h.1 (Nat.zero_le k), fun p hp => ?_⟩
    rcases mem_smPut hp with rfl | hp
    · assumption
    · exact h.2 p hp

/-- A set value is read back. -/
theorem smGet_smSet_same [DecidableEq α] (d : α) {m : SMap α} (k : Nat) (v : α) (h : smWf d m = true) :
    smGet d (smSet d m k v) k = v := by
  simp only [smWf, Bool.and_eq_true] at h
  unfold smSet
  split
  · subst_vars; exact smGet_smErase_same _ _ _
  · simp

/-- A set leaves every other key alone. -/
theorem smGet_smSet_other [DecidableEq α] (d : α) {m : SMap α} {k j : Nat} (v : α) (h : smWf d m = true) (hj : j ≠ k) :
    smGet d (smSet d m k v) j = smGet d m j := by
  simp only [smWf, Bool.and_eq_true] at h
  unfold smSet
  split
  · exact smGet_smErase_other d h.1 hj
  · exact smGet_smPut_other d m v hj

/-- Dropping a range keeps the canonical form. -/
theorem smWf_smClear [DecidableEq α] (d : α) {m : SMap α} (lo hi : Nat) (h : smWf d m = true) :
    smWf d (smClear m lo hi) = true := by
  simp only [smWf, Bool.and_eq_true, List.all_eq_true, decide_eq_true_eq] at *
  refine ⟨?_, fun p hp => h.2 p (List.mem_filter.1 hp).1⟩
  have aux : ∀ (m : SMap α) (n : Nat), smSorted n m = true → smSorted n (smClear m lo hi) = true := by
    intro m
    induction m with
    | nil => intro n _; rfl
    | cons p m ih =>
      intro n hs
      simp only [smSorted, Bool.and_eq_true, decide_eq_true_eq] at hs
      unfold smClear
      simp only [List.filter_cons]
      split
      · simp only [smSorted, Bool.and_eq_true, decide_eq_true_eq]
        exact ⟨hs.1, ih _ hs.2⟩
      · exact smSorted_mono (ih _ hs.2) (by omega)
  exact aux m 0 h.1

/-- A second put at a key is the one that counts. -/
@[simp] theorem smPut_smPut (m : SMap α) (k : Nat) (v w : α) : smPut (smPut m k v) k w = smPut m k w := by
  induction m with
  | nil => simp [smPut]
  | cons p m ih =>
    obtain ⟨j, x⟩ := p
    simp only [smPut]
    split
    · simp [smPut]
    · split
      · simp [smPut]
      · simp [smPut, *]

end Sys2Proof
end

