-- ==== Sys2Proof/Laws/Mem.lean ====
section
/-! SUPPORT. Laws of memory: every operation that writes it keeps the canonical form, a written byte is read back, and every other byte
stays as it was. -/

namespace Sys2Proof.Machine

/-- Reset memory has the canonical form. -/
theorem reset_memory_wf : State.reset.mem.wf = true := rfl

/-- A poison record touches no byte of memory. -/
@[simp] theorem replacePoison_mem (s : State) (w k : Nat) (m : Byte) : (replacePoison s w k m).mem = s.mem := by
  unfold replacePoison
  dsimp only
  repeat' split
  all_goals rfl

@[simp] theorem keeperLog_mem (s : State) (kind : Nat) (d : Word) : (keeperLog s kind d).mem = s.mem := rfl

/-- A log record touches no byte of memory. -/
@[simp] theorem uncorrectable_mem (s : State) (d : Word) : (uncorrectable s d).mem = s.mem := by
  have h : ∀ (b : Bool) (x : State) (e : HostEvent), (if b then queueEvent x e else x).mem = x.mem := by
    intro b x e
    cases b <;> rfl
  exact (h _ _ _).trans (keeperLog_mem s 2 d)

/-- Nor does the note of a write that leaves poison. -/
@[simp] theorem notePartial_mem (s : State) (ks : List Nat) : (notePartial s ks).mem = s.mem := by
  unfold notePartial
  split
  · simp
  · rfl

/-- Memory after one masked byte. -/
theorem putMasked_mem (s : State) (w : Nat) (b : MaskedByte) :
    (putMasked s w b).mem = smSet 0 s.mem b.key ((memByte s b.key &&& ~~~b.mask) ||| (b.val &&& b.mask)) := by
  simp [putMasked]

/-- A masked byte keeps the canonical form. -/
theorem putMasked_wf (s : State) (w : Nat) (b : MaskedByte) (h : s.mem.wf = true) : (putMasked s w b).mem.wf = true := by
  rw [putMasked_mem]
  exact smWf_smSet 0 _ _ h

/-- Several masked bytes keep the canonical form. -/
theorem putAll_wf (w : Nat) (bs : List MaskedByte) (s : State) (h : s.mem.wf = true) : (putAll s w bs).mem.wf = true := by
  induction bs generalizing s with
  | nil => exact h
  | cons b bs ih => exact ih _ (putMasked_wf s w b h)

/-- The bytes of a number keep the canonical form. -/
theorem putNat_wf (s : State) (w key v n : Nat) (h : s.mem.wf = true) : (putNat s w key v n).mem.wf = true :=
  putAll_wf w _ s h

/-- A poisoned chunk keeps memory. -/
@[simp] theorem poisonChunk_mem (s : State) (k : Nat) : (poisonChunk s k).mem = s.mem := rfl

/-- A masked byte leaves every other byte alone. -/
theorem memByte_putMasked_other (s : State) (w : Nat) (b : MaskedByte) (k : Nat) (h : s.mem.wf = true) (hk : k ≠ b.key) :
    memByte (putMasked s w b) k = memByte s k := by
  unfold memByte
  rw [putMasked_mem]
  exact smGet_smSet_other 0 _ h hk

/-- A masked byte replaces the masked bits. -/
theorem memByte_putMasked_same (s : State) (w : Nat) (b : MaskedByte) (h : s.mem.wf = true) :
    memByte (putMasked s w b) b.key = (memByte s b.key &&& ~~~b.mask) ||| (b.val &&& b.mask) := by
  show smGet 0 (putMasked s w b).mem b.key = _
  rw [putMasked_mem]
  exact smGet_smSet_same 0 _ _ h

/-- Several masked bytes leave every byte alone that none of them names. -/
theorem memByte_putAll_other (w : Nat) (bs : List MaskedByte) (s : State) (k : Nat) (h : s.mem.wf = true)
    (hk : ∀ b ∈ bs, k ≠ b.key) : memByte (putAll s w bs) k = memByte s k := by
  induction bs generalizing s with
  | nil => rfl
  | cons b bs ih =>
    have h1 := ih (putMasked s w b) (putMasked_wf s w b h) (fun c hc => hk c (List.mem_cons_of_mem _ hc))
    exact h1.trans (memByte_putMasked_other s w b k h (hk b (by simp)))

/-- The keys of a number's bytes. -/
theorem key_of_mem_bytesAt {n key v : Nat} {b : MaskedByte} (h : b ∈ bytesAt key v n) : key ≤ b.key ∧ b.key < key + n := by
  induction n generalizing key v with
  | zero => simp [bytesAt] at h
  | succ n ih =>
    rcases List.mem_cons.1 h with rfl | h
    · simp
    · have := ih h
      omega

/-- A number written leaves every byte outside it alone. -/
theorem memByte_putNat_other (s : State) (w key v n k : Nat) (h : s.mem.wf = true) (hk : k < key ∨ key + n ≤ k) :
    memByte (putNat s w key v n) k = memByte s k :=
  memByte_putAll_other w _ s k h (fun b hb => by have := key_of_mem_bytesAt hb; omega)

/-- A number written is read back byte by byte. -/
theorem memByte_putNat_same (s : State) (w key v n i : Nat) (h : s.mem.wf = true) (hi : i < n) :
    memByte (putNat s w key v n) (key + i) = BitVec.ofNat 8 (v / 256 ^ i) := by
  induction n generalizing s key v i with
  | zero => omega
  | succ n ih =>
    show memByte (putAll (putMasked s w _) w (bytesAt (key + 1) (v / 256) n)) _ = _
    cases i with
    | zero =>
      rw [memByte_putAll_other _ _ _ _ (putMasked_wf _ _ _ h) (fun b hb => by have := key_of_mem_bytesAt hb; omega)]
      have := memByte_putMasked_same s w { key := key, mask := 0xFF, val := BitVec.ofNat 8 v } h
      have all : ∀ x : BitVec 8, x &&& 255#8 = x := by decide
      simpa [all] using this
    | succ i =>
      have h1 := ih (putMasked s w { key := key, mask := 0xFF, val := BitVec.ofNat 8 v }) (key + 1) (v / 256) i
        (putMasked_wf _ _ _ h) (by omega)
      have e : key + (i + 1) = key + 1 + i := by omega
      rw [e, Nat.pow_succ, Nat.mul_comm, ← Nat.div_div_eq_div_mul]
      exact h1

/-- A number written is read back. -/
theorem memNat_putNat (s : State) (w key v n : Nat) (h : s.mem.wf = true) :
    memNat (putNat s w key v n) key n = v % 256 ^ n := by
  have aux : ∀ m, m ≤ n → memNat (putNat s w key v n) key m = v % 256 ^ m := by
    intro m
    induction m with
    | zero => intro _; simp [memNat, Nat.mod_one]
    | succ m ih =>
      intro hm
      simp only [memNat]
      rw [ih (by omega), memByte_putNat_same s w key v n m h (by omega), Nat.pow_succ, Nat.mod_mul]
      simp [Nat.mul_comm]
  exact aux n (le_refl n)

/-! A write that stands alone: what it leaves poisoned is logged, and memory is as after the bytes. -/

theorem writeAll_mem (s : State) (w : Nat) (bs : List MaskedByte) : (writeAll s w bs).mem = (putAll s w bs).mem := by
  unfold writeAll
  rw [notePartial_mem]

theorem memByte_writeAll (s : State) (w : Nat) (bs : List MaskedByte) (k : Nat) : memByte (writeAll s w bs) k = memByte (putAll s w bs) k := by
  unfold memByte
  rw [writeAll_mem]

/-- Several masked bytes keep the canonical form. -/
theorem writeAll_wf (w : Nat) (bs : List MaskedByte) (s : State) (h : s.mem.wf = true) : (writeAll s w bs).mem.wf = true := by
  rw [writeAll_mem]
  exact putAll_wf w bs s h

/-- The bytes of a number keep the canonical form. -/
theorem writeNat_wf (s : State) (w key v n : Nat) (h : s.mem.wf = true) : (writeNat s w key v n).mem.wf = true := writeAll_wf w _ s h

/-- Several masked bytes leave every byte alone that none of them names. -/
theorem memByte_writeAll_other (w : Nat) (bs : List MaskedByte) (s : State) (k : Nat) (h : s.mem.wf = true)
    (hk : ∀ b ∈ bs, k ≠ b.key) : memByte (writeAll s w bs) k = memByte s k :=
  (memByte_writeAll s w bs k).trans (memByte_putAll_other w bs s k h hk)

/-- A number written leaves every byte outside it alone. -/
theorem memByte_writeNat_other (s : State) (w key v n k : Nat) (h : s.mem.wf = true) (hk : k < key ∨ key + n ≤ k) :
    memByte (writeNat s w key v n) k = memByte s k :=
  (memByte_writeAll s w _ k).trans (memByte_putNat_other s w key v n k h hk)

/-- A number written is read back. -/
theorem memNat_writeNat (s : State) (w key v n : Nat) (h : s.mem.wf = true) :
    memNat (writeNat s w key v n) key n = v % 256 ^ n := by
  have e : ∀ m, memNat (writeNat s w key v n) key m = memNat (putNat s w key v n) key m := by
    intro m
    induction m with
    | zero => rfl
    | succ m ih => simp only [memNat, ih]; rw [writeNat, memByte_writeAll]; rfl
  rw [e, memNat_putNat s w key v n h]

end Sys2Proof.Machine
end

