-- ==== Sys2Proof/Laws/State.lean ====
section
/-! SUPPORT. What an update of the state or of a hart does to each field: the updates of the named operations leave every other field alone. -/

namespace Sys2Proof.Machine

/-! putHart. -/

@[simp] theorem putHart_harts (s : State) (h : Nat) (x : Hart) : (putHart s h x).harts = smPut s.harts h x := rfl
@[simp] theorem putHart_cores (s : State) (h : Nat) (x : Hart) : (putHart s h x).cores = s.cores := rfl
@[simp] theorem putHart_clusters (s : State) (h : Nat) (x : Hart) : (putHart s h x).clusters = s.clusters := rfl
@[simp] theorem putHart_cur (s : State) (h : Nat) (x : Hart) : (putHart s h x).cur = s.cur := rfl
@[simp] theorem putHart_mem (s : State) (h : Nat) (x : Hart) : (putHart s h x).mem = s.mem := rfl
@[simp] theorem putHart_poison (s : State) (h : Nat) (x : Hart) : (putHart s h x).poison = s.poison := rfl
@[simp] theorem putHart_caches (s : State) (h : Nat) (x : Hart) : (putHart s h x).caches = s.caches := rfl
@[simp] theorem putHart_hotidle (s : State) (h : Nat) (x : Hart) : (putHart s h x).hotidle = s.hotidle := rfl
@[simp] theorem putHart_time (s : State) (h : Nat) (x : Hart) : (putHart s h x).time = s.time := rfl
@[simp] theorem putHart_nests (s : State) (h : Nat) (x : Hart) : (putHart s h x).nests = s.nests := rfl
@[simp] theorem putHart_walkers (s : State) (h : Nat) (x : Hart) : (putHart s h x).walkers = s.walkers := rfl
@[simp] theorem putHart_lastWalker (s : State) (h : Nat) (x : Hart) : (putHart s h x).lastWalker = s.lastWalker := rfl
@[simp] theorem putHart_saved (s : State) (h : Nat) (x : Hart) : (putHart s h x).saved = s.saved := rfl
@[simp] theorem putHart_groups (s : State) (h : Nat) (x : Hart) : (putHart s h x).groups = s.groups := rfl
@[simp] theorem putHart_owed (s : State) (h : Nat) (x : Hart) : (putHart s h x).owed = s.owed := rfl
@[simp] theorem putHart_xctx (s : State) (h : Nat) (x : Hart) : (putHart s h x).xctx = s.xctx := rfl
@[simp] theorem putHart_xgather (s : State) (h : Nat) (x : Hart) : (putHart s h x).xgather = s.xgather := rfl
@[simp] theorem putHart_lens (s : State) (h : Nat) (x : Hart) : (putHart s h x).lens = s.lens := rfl
@[simp] theorem putHart_qgather (s : State) (h : Nat) (x : Hart) : (putHart s h x).qgather = s.qgather := rfl
@[simp] theorem putHart_opened (s : State) (h : Nat) (x : Hart) : (putHart s h x).opened = s.opened := rfl
@[simp] theorem putHart_span (s : State) (h : Nat) (x : Hart) : (putHart s h x).span = s.span := rfl
@[simp] theorem putHart_hostmode (s : State) (h : Nat) (x : Hart) : (putHart s h x).hostmode = s.hostmode := rfl
@[simp] theorem putHart_mbox (s : State) (h : Nat) (x : Hart) : (putHart s h x).mbox = s.mbox := rfl
@[simp] theorem putHart_events (s : State) (h : Nat) (x : Hart) : (putHart s h x).events = s.events := rfl
@[simp] theorem putHart_msix (s : State) (h : Nat) (x : Hart) : (putHart s h x).msix = s.msix := rfl
@[simp] theorem putHart_barRead (s : State) (h : Nat) (x : Hart) : (putHart s h x).barRead = s.barRead := rfl
@[simp] theorem putHart_ats (s : State) (h : Nat) (x : Hart) : (putHart s h x).ats = s.ats := rfl
@[simp] theorem putHart_rights (s : State) (h : Nat) (x : Hart) : (putHart s h x).rights = s.rights := rfl
@[simp] theorem putHart_ports (s : State) (h : Nat) (x : Hart) : (putHart s h x).ports = s.ports := rfl
@[simp] theorem putHart_keeper (s : State) (h : Nat) (x : Hart) : (putHart s h x).keeper = s.keeper := rfl
@[simp] theorem putHart_boot (s : State) (h : Nat) (x : Hart) : (putHart s h x).boot = s.boot := rfl
@[simp] theorem putHart_buoys (s : State) (h : Nat) (x : Hart) : (putHart s h x).buoys = s.buoys := rfl
@[simp] theorem putHart_tokens (s : State) (h : Nat) (x : Hart) : (putHart s h x).tokens = s.tokens := rfl
@[simp] theorem putHart_agenda (s : State) (h : Nat) (x : Hart) : (putHart s h x).agenda = s.agenda := rfl
@[simp] theorem putHart_turns (s : State) (h : Nat) (x : Hart) : (putHart s h x).turns = s.turns := rfl
@[simp] theorem putHart_ready (s : State) (h : Nat) (x : Hart) : (putHart s h x).ready = s.ready := rfl
@[simp] theorem putHart_relaxed (s : State) (h : Nat) (x : Hart) : (putHart s h x).relaxed = s.relaxed := rfl
@[simp] theorem putHart_nextCtx (s : State) (h : Nat) (x : Hart) : (putHart s h x).nextCtx = s.nextCtx := rfl
@[simp] theorem putHart_steps (s : State) (h : Nat) (x : Hart) : (putHart s h x).steps = s.steps := rfl

/-! putCore. -/

@[simp] theorem putCore_harts (s : State) (c : Nat) (x : Core) : (putCore s c x).harts = s.harts := rfl
@[simp] theorem putCore_cores (s : State) (c : Nat) (x : Core) : (putCore s c x).cores = smPut s.cores c x := rfl
@[simp] theorem putCore_clusters (s : State) (c : Nat) (x : Core) : (putCore s c x).clusters = s.clusters := rfl
@[simp] theorem putCore_cur (s : State) (c : Nat) (x : Core) : (putCore s c x).cur = s.cur := rfl
@[simp] theorem putCore_mem (s : State) (c : Nat) (x : Core) : (putCore s c x).mem = s.mem := rfl
@[simp] theorem putCore_poison (s : State) (c : Nat) (x : Core) : (putCore s c x).poison = s.poison := rfl
@[simp] theorem putCore_caches (s : State) (c : Nat) (x : Core) : (putCore s c x).caches = s.caches := rfl
@[simp] theorem putCore_hotidle (s : State) (c : Nat) (x : Core) : (putCore s c x).hotidle = s.hotidle := rfl
@[simp] theorem putCore_time (s : State) (c : Nat) (x : Core) : (putCore s c x).time = s.time := rfl
@[simp] theorem putCore_nests (s : State) (c : Nat) (x : Core) : (putCore s c x).nests = s.nests := rfl
@[simp] theorem putCore_walkers (s : State) (c : Nat) (x : Core) : (putCore s c x).walkers = s.walkers := rfl
@[simp] theorem putCore_lastWalker (s : State) (c : Nat) (x : Core) : (putCore s c x).lastWalker = s.lastWalker := rfl
@[simp] theorem putCore_saved (s : State) (c : Nat) (x : Core) : (putCore s c x).saved = s.saved := rfl
@[simp] theorem putCore_groups (s : State) (c : Nat) (x : Core) : (putCore s c x).groups = s.groups := rfl
@[simp] theorem putCore_owed (s : State) (c : Nat) (x : Core) : (putCore s c x).owed = s.owed := rfl
@[simp] theorem putCore_xctx (s : State) (c : Nat) (x : Core) : (putCore s c x).xctx = s.xctx := rfl
@[simp] theorem putCore_xgather (s : State) (c : Nat) (x : Core) : (putCore s c x).xgather = s.xgather := rfl
@[simp] theorem putCore_lens (s : State) (c : Nat) (x : Core) : (putCore s c x).lens = s.lens := rfl
@[simp] theorem putCore_qgather (s : State) (c : Nat) (x : Core) : (putCore s c x).qgather = s.qgather := rfl
@[simp] theorem putCore_opened (s : State) (c : Nat) (x : Core) : (putCore s c x).opened = s.opened := rfl
@[simp] theorem putCore_span (s : State) (c : Nat) (x : Core) : (putCore s c x).span = s.span := rfl
@[simp] theorem putCore_hostmode (s : State) (c : Nat) (x : Core) : (putCore s c x).hostmode = s.hostmode := rfl
@[simp] theorem putCore_mbox (s : State) (c : Nat) (x : Core) : (putCore s c x).mbox = s.mbox := rfl
@[simp] theorem putCore_events (s : State) (c : Nat) (x : Core) : (putCore s c x).events = s.events := rfl
@[simp] theorem putCore_msix (s : State) (c : Nat) (x : Core) : (putCore s c x).msix = s.msix := rfl
@[simp] theorem putCore_barRead (s : State) (c : Nat) (x : Core) : (putCore s c x).barRead = s.barRead := rfl
@[simp] theorem putCore_ats (s : State) (c : Nat) (x : Core) : (putCore s c x).ats = s.ats := rfl
@[simp] theorem putCore_rights (s : State) (c : Nat) (x : Core) : (putCore s c x).rights = s.rights := rfl
@[simp] theorem putCore_ports (s : State) (c : Nat) (x : Core) : (putCore s c x).ports = s.ports := rfl
@[simp] theorem putCore_keeper (s : State) (c : Nat) (x : Core) : (putCore s c x).keeper = s.keeper := rfl
@[simp] theorem putCore_boot (s : State) (c : Nat) (x : Core) : (putCore s c x).boot = s.boot := rfl
@[simp] theorem putCore_buoys (s : State) (c : Nat) (x : Core) : (putCore s c x).buoys = s.buoys := rfl
@[simp] theorem putCore_tokens (s : State) (c : Nat) (x : Core) : (putCore s c x).tokens = s.tokens := rfl
@[simp] theorem putCore_agenda (s : State) (c : Nat) (x : Core) : (putCore s c x).agenda = s.agenda := rfl
@[simp] theorem putCore_turns (s : State) (c : Nat) (x : Core) : (putCore s c x).turns = s.turns := rfl
@[simp] theorem putCore_ready (s : State) (c : Nat) (x : Core) : (putCore s c x).ready = s.ready := rfl
@[simp] theorem putCore_relaxed (s : State) (c : Nat) (x : Core) : (putCore s c x).relaxed = s.relaxed := rfl
@[simp] theorem putCore_nextCtx (s : State) (c : Nat) (x : Core) : (putCore s c x).nextCtx = s.nextCtx := rfl
@[simp] theorem putCore_steps (s : State) (c : Nat) (x : Core) : (putCore s c x).steps = s.steps := rfl

/-! putCluster. -/

@[simp] theorem putCluster_harts (s : State) (c : Nat) (x : Cluster) : (putCluster s c x).harts = s.harts := rfl
@[simp] theorem putCluster_cores (s : State) (c : Nat) (x : Cluster) : (putCluster s c x).cores = s.cores := rfl
@[simp] theorem putCluster_clusters (s : State) (c : Nat) (x : Cluster) : (putCluster s c x).clusters = smPut s.clusters c x := rfl
@[simp] theorem putCluster_cur (s : State) (c : Nat) (x : Cluster) : (putCluster s c x).cur = s.cur := rfl
@[simp] theorem putCluster_mem (s : State) (c : Nat) (x : Cluster) : (putCluster s c x).mem = s.mem := rfl
@[simp] theorem putCluster_poison (s : State) (c : Nat) (x : Cluster) : (putCluster s c x).poison = s.poison := rfl
@[simp] theorem putCluster_caches (s : State) (c : Nat) (x : Cluster) : (putCluster s c x).caches = s.caches := rfl
@[simp] theorem putCluster_hotidle (s : State) (c : Nat) (x : Cluster) : (putCluster s c x).hotidle = s.hotidle := rfl
@[simp] theorem putCluster_time (s : State) (c : Nat) (x : Cluster) : (putCluster s c x).time = s.time := rfl
@[simp] theorem putCluster_nests (s : State) (c : Nat) (x : Cluster) : (putCluster s c x).nests = s.nests := rfl
@[simp] theorem putCluster_walkers (s : State) (c : Nat) (x : Cluster) : (putCluster s c x).walkers = s.walkers := rfl
@[simp] theorem putCluster_lastWalker (s : State) (c : Nat) (x : Cluster) : (putCluster s c x).lastWalker = s.lastWalker := rfl
@[simp] theorem putCluster_saved (s : State) (c : Nat) (x : Cluster) : (putCluster s c x).saved = s.saved := rfl
@[simp] theorem putCluster_groups (s : State) (c : Nat) (x : Cluster) : (putCluster s c x).groups = s.groups := rfl
@[simp] theorem putCluster_owed (s : State) (c : Nat) (x : Cluster) : (putCluster s c x).owed = s.owed := rfl
@[simp] theorem putCluster_xctx (s : State) (c : Nat) (x : Cluster) : (putCluster s c x).xctx = s.xctx := rfl
@[simp] theorem putCluster_xgather (s : State) (c : Nat) (x : Cluster) : (putCluster s c x).xgather = s.xgather := rfl
@[simp] theorem putCluster_lens (s : State) (c : Nat) (x : Cluster) : (putCluster s c x).lens = s.lens := rfl
@[simp] theorem putCluster_qgather (s : State) (c : Nat) (x : Cluster) : (putCluster s c x).qgather = s.qgather := rfl
@[simp] theorem putCluster_opened (s : State) (c : Nat) (x : Cluster) : (putCluster s c x).opened = s.opened := rfl
@[simp] theorem putCluster_span (s : State) (c : Nat) (x : Cluster) : (putCluster s c x).span = s.span := rfl
@[simp] theorem putCluster_hostmode (s : State) (c : Nat) (x : Cluster) : (putCluster s c x).hostmode = s.hostmode := rfl
@[simp] theorem putCluster_mbox (s : State) (c : Nat) (x : Cluster) : (putCluster s c x).mbox = s.mbox := rfl
@[simp] theorem putCluster_events (s : State) (c : Nat) (x : Cluster) : (putCluster s c x).events = s.events := rfl
@[simp] theorem putCluster_msix (s : State) (c : Nat) (x : Cluster) : (putCluster s c x).msix = s.msix := rfl
@[simp] theorem putCluster_barRead (s : State) (c : Nat) (x : Cluster) : (putCluster s c x).barRead = s.barRead := rfl
@[simp] theorem putCluster_ats (s : State) (c : Nat) (x : Cluster) : (putCluster s c x).ats = s.ats := rfl
@[simp] theorem putCluster_rights (s : State) (c : Nat) (x : Cluster) : (putCluster s c x).rights = s.rights := rfl
@[simp] theorem putCluster_ports (s : State) (c : Nat) (x : Cluster) : (putCluster s c x).ports = s.ports := rfl
@[simp] theorem putCluster_keeper (s : State) (c : Nat) (x : Cluster) : (putCluster s c x).keeper = s.keeper := rfl
@[simp] theorem putCluster_boot (s : State) (c : Nat) (x : Cluster) : (putCluster s c x).boot = s.boot := rfl
@[simp] theorem putCluster_buoys (s : State) (c : Nat) (x : Cluster) : (putCluster s c x).buoys = s.buoys := rfl
@[simp] theorem putCluster_tokens (s : State) (c : Nat) (x : Cluster) : (putCluster s c x).tokens = s.tokens := rfl
@[simp] theorem putCluster_agenda (s : State) (c : Nat) (x : Cluster) : (putCluster s c x).agenda = s.agenda := rfl
@[simp] theorem putCluster_turns (s : State) (c : Nat) (x : Cluster) : (putCluster s c x).turns = s.turns := rfl
@[simp] theorem putCluster_ready (s : State) (c : Nat) (x : Cluster) : (putCluster s c x).ready = s.ready := rfl
@[simp] theorem putCluster_relaxed (s : State) (c : Nat) (x : Cluster) : (putCluster s c x).relaxed = s.relaxed := rfl
@[simp] theorem putCluster_nextCtx (s : State) (c : Nat) (x : Cluster) : (putCluster s c x).nextCtx = s.nextCtx := rfl
@[simp] theorem putCluster_steps (s : State) (c : Nat) (x : Cluster) : (putCluster s c x).steps = s.steps := rfl

/-! putPort. -/

@[simp] theorem putPort_harts (s : State) (q : Nat) (p : Port) : (putPort s q p).harts = s.harts := rfl
@[simp] theorem putPort_cores (s : State) (q : Nat) (p : Port) : (putPort s q p).cores = s.cores := rfl
@[simp] theorem putPort_clusters (s : State) (q : Nat) (p : Port) : (putPort s q p).clusters = s.clusters := rfl
@[simp] theorem putPort_cur (s : State) (q : Nat) (p : Port) : (putPort s q p).cur = s.cur := rfl
@[simp] theorem putPort_mem (s : State) (q : Nat) (p : Port) : (putPort s q p).mem = s.mem := rfl
@[simp] theorem putPort_poison (s : State) (q : Nat) (p : Port) : (putPort s q p).poison = s.poison := rfl
@[simp] theorem putPort_caches (s : State) (q : Nat) (p : Port) : (putPort s q p).caches = s.caches := rfl
@[simp] theorem putPort_hotidle (s : State) (q : Nat) (p : Port) : (putPort s q p).hotidle = s.hotidle := rfl
@[simp] theorem putPort_time (s : State) (q : Nat) (p : Port) : (putPort s q p).time = s.time := rfl
@[simp] theorem putPort_nests (s : State) (q : Nat) (p : Port) : (putPort s q p).nests = s.nests := rfl
@[simp] theorem putPort_walkers (s : State) (q : Nat) (p : Port) : (putPort s q p).walkers = s.walkers := rfl
@[simp] theorem putPort_lastWalker (s : State) (q : Nat) (p : Port) : (putPort s q p).lastWalker = s.lastWalker := rfl
@[simp] theorem putPort_saved (s : State) (q : Nat) (p : Port) : (putPort s q p).saved = s.saved := rfl
@[simp] theorem putPort_groups (s : State) (q : Nat) (p : Port) : (putPort s q p).groups = s.groups := rfl
@[simp] theorem putPort_owed (s : State) (q : Nat) (p : Port) : (putPort s q p).owed = s.owed := rfl
@[simp] theorem putPort_xctx (s : State) (q : Nat) (p : Port) : (putPort s q p).xctx = s.xctx := rfl
@[simp] theorem putPort_xgather (s : State) (q : Nat) (p : Port) : (putPort s q p).xgather = s.xgather := rfl
@[simp] theorem putPort_lens (s : State) (q : Nat) (p : Port) : (putPort s q p).lens = s.lens := rfl
@[simp] theorem putPort_qgather (s : State) (q : Nat) (p : Port) : (putPort s q p).qgather = s.qgather := rfl
@[simp] theorem putPort_opened (s : State) (q : Nat) (p : Port) : (putPort s q p).opened = s.opened := rfl
@[simp] theorem putPort_span (s : State) (q : Nat) (p : Port) : (putPort s q p).span = s.span := rfl
@[simp] theorem putPort_hostmode (s : State) (q : Nat) (p : Port) : (putPort s q p).hostmode = s.hostmode := rfl
@[simp] theorem putPort_mbox (s : State) (q : Nat) (p : Port) : (putPort s q p).mbox = s.mbox := rfl
@[simp] theorem putPort_events (s : State) (q : Nat) (p : Port) : (putPort s q p).events = s.events := rfl
@[simp] theorem putPort_msix (s : State) (q : Nat) (p : Port) : (putPort s q p).msix = s.msix := rfl
@[simp] theorem putPort_barRead (s : State) (q : Nat) (p : Port) : (putPort s q p).barRead = s.barRead := rfl
@[simp] theorem putPort_ats (s : State) (q : Nat) (p : Port) : (putPort s q p).ats = s.ats := rfl
@[simp] theorem putPort_rights (s : State) (q : Nat) (p : Port) : (putPort s q p).rights = s.rights := rfl
@[simp] theorem putPort_ports (s : State) (q : Nat) (p : Port) : (putPort s q p).ports = smPut s.ports q p := rfl
@[simp] theorem putPort_keeper (s : State) (q : Nat) (p : Port) : (putPort s q p).keeper = s.keeper := rfl
@[simp] theorem putPort_boot (s : State) (q : Nat) (p : Port) : (putPort s q p).boot = s.boot := rfl
@[simp] theorem putPort_buoys (s : State) (q : Nat) (p : Port) : (putPort s q p).buoys = s.buoys := rfl
@[simp] theorem putPort_tokens (s : State) (q : Nat) (p : Port) : (putPort s q p).tokens = s.tokens := rfl
@[simp] theorem putPort_agenda (s : State) (q : Nat) (p : Port) : (putPort s q p).agenda = s.agenda := rfl
@[simp] theorem putPort_turns (s : State) (q : Nat) (p : Port) : (putPort s q p).turns = s.turns := rfl
@[simp] theorem putPort_ready (s : State) (q : Nat) (p : Port) : (putPort s q p).ready = s.ready := rfl
@[simp] theorem putPort_relaxed (s : State) (q : Nat) (p : Port) : (putPort s q p).relaxed = s.relaxed := rfl
@[simp] theorem putPort_nextCtx (s : State) (q : Nat) (p : Port) : (putPort s q p).nextCtx = s.nextCtx := rfl
@[simp] theorem putPort_steps (s : State) (q : Nat) (p : Port) : (putPort s q p).steps = s.steps := rfl

/-! past. -/

@[simp] theorem past_bound (x : Hart) : (x.past).bound = x.bound := rfl
@[simp] theorem past_role (x : Hart) : (x.past).role = x.role := rfl
@[simp] theorem past_ctx (x : Hart) : (x.past).ctx = x.ctx := rfl
@[simp] theorem past_nest (x : Hart) : (x.past).nest = x.nest := rfl
@[simp] theorem past_ordinal (x : Hart) : (x.past).ordinal = x.ordinal := rfl
@[simp] theorem past_handout (x : Hart) : (x.past).handout = x.handout := rfl
@[simp] theorem past_parent (x : Hart) : (x.past).parent = x.parent := rfl
@[simp] theorem past_area (x : Hart) : (x.past).area = x.area := rfl
@[simp] theorem past_famBase (x : Hart) : (x.past).famBase = x.famBase := rfl
@[simp] theorem past_back (x : Hart) : (x.past).back = x.back := rfl
@[simp] theorem past_saveSlot (x : Hart) : (x.past).saveSlot = x.saveSlot := rfl
@[simp] theorem past_gpr (x : Hart) : (x.past).gpr = x.gpr := rfl
@[simp] theorem past_mask (x : Hart) : (x.past).mask = x.mask := rfl
@[simp] theorem past_shape (x : Hart) : (x.past).shape = x.shape := rfl
@[simp] theorem past_vreg (x : Hart) : (x.past).vreg = x.vreg := rfl
@[simp] theorem past_vlines (x : Hart) : (x.past).vlines = x.vlines := rfl
@[simp] theorem past_acc (x : Hart) : (x.past).acc = x.acc := rfl
@[simp] theorem past_accWf (x : Hart) : (x.past).accWf = x.accWf := rfl
@[simp] theorem past_csr (x : Hart) : (x.past).csr = x.csr := rfl
@[simp] theorem past_strip (x : Hart) : (x.past).strip = x.strip := rfl
@[simp] theorem past_viq (x : Hart) : (x.past).viq = x.viq := rfl
@[simp] theorem past_held (x : Hart) : (x.past).held = x.held := rfl
@[simp] theorem past_vseq (x : Hart) : (x.past).vseq = x.vseq := rfl
@[simp] theorem past_sync (x : Hart) : (x.past).sync = x.sync := rfl
@[simp] theorem past_storeQ (x : Hart) : (x.past).storeQ = x.storeQ := rfl
@[simp] theorem past_streams (x : Hart) : (x.past).streams = x.streams := rfl
@[simp] theorem past_eng (x : Hart) : (x.past).eng = x.eng := rfl
@[simp] theorem past_pending (x : Hart) : (x.past).pending = x.pending := rfl
@[simp] theorem past_lostAtoms (x : Hart) : (x.past).lostAtoms = x.lostAtoms := rfl
@[simp] theorem past_wait (x : Hart) : (x.past).wait = x.wait := rfl
@[simp] theorem past_kids (x : Hart) : (x.past).kids = x.kids := rfl
@[simp] theorem past_request (x : Hart) : (x.past).request = x.request := rfl
@[simp] theorem past_halted (x : Hart) : (x.past).halted = x.halted := rfl
@[simp] theorem past_colMoves (x : Hart) : (x.past).colMoves = x.colMoves := rfl
@[simp] theorem past_lastIssue (x : Hart) : (x.past).lastIssue = x.lastIssue := rfl

@[simp] theorem past_pc (x : Hart) : x.past.pc = x.pc + 4 := rfl

/-! setS. -/

@[simp] theorem setS_bound (x : Hart) (r : BitVec 5) (v : Word) : (x.setS r v).bound = x.bound := by unfold Hart.setS; split <;> rfl
@[simp] theorem setS_role (x : Hart) (r : BitVec 5) (v : Word) : (x.setS r v).role = x.role := by unfold Hart.setS; split <;> rfl
@[simp] theorem setS_ctx (x : Hart) (r : BitVec 5) (v : Word) : (x.setS r v).ctx = x.ctx := by unfold Hart.setS; split <;> rfl
@[simp] theorem setS_nest (x : Hart) (r : BitVec 5) (v : Word) : (x.setS r v).nest = x.nest := by unfold Hart.setS; split <;> rfl
@[simp] theorem setS_ordinal (x : Hart) (r : BitVec 5) (v : Word) : (x.setS r v).ordinal = x.ordinal := by unfold Hart.setS; split <;> rfl
@[simp] theorem setS_handout (x : Hart) (r : BitVec 5) (v : Word) : (x.setS r v).handout = x.handout := by unfold Hart.setS; split <;> rfl
@[simp] theorem setS_parent (x : Hart) (r : BitVec 5) (v : Word) : (x.setS r v).parent = x.parent := by unfold Hart.setS; split <;> rfl
@[simp] theorem setS_area (x : Hart) (r : BitVec 5) (v : Word) : (x.setS r v).area = x.area := by unfold Hart.setS; split <;> rfl
@[simp] theorem setS_famBase (x : Hart) (r : BitVec 5) (v : Word) : (x.setS r v).famBase = x.famBase := by unfold Hart.setS; split <;> rfl
@[simp] theorem setS_back (x : Hart) (r : BitVec 5) (v : Word) : (x.setS r v).back = x.back := by unfold Hart.setS; split <;> rfl
@[simp] theorem setS_saveSlot (x : Hart) (r : BitVec 5) (v : Word) : (x.setS r v).saveSlot = x.saveSlot := by unfold Hart.setS; split <;> rfl
@[simp] theorem setS_pc (x : Hart) (r : BitVec 5) (v : Word) : (x.setS r v).pc = x.pc := by unfold Hart.setS; split <;> rfl
@[simp] theorem setS_mask (x : Hart) (r : BitVec 5) (v : Word) : (x.setS r v).mask = x.mask := by unfold Hart.setS; split <;> rfl
@[simp] theorem setS_shape (x : Hart) (r : BitVec 5) (v : Word) : (x.setS r v).shape = x.shape := by unfold Hart.setS; split <;> rfl
@[simp] theorem setS_vreg (x : Hart) (r : BitVec 5) (v : Word) : (x.setS r v).vreg = x.vreg := by unfold Hart.setS; split <;> rfl
@[simp] theorem setS_vlines (x : Hart) (r : BitVec 5) (v : Word) : (x.setS r v).vlines = x.vlines := by unfold Hart.setS; split <;> rfl
@[simp] theorem setS_acc (x : Hart) (r : BitVec 5) (v : Word) : (x.setS r v).acc = x.acc := by unfold Hart.setS; split <;> rfl
@[simp] theorem setS_accWf (x : Hart) (r : BitVec 5) (v : Word) : (x.setS r v).accWf = x.accWf := by unfold Hart.setS; split <;> rfl
@[simp] theorem setS_csr (x : Hart) (r : BitVec 5) (v : Word) : (x.setS r v).csr = x.csr := by unfold Hart.setS; split <;> rfl
@[simp] theorem setS_strip (x : Hart) (r : BitVec 5) (v : Word) : (x.setS r v).strip = x.strip := by unfold Hart.setS; split <;> rfl
@[simp] theorem setS_viq (x : Hart) (r : BitVec 5) (v : Word) : (x.setS r v).viq = x.viq := by unfold Hart.setS; split <;> rfl
@[simp] theorem setS_held (x : Hart) (r : BitVec 5) (v : Word) : (x.setS r v).held = x.held := by unfold Hart.setS; split <;> rfl
@[simp] theorem setS_vseq (x : Hart) (r : BitVec 5) (v : Word) : (x.setS r v).vseq = x.vseq := by unfold Hart.setS; split <;> rfl
@[simp] theorem setS_sync (x : Hart) (r : BitVec 5) (v : Word) : (x.setS r v).sync = x.sync := by unfold Hart.setS; split <;> rfl
@[simp] theorem setS_storeQ (x : Hart) (r : BitVec 5) (v : Word) : (x.setS r v).storeQ = x.storeQ := by unfold Hart.setS; split <;> rfl
@[simp] theorem setS_streams (x : Hart) (r : BitVec 5) (v : Word) : (x.setS r v).streams = x.streams := by unfold Hart.setS; split <;> rfl
@[simp] theorem setS_eng (x : Hart) (r : BitVec 5) (v : Word) : (x.setS r v).eng = x.eng := by unfold Hart.setS; split <;> rfl
@[simp] theorem setS_pending (x : Hart) (r : BitVec 5) (v : Word) : (x.setS r v).pending = x.pending := by unfold Hart.setS; split <;> rfl
@[simp] theorem setS_lostAtoms (x : Hart) (r : BitVec 5) (v : Word) : (x.setS r v).lostAtoms = x.lostAtoms := by unfold Hart.setS; split <;> rfl
@[simp] theorem setS_wait (x : Hart) (r : BitVec 5) (v : Word) : (x.setS r v).wait = x.wait := by unfold Hart.setS; split <;> rfl
@[simp] theorem setS_kids (x : Hart) (r : BitVec 5) (v : Word) : (x.setS r v).kids = x.kids := by unfold Hart.setS; split <;> rfl
@[simp] theorem setS_request (x : Hart) (r : BitVec 5) (v : Word) : (x.setS r v).request = x.request := by unfold Hart.setS; split <;> rfl
@[simp] theorem setS_halted (x : Hart) (r : BitVec 5) (v : Word) : (x.setS r v).halted = x.halted := by unfold Hart.setS; split <;> rfl
@[simp] theorem setS_colMoves (x : Hart) (r : BitVec 5) (v : Word) : (x.setS r v).colMoves = x.colMoves := by unfold Hart.setS; split <;> rfl
@[simp] theorem setS_lastIssue (x : Hart) (r : BitVec 5) (v : Word) : (x.setS r v).lastIssue = x.lastIssue := by unfold Hart.setS; split <;> rfl

/-! setM. -/

@[simp] theorem setM_bound (x : Hart) (m : Nat) (v : BitVec 512) : (x.setM m v).bound = x.bound := by unfold Hart.setM; split <;> rfl
@[simp] theorem setM_role (x : Hart) (m : Nat) (v : BitVec 512) : (x.setM m v).role = x.role := by unfold Hart.setM; split <;> rfl
@[simp] theorem setM_ctx (x : Hart) (m : Nat) (v : BitVec 512) : (x.setM m v).ctx = x.ctx := by unfold Hart.setM; split <;> rfl
@[simp] theorem setM_nest (x : Hart) (m : Nat) (v : BitVec 512) : (x.setM m v).nest = x.nest := by unfold Hart.setM; split <;> rfl
@[simp] theorem setM_ordinal (x : Hart) (m : Nat) (v : BitVec 512) : (x.setM m v).ordinal = x.ordinal := by unfold Hart.setM; split <;> rfl
@[simp] theorem setM_handout (x : Hart) (m : Nat) (v : BitVec 512) : (x.setM m v).handout = x.handout := by unfold Hart.setM; split <;> rfl
@[simp] theorem setM_parent (x : Hart) (m : Nat) (v : BitVec 512) : (x.setM m v).parent = x.parent := by unfold Hart.setM; split <;> rfl
@[simp] theorem setM_area (x : Hart) (m : Nat) (v : BitVec 512) : (x.setM m v).area = x.area := by unfold Hart.setM; split <;> rfl
@[simp] theorem setM_famBase (x : Hart) (m : Nat) (v : BitVec 512) : (x.setM m v).famBase = x.famBase := by unfold Hart.setM; split <;> rfl
@[simp] theorem setM_back (x : Hart) (m : Nat) (v : BitVec 512) : (x.setM m v).back = x.back := by unfold Hart.setM; split <;> rfl
@[simp] theorem setM_saveSlot (x : Hart) (m : Nat) (v : BitVec 512) : (x.setM m v).saveSlot = x.saveSlot := by unfold Hart.setM; split <;> rfl
@[simp] theorem setM_gpr (x : Hart) (m : Nat) (v : BitVec 512) : (x.setM m v).gpr = x.gpr := by unfold Hart.setM; split <;> rfl
@[simp] theorem setM_pc (x : Hart) (m : Nat) (v : BitVec 512) : (x.setM m v).pc = x.pc := by unfold Hart.setM; split <;> rfl
@[simp] theorem setM_shape (x : Hart) (m : Nat) (v : BitVec 512) : (x.setM m v).shape = x.shape := by unfold Hart.setM; split <;> rfl
@[simp] theorem setM_vreg (x : Hart) (m : Nat) (v : BitVec 512) : (x.setM m v).vreg = x.vreg := by unfold Hart.setM; split <;> rfl
@[simp] theorem setM_vlines (x : Hart) (m : Nat) (v : BitVec 512) : (x.setM m v).vlines = x.vlines := by unfold Hart.setM; split <;> rfl
@[simp] theorem setM_acc (x : Hart) (m : Nat) (v : BitVec 512) : (x.setM m v).acc = x.acc := by unfold Hart.setM; split <;> rfl
@[simp] theorem setM_accWf (x : Hart) (m : Nat) (v : BitVec 512) : (x.setM m v).accWf = x.accWf := by unfold Hart.setM; split <;> rfl
@[simp] theorem setM_csr (x : Hart) (m : Nat) (v : BitVec 512) : (x.setM m v).csr = x.csr := by unfold Hart.setM; split <;> rfl
@[simp] theorem setM_strip (x : Hart) (m : Nat) (v : BitVec 512) : (x.setM m v).strip = x.strip := by unfold Hart.setM; split <;> rfl
@[simp] theorem setM_viq (x : Hart) (m : Nat) (v : BitVec 512) : (x.setM m v).viq = x.viq := by unfold Hart.setM; split <;> rfl
@[simp] theorem setM_held (x : Hart) (m : Nat) (v : BitVec 512) : (x.setM m v).held = x.held := by unfold Hart.setM; split <;> rfl
@[simp] theorem setM_vseq (x : Hart) (m : Nat) (v : BitVec 512) : (x.setM m v).vseq = x.vseq := by unfold Hart.setM; split <;> rfl
@[simp] theorem setM_sync (x : Hart) (m : Nat) (v : BitVec 512) : (x.setM m v).sync = x.sync := by unfold Hart.setM; split <;> rfl
@[simp] theorem setM_storeQ (x : Hart) (m : Nat) (v : BitVec 512) : (x.setM m v).storeQ = x.storeQ := by unfold Hart.setM; split <;> rfl
@[simp] theorem setM_streams (x : Hart) (m : Nat) (v : BitVec 512) : (x.setM m v).streams = x.streams := by unfold Hart.setM; split <;> rfl
@[simp] theorem setM_eng (x : Hart) (m : Nat) (v : BitVec 512) : (x.setM m v).eng = x.eng := by unfold Hart.setM; split <;> rfl
@[simp] theorem setM_pending (x : Hart) (m : Nat) (v : BitVec 512) : (x.setM m v).pending = x.pending := by unfold Hart.setM; split <;> rfl
@[simp] theorem setM_lostAtoms (x : Hart) (m : Nat) (v : BitVec 512) : (x.setM m v).lostAtoms = x.lostAtoms := by unfold Hart.setM; split <;> rfl
@[simp] theorem setM_wait (x : Hart) (m : Nat) (v : BitVec 512) : (x.setM m v).wait = x.wait := by unfold Hart.setM; split <;> rfl
@[simp] theorem setM_kids (x : Hart) (m : Nat) (v : BitVec 512) : (x.setM m v).kids = x.kids := by unfold Hart.setM; split <;> rfl
@[simp] theorem setM_request (x : Hart) (m : Nat) (v : BitVec 512) : (x.setM m v).request = x.request := by unfold Hart.setM; split <;> rfl
@[simp] theorem setM_halted (x : Hart) (m : Nat) (v : BitVec 512) : (x.setM m v).halted = x.halted := by unfold Hart.setM; split <;> rfl
@[simp] theorem setM_colMoves (x : Hart) (m : Nat) (v : BitVec 512) : (x.setM m v).colMoves = x.colMoves := by unfold Hart.setM; split <;> rfl
@[simp] theorem setM_lastIssue (x : Hart) (m : Nat) (v : BitVec 512) : (x.setM m v).lastIssue = x.lastIssue := by unfold Hart.setM; split <;> rfl

/-! setSh. -/

@[simp] theorem setSh_bound (x : Hart) (n : Nat) (v : Word) : (x.setSh n v).bound = x.bound := rfl
@[simp] theorem setSh_role (x : Hart) (n : Nat) (v : Word) : (x.setSh n v).role = x.role := rfl
@[simp] theorem setSh_ctx (x : Hart) (n : Nat) (v : Word) : (x.setSh n v).ctx = x.ctx := rfl
@[simp] theorem setSh_nest (x : Hart) (n : Nat) (v : Word) : (x.setSh n v).nest = x.nest := rfl
@[simp] theorem setSh_ordinal (x : Hart) (n : Nat) (v : Word) : (x.setSh n v).ordinal = x.ordinal := rfl
@[simp] theorem setSh_handout (x : Hart) (n : Nat) (v : Word) : (x.setSh n v).handout = x.handout := rfl
@[simp] theorem setSh_parent (x : Hart) (n : Nat) (v : Word) : (x.setSh n v).parent = x.parent := rfl
@[simp] theorem setSh_area (x : Hart) (n : Nat) (v : Word) : (x.setSh n v).area = x.area := rfl
@[simp] theorem setSh_famBase (x : Hart) (n : Nat) (v : Word) : (x.setSh n v).famBase = x.famBase := rfl
@[simp] theorem setSh_back (x : Hart) (n : Nat) (v : Word) : (x.setSh n v).back = x.back := rfl
@[simp] theorem setSh_saveSlot (x : Hart) (n : Nat) (v : Word) : (x.setSh n v).saveSlot = x.saveSlot := rfl
@[simp] theorem setSh_gpr (x : Hart) (n : Nat) (v : Word) : (x.setSh n v).gpr = x.gpr := rfl
@[simp] theorem setSh_pc (x : Hart) (n : Nat) (v : Word) : (x.setSh n v).pc = x.pc := rfl
@[simp] theorem setSh_mask (x : Hart) (n : Nat) (v : Word) : (x.setSh n v).mask = x.mask := rfl
@[simp] theorem setSh_vreg (x : Hart) (n : Nat) (v : Word) : (x.setSh n v).vreg = x.vreg := rfl
@[simp] theorem setSh_vlines (x : Hart) (n : Nat) (v : Word) : (x.setSh n v).vlines = x.vlines := rfl
@[simp] theorem setSh_acc (x : Hart) (n : Nat) (v : Word) : (x.setSh n v).acc = x.acc := rfl
@[simp] theorem setSh_accWf (x : Hart) (n : Nat) (v : Word) : (x.setSh n v).accWf = x.accWf := rfl
@[simp] theorem setSh_csr (x : Hart) (n : Nat) (v : Word) : (x.setSh n v).csr = x.csr := rfl
@[simp] theorem setSh_strip (x : Hart) (n : Nat) (v : Word) : (x.setSh n v).strip = x.strip := rfl
@[simp] theorem setSh_viq (x : Hart) (n : Nat) (v : Word) : (x.setSh n v).viq = x.viq := rfl
@[simp] theorem setSh_held (x : Hart) (n : Nat) (v : Word) : (x.setSh n v).held = x.held := rfl
@[simp] theorem setSh_vseq (x : Hart) (n : Nat) (v : Word) : (x.setSh n v).vseq = x.vseq := rfl
@[simp] theorem setSh_sync (x : Hart) (n : Nat) (v : Word) : (x.setSh n v).sync = x.sync := rfl
@[simp] theorem setSh_storeQ (x : Hart) (n : Nat) (v : Word) : (x.setSh n v).storeQ = x.storeQ := rfl
@[simp] theorem setSh_streams (x : Hart) (n : Nat) (v : Word) : (x.setSh n v).streams = x.streams := rfl
@[simp] theorem setSh_eng (x : Hart) (n : Nat) (v : Word) : (x.setSh n v).eng = x.eng := rfl
@[simp] theorem setSh_pending (x : Hart) (n : Nat) (v : Word) : (x.setSh n v).pending = x.pending := rfl
@[simp] theorem setSh_lostAtoms (x : Hart) (n : Nat) (v : Word) : (x.setSh n v).lostAtoms = x.lostAtoms := rfl
@[simp] theorem setSh_wait (x : Hart) (n : Nat) (v : Word) : (x.setSh n v).wait = x.wait := rfl
@[simp] theorem setSh_kids (x : Hart) (n : Nat) (v : Word) : (x.setSh n v).kids = x.kids := rfl
@[simp] theorem setSh_request (x : Hart) (n : Nat) (v : Word) : (x.setSh n v).request = x.request := rfl
@[simp] theorem setSh_halted (x : Hart) (n : Nat) (v : Word) : (x.setSh n v).halted = x.halted := rfl
@[simp] theorem setSh_colMoves (x : Hart) (n : Nat) (v : Word) : (x.setSh n v).colMoves = x.colMoves := rfl
@[simp] theorem setSh_lastIssue (x : Hart) (n : Nat) (v : Word) : (x.setSh n v).lastIssue = x.lastIssue := rfl

/-! setC. -/

@[simp] theorem setC_bound (x : Hart) (v c : Nat) (b : BitVec 36) : (x.setC v c b).bound = x.bound := rfl
@[simp] theorem setC_role (x : Hart) (v c : Nat) (b : BitVec 36) : (x.setC v c b).role = x.role := rfl
@[simp] theorem setC_ctx (x : Hart) (v c : Nat) (b : BitVec 36) : (x.setC v c b).ctx = x.ctx := rfl
@[simp] theorem setC_nest (x : Hart) (v c : Nat) (b : BitVec 36) : (x.setC v c b).nest = x.nest := rfl
@[simp] theorem setC_ordinal (x : Hart) (v c : Nat) (b : BitVec 36) : (x.setC v c b).ordinal = x.ordinal := rfl
@[simp] theorem setC_handout (x : Hart) (v c : Nat) (b : BitVec 36) : (x.setC v c b).handout = x.handout := rfl
@[simp] theorem setC_parent (x : Hart) (v c : Nat) (b : BitVec 36) : (x.setC v c b).parent = x.parent := rfl
@[simp] theorem setC_area (x : Hart) (v c : Nat) (b : BitVec 36) : (x.setC v c b).area = x.area := rfl
@[simp] theorem setC_famBase (x : Hart) (v c : Nat) (b : BitVec 36) : (x.setC v c b).famBase = x.famBase := rfl
@[simp] theorem setC_back (x : Hart) (v c : Nat) (b : BitVec 36) : (x.setC v c b).back = x.back := rfl
@[simp] theorem setC_saveSlot (x : Hart) (v c : Nat) (b : BitVec 36) : (x.setC v c b).saveSlot = x.saveSlot := rfl
@[simp] theorem setC_gpr (x : Hart) (v c : Nat) (b : BitVec 36) : (x.setC v c b).gpr = x.gpr := rfl
@[simp] theorem setC_pc (x : Hart) (v c : Nat) (b : BitVec 36) : (x.setC v c b).pc = x.pc := rfl
@[simp] theorem setC_mask (x : Hart) (v c : Nat) (b : BitVec 36) : (x.setC v c b).mask = x.mask := rfl
@[simp] theorem setC_shape (x : Hart) (v c : Nat) (b : BitVec 36) : (x.setC v c b).shape = x.shape := rfl
@[simp] theorem setC_vlines (x : Hart) (v c : Nat) (b : BitVec 36) : (x.setC v c b).vlines = x.vlines := rfl
@[simp] theorem setC_acc (x : Hart) (v c : Nat) (b : BitVec 36) : (x.setC v c b).acc = x.acc := rfl
@[simp] theorem setC_accWf (x : Hart) (v c : Nat) (b : BitVec 36) : (x.setC v c b).accWf = x.accWf := rfl
@[simp] theorem setC_csr (x : Hart) (v c : Nat) (b : BitVec 36) : (x.setC v c b).csr = x.csr := rfl
@[simp] theorem setC_strip (x : Hart) (v c : Nat) (b : BitVec 36) : (x.setC v c b).strip = x.strip := rfl
@[simp] theorem setC_viq (x : Hart) (v c : Nat) (b : BitVec 36) : (x.setC v c b).viq = x.viq := rfl
@[simp] theorem setC_held (x : Hart) (v c : Nat) (b : BitVec 36) : (x.setC v c b).held = x.held := rfl
@[simp] theorem setC_vseq (x : Hart) (v c : Nat) (b : BitVec 36) : (x.setC v c b).vseq = x.vseq := rfl
@[simp] theorem setC_sync (x : Hart) (v c : Nat) (b : BitVec 36) : (x.setC v c b).sync = x.sync := rfl
@[simp] theorem setC_storeQ (x : Hart) (v c : Nat) (b : BitVec 36) : (x.setC v c b).storeQ = x.storeQ := rfl
@[simp] theorem setC_streams (x : Hart) (v c : Nat) (b : BitVec 36) : (x.setC v c b).streams = x.streams := rfl
@[simp] theorem setC_eng (x : Hart) (v c : Nat) (b : BitVec 36) : (x.setC v c b).eng = x.eng := rfl
@[simp] theorem setC_pending (x : Hart) (v c : Nat) (b : BitVec 36) : (x.setC v c b).pending = x.pending := rfl
@[simp] theorem setC_lostAtoms (x : Hart) (v c : Nat) (b : BitVec 36) : (x.setC v c b).lostAtoms = x.lostAtoms := rfl
@[simp] theorem setC_wait (x : Hart) (v c : Nat) (b : BitVec 36) : (x.setC v c b).wait = x.wait := rfl
@[simp] theorem setC_kids (x : Hart) (v c : Nat) (b : BitVec 36) : (x.setC v c b).kids = x.kids := rfl
@[simp] theorem setC_request (x : Hart) (v c : Nat) (b : BitVec 36) : (x.setC v c b).request = x.request := rfl
@[simp] theorem setC_halted (x : Hart) (v c : Nat) (b : BitVec 36) : (x.setC v c b).halted = x.halted := rfl
@[simp] theorem setC_colMoves (x : Hart) (v c : Nat) (b : BitVec 36) : (x.setC v c b).colMoves = x.colMoves := rfl
@[simp] theorem setC_lastIssue (x : Hart) (v c : Nat) (b : BitVec 36) : (x.setC v c b).lastIssue = x.lastIssue := rfl

/-! addFlags. -/

@[simp] theorem addFlags_bound (x : Hart) (f : Flags) : (x.addFlags f).bound = x.bound := rfl
@[simp] theorem addFlags_role (x : Hart) (f : Flags) : (x.addFlags f).role = x.role := rfl
@[simp] theorem addFlags_ctx (x : Hart) (f : Flags) : (x.addFlags f).ctx = x.ctx := rfl
@[simp] theorem addFlags_nest (x : Hart) (f : Flags) : (x.addFlags f).nest = x.nest := rfl
@[simp] theorem addFlags_ordinal (x : Hart) (f : Flags) : (x.addFlags f).ordinal = x.ordinal := rfl
@[simp] theorem addFlags_handout (x : Hart) (f : Flags) : (x.addFlags f).handout = x.handout := rfl
@[simp] theorem addFlags_parent (x : Hart) (f : Flags) : (x.addFlags f).parent = x.parent := rfl
@[simp] theorem addFlags_area (x : Hart) (f : Flags) : (x.addFlags f).area = x.area := rfl
@[simp] theorem addFlags_famBase (x : Hart) (f : Flags) : (x.addFlags f).famBase = x.famBase := rfl
@[simp] theorem addFlags_back (x : Hart) (f : Flags) : (x.addFlags f).back = x.back := rfl
@[simp] theorem addFlags_saveSlot (x : Hart) (f : Flags) : (x.addFlags f).saveSlot = x.saveSlot := rfl
@[simp] theorem addFlags_gpr (x : Hart) (f : Flags) : (x.addFlags f).gpr = x.gpr := rfl
@[simp] theorem addFlags_pc (x : Hart) (f : Flags) : (x.addFlags f).pc = x.pc := rfl
@[simp] theorem addFlags_mask (x : Hart) (f : Flags) : (x.addFlags f).mask = x.mask := rfl
@[simp] theorem addFlags_shape (x : Hart) (f : Flags) : (x.addFlags f).shape = x.shape := rfl
@[simp] theorem addFlags_vreg (x : Hart) (f : Flags) : (x.addFlags f).vreg = x.vreg := rfl
@[simp] theorem addFlags_vlines (x : Hart) (f : Flags) : (x.addFlags f).vlines = x.vlines := rfl
@[simp] theorem addFlags_acc (x : Hart) (f : Flags) : (x.addFlags f).acc = x.acc := rfl
@[simp] theorem addFlags_accWf (x : Hart) (f : Flags) : (x.addFlags f).accWf = x.accWf := rfl
@[simp] theorem addFlags_strip (x : Hart) (f : Flags) : (x.addFlags f).strip = x.strip := rfl
@[simp] theorem addFlags_viq (x : Hart) (f : Flags) : (x.addFlags f).viq = x.viq := rfl
@[simp] theorem addFlags_held (x : Hart) (f : Flags) : (x.addFlags f).held = x.held := rfl
@[simp] theorem addFlags_vseq (x : Hart) (f : Flags) : (x.addFlags f).vseq = x.vseq := rfl
@[simp] theorem addFlags_sync (x : Hart) (f : Flags) : (x.addFlags f).sync = x.sync := rfl
@[simp] theorem addFlags_storeQ (x : Hart) (f : Flags) : (x.addFlags f).storeQ = x.storeQ := rfl
@[simp] theorem addFlags_streams (x : Hart) (f : Flags) : (x.addFlags f).streams = x.streams := rfl
@[simp] theorem addFlags_eng (x : Hart) (f : Flags) : (x.addFlags f).eng = x.eng := rfl
@[simp] theorem addFlags_pending (x : Hart) (f : Flags) : (x.addFlags f).pending = x.pending := rfl
@[simp] theorem addFlags_lostAtoms (x : Hart) (f : Flags) : (x.addFlags f).lostAtoms = x.lostAtoms := rfl
@[simp] theorem addFlags_wait (x : Hart) (f : Flags) : (x.addFlags f).wait = x.wait := rfl
@[simp] theorem addFlags_kids (x : Hart) (f : Flags) : (x.addFlags f).kids = x.kids := rfl
@[simp] theorem addFlags_request (x : Hart) (f : Flags) : (x.addFlags f).request = x.request := rfl
@[simp] theorem addFlags_halted (x : Hart) (f : Flags) : (x.addFlags f).halted = x.halted := rfl
@[simp] theorem addFlags_colMoves (x : Hart) (f : Flags) : (x.addFlags f).colMoves = x.colMoves := rfl
@[simp] theorem addFlags_lastIssue (x : Hart) (f : Flags) : (x.addFlags f).lastIssue = x.lastIssue := rfl

/-! setLine. -/

@[simp] theorem setLine_bound (x : Hart) (l : Nat) (st : LineState) : (x.setLine l st).bound = x.bound := rfl
@[simp] theorem setLine_role (x : Hart) (l : Nat) (st : LineState) : (x.setLine l st).role = x.role := rfl
@[simp] theorem setLine_ctx (x : Hart) (l : Nat) (st : LineState) : (x.setLine l st).ctx = x.ctx := rfl
@[simp] theorem setLine_nest (x : Hart) (l : Nat) (st : LineState) : (x.setLine l st).nest = x.nest := rfl
@[simp] theorem setLine_ordinal (x : Hart) (l : Nat) (st : LineState) : (x.setLine l st).ordinal = x.ordinal := rfl
@[simp] theorem setLine_handout (x : Hart) (l : Nat) (st : LineState) : (x.setLine l st).handout = x.handout := rfl
@[simp] theorem setLine_parent (x : Hart) (l : Nat) (st : LineState) : (x.setLine l st).parent = x.parent := rfl
@[simp] theorem setLine_area (x : Hart) (l : Nat) (st : LineState) : (x.setLine l st).area = x.area := rfl
@[simp] theorem setLine_famBase (x : Hart) (l : Nat) (st : LineState) : (x.setLine l st).famBase = x.famBase := rfl
@[simp] theorem setLine_back (x : Hart) (l : Nat) (st : LineState) : (x.setLine l st).back = x.back := rfl
@[simp] theorem setLine_saveSlot (x : Hart) (l : Nat) (st : LineState) : (x.setLine l st).saveSlot = x.saveSlot := rfl
@[simp] theorem setLine_gpr (x : Hart) (l : Nat) (st : LineState) : (x.setLine l st).gpr = x.gpr := rfl
@[simp] theorem setLine_pc (x : Hart) (l : Nat) (st : LineState) : (x.setLine l st).pc = x.pc := rfl
@[simp] theorem setLine_mask (x : Hart) (l : Nat) (st : LineState) : (x.setLine l st).mask = x.mask := rfl
@[simp] theorem setLine_shape (x : Hart) (l : Nat) (st : LineState) : (x.setLine l st).shape = x.shape := rfl
@[simp] theorem setLine_vreg (x : Hart) (l : Nat) (st : LineState) : (x.setLine l st).vreg = x.vreg := rfl
@[simp] theorem setLine_acc (x : Hart) (l : Nat) (st : LineState) : (x.setLine l st).acc = x.acc := rfl
@[simp] theorem setLine_accWf (x : Hart) (l : Nat) (st : LineState) : (x.setLine l st).accWf = x.accWf := rfl
@[simp] theorem setLine_csr (x : Hart) (l : Nat) (st : LineState) : (x.setLine l st).csr = x.csr := rfl
@[simp] theorem setLine_strip (x : Hart) (l : Nat) (st : LineState) : (x.setLine l st).strip = x.strip := rfl
@[simp] theorem setLine_viq (x : Hart) (l : Nat) (st : LineState) : (x.setLine l st).viq = x.viq := rfl
@[simp] theorem setLine_held (x : Hart) (l : Nat) (st : LineState) : (x.setLine l st).held = x.held := rfl
@[simp] theorem setLine_vseq (x : Hart) (l : Nat) (st : LineState) : (x.setLine l st).vseq = x.vseq := rfl
@[simp] theorem setLine_sync (x : Hart) (l : Nat) (st : LineState) : (x.setLine l st).sync = x.sync := rfl
@[simp] theorem setLine_storeQ (x : Hart) (l : Nat) (st : LineState) : (x.setLine l st).storeQ = x.storeQ := rfl
@[simp] theorem setLine_streams (x : Hart) (l : Nat) (st : LineState) : (x.setLine l st).streams = x.streams := rfl
@[simp] theorem setLine_eng (x : Hart) (l : Nat) (st : LineState) : (x.setLine l st).eng = x.eng := rfl
@[simp] theorem setLine_pending (x : Hart) (l : Nat) (st : LineState) : (x.setLine l st).pending = x.pending := rfl
@[simp] theorem setLine_lostAtoms (x : Hart) (l : Nat) (st : LineState) : (x.setLine l st).lostAtoms = x.lostAtoms := rfl
@[simp] theorem setLine_wait (x : Hart) (l : Nat) (st : LineState) : (x.setLine l st).wait = x.wait := rfl
@[simp] theorem setLine_kids (x : Hart) (l : Nat) (st : LineState) : (x.setLine l st).kids = x.kids := rfl
@[simp] theorem setLine_request (x : Hart) (l : Nat) (st : LineState) : (x.setLine l st).request = x.request := rfl
@[simp] theorem setLine_halted (x : Hart) (l : Nat) (st : LineState) : (x.setLine l st).halted = x.halted := rfl
@[simp] theorem setLine_colMoves (x : Hart) (l : Nat) (st : LineState) : (x.setLine l st).colMoves = x.colMoves := rfl
@[simp] theorem setLine_lastIssue (x : Hart) (l : Nat) (st : LineState) : (x.setLine l st).lastIssue = x.lastIssue := rfl

end Sys2Proof.Machine
end

