-- ==== Sys2Proof/Laws/Ops.lean ====
section
/-! SUPPORT. What the shared operations can do: units read back as they were put, scalar registers, power, and traps. -/

namespace Sys2Proof.Machine

/-! Units. -/

@[simp] theorem getHart_putHart_same (s : State) (h : Nat) (x : Hart) : getHart (putHart s h x) h = x := by simp [getHart]

theorem getHart_putHart_other (s : State) {h k : Nat} (x : Hart) (hk : k ≠ h) : getHart (putHart s h x) k = getHart s k := by
  simp [getHart, smGet_smPut_other _ _ _ hk]

@[simp] theorem putHart_putHart (s : State) (h : Nat) (x y : Hart) : putHart (putHart s h x) h y = putHart s h y := by
  simp [putHart]

@[simp] theorem putCur_cur (s : State) (x : Hart) : (putCur s x).cur = s.cur := rfl

@[simp] theorem curHart_putCur (s : State) (x : Hart) : curHart (putCur s x) = x := by simp [curHart, putCur]

@[simp] theorem putCur_putCur (s : State) (x y : Hart) : putCur (putCur s x) y = putCur s y := by simp [putCur]

theorem getHart_putCur_other (s : State) {h : Nat} (x : Hart) (hh : h ≠ s.cur) : getHart (putCur s x) h = getHart s h :=
  getHart_putHart_other s x hh

@[simp] theorem getCore_putCore_same (s : State) (c : Nat) (x : Core) : getCore (putCore s c x) c = x := by simp [getCore]

theorem getCore_putCore_other (s : State) {c k : Nat} (x : Core) (hk : k ≠ c) : getCore (putCore s c x) k = getCore s k := by
  simp [getCore, smGet_smPut_other _ _ _ hk]

@[simp] theorem getHart_putCore (s : State) (c h : Nat) (x : Core) : getHart (putCore s c x) h = getHart s h := rfl

@[simp] theorem getCore_putHart (s : State) (c h : Nat) (x : Hart) : getCore (putHart s h x) c = getCore s c := rfl

/-! Scalar registers (06 Table 06.1). -/

@[simp] theorem getS_zero (x : Hart) : x.getS 0 = 0 := by simp [Hart.getS]

theorem getS_setS_same (x : Hart) {d : BitVec 5} (v : Word) (h : d ≠ 0) : (x.setS d v).getS d = v := by
  rw [Hart.setS, if_neg h, Hart.getS, if_neg h]
  exact Vector.getElem_set_self d.isLt

theorem getS_setS_other (x : Hart) {d r : BitVec 5} (v : Word) (h : r ≠ d ∨ r = 0) : (x.setS d v).getS r = x.getS r := by
  unfold Hart.getS Hart.setS
  by_cases hr : r = 0
  · simp [hr]
  · have hd : r ≠ d := h.resolve_right hr
    by_cases h0 : d = 0
    · simp [h0]
    · rw [if_neg h0, if_neg hr, if_neg hr]
      exact Vector.getElem_set_ne d.isLt r.isLt (fun e => hd (BitVec.eq_of_toNat_eq e.symm))

@[simp] theorem setS_setS_pc (x : Hart) (d : BitVec 5) (v : Word) : (x.setS d v).pc = x.pc := by unfold Hart.setS; split <;> rfl

/-! Power and traps. -/

/-- With power on a meaning gives the next state of its function. -/
theorem live_of (s : State) (f : State → State) (h : Powered s) : live s f = .next (f s) := by
  have h' : s.keeper.off = false := h
  simp [live, h']

/-- Without power it stops. -/
theorem live_off (s : State) (f : State → State) (h : ¬ Powered s) : live s f = .fault .powerRemoved := by
  have h' : s.keeper.off = true := by simpa [Powered] using h
  simp [live, h']

/-- What a meaning answers when it answers a next state. -/
theorem live_next {s t : State} {f : State → State} (h : live s f = .next t) : Powered s ∧ t = f s := by
  by_cases hp : Powered s
  · rw [live_of s f hp] at h
    exact ⟨hp, (Host.Outcome.next.inj h).symm⟩
  · rw [live_off s f hp] at h
    exact absurd h (by simp)

/-- retireS in the words of the statements. -/
theorem retireS_eq (s : State) (d : BitVec 5) (v : Word) : retireS s d v = scalarResult s d v := by
  simp [retireS, retire, scalarResult, Hart.past]

/-- A trap with no older VIQ entry is taken at once. -/
theorem trapAt_now (s : State) (tpc : Word) (t : Trap) (hq : (curHart s).viq = []) (hf : faultToHost s t = false) :
    trapAt s tpc t = trapTaken s t.cause tpc t.tval t.tval2 := by
  have e : trapAt s tpc t = putCur s ((curHart s).takeScalar t tpc) := by
    have h0 : (curHart s).viq.isEmpty = true := by simp [hq]
    simp only [trapAt, h0, if_true, deliverScalar, hf, Bool.false_eq_true, if_false]
    rfl
  rw [e]
  simp [Hart.takeScalar, Hart.enterHandler, trapTaken, word, tstatusOf]

/-- A trap at the executing hart's instruction with no older VIQ entry. -/
theorem trapHere_now (s : State) (t : Trap) (hq : (curHart s).viq = []) (hf : faultToHost s t = false) :
    trapHere s t = trapTaken s t.cause (curHart s).pc t.tval t.tval2 := trapAt_now s _ t hq hf

/-- Only page faults are handed to the host (16 R346). -/
theorem faultToHost_other (s : State) (t : Trap) (h : t.cause ≠ .loadpf ∧ t.cause ≠ .storepf ∧ t.cause ≠ .fetch) :
    faultToHost s t = false := by
  simp [faultToHost, h]

end Sys2Proof.Machine
end

