-- ==== Sys2Proof/Laws/Access.lean ====
section
/-! SUPPORT. What an access can do, said once: it moves the caches, the TLBs and the translation cache, and may set bits of a page-table
entry in memory; harts, and what the cores share besides caches, stay as they were, and memory keeps its form. -/

namespace Sys2Proof

/-- Entries dropped by their keys leave a sorted map sorted. -/
theorem smSorted_filter {α : Type} (f : Nat × α → Bool) : ∀ (m : SMap α) (lo : Nat), smSorted lo m = true → smSorted lo (m.filter f) = true
  | [], _, _ => rfl
  | (j, x) :: m, lo, h => by
    rw [smSorted, Bool.and_eq_true, decide_eq_true_eq] at h
    have ih := smSorted_filter f m (j + 1) h.2
    rw [List.filter_cons]
    split
    · rw [smSorted, Bool.and_eq_true, decide_eq_true_eq]; exact ⟨h.1, ih⟩
    · exact smSorted_mono ih (by omega)

/-- Entries dropped by their keys keep the canonical form. -/
theorem smWf_filter {α : Type} [DecidableEq α] (d : α) (f : Nat × α → Bool) {m : SMap α} (h : smWf d m = true) :
    smWf d (m.filter f) = true := by
  rw [smWf, Bool.and_eq_true, List.all_eq_true] at h ⊢
  exact ⟨smSorted_filter f m 0 h.1, fun p hp => h.2 p (List.mem_filter.1 hp).1⟩

namespace Machine

/-- t is s but for caches, TLBs, memory and poison. -/
def Moved (s t : State) : Prop :=
  t = { s with cores := t.cores, clusters := t.clusters, caches := t.caches, ats := t.ats, mem := t.mem, poison := t.poison } ∧
  (∀ c, ∃ tl, getCore t c = { getCore s c with tlb := tl }) ∧ (s.mem.wf = true → t.mem.wf = true)

theorem Moved.refl (s : State) : Moved s s := ⟨rfl, fun c => ⟨(getCore s c).tlb, rfl⟩, id⟩

theorem Moved.trans {s t u : State} (h : Moved s t) (k : Moved t u) : Moved s u := by
  obtain ⟨h1, h2, h3⟩ := h
  obtain ⟨k1, k2, k3⟩ := k
  refine ⟨?_, fun c => ?_, fun w => k3 (h3 w)⟩
  · rw [k1, h1]
  · obtain ⟨tl, e⟩ := k2 c
    obtain ⟨_, e'⟩ := h2 c
    exact ⟨tl, by rw [e, e']⟩

/-! What Moved keeps. -/

theorem Moved.harts {s t : State} (h : Moved s t) : t.harts = s.harts := by rw [h.1]
theorem Moved.cur {s t : State} (h : Moved s t) : t.cur = s.cur := by rw [h.1]
theorem Moved.nests {s t : State} (h : Moved s t) : t.nests = s.nests := by rw [h.1]
theorem Moved.saved {s t : State} (h : Moved s t) : t.saved = s.saved := by rw [h.1]
theorem Moved.xctx {s t : State} (h : Moved s t) : t.xctx = s.xctx := by rw [h.1]
theorem Moved.lens {s t : State} (h : Moved s t) : t.lens = s.lens := by rw [h.1]
theorem Moved.time {s t : State} (h : Moved s t) : t.time = s.time := by rw [h.1]
theorem Moved.steps {s t : State} (h : Moved s t) : t.steps = s.steps := by rw [h.1]
theorem Moved.relaxed {s t : State} (h : Moved s t) : t.relaxed = s.relaxed := by rw [h.1]
theorem Moved.keeper {s t : State} (h : Moved s t) : t.keeper = s.keeper := by rw [h.1]
theorem Moved.boot {s t : State} (h : Moved s t) : t.boot = s.boot := by rw [h.1]
theorem Moved.getHart {s t : State} (h : Moved s t) (k : Nat) : getHart t k = Machine.getHart s k := by
  unfold Machine.getHart; rw [h.harts]
theorem Moved.curHart {s t : State} (h : Moved s t) : curHart t = Machine.curHart s := by
  unfold Machine.curHart; rw [h.getHart, h.cur]
theorem Moved.powered {s t : State} (h : Moved s t) (p : Powered s) : Powered t := by
  unfold Powered at *; rw [h.keeper]; exact p
theorem Moved.formed {s t : State} (h : Moved s t) (w : MemoryFormed s) : MemoryFormed t := h.2.2 w
theorem Moved.slices {s t : State} (h : Moved s t) (c : Nat) : (getCore t c).slices = (getCore s c).slices := by
  obtain ⟨_, e⟩ := h.2.1 c; rw [e]

/-! What moves a state. -/

theorem moved_clusters (s : State) (m : SMap Cluster) : Moved s { s with clusters := m } := ⟨rfl, fun c => ⟨(getCore s c).tlb, rfl⟩, id⟩

theorem moved_putCluster (s : State) (k : Nat) (u : Cluster) : Moved s (putCluster s k u) := moved_clusters s _

theorem moved_caches (s : State) (c : Caches) : Moved s { s with caches := c } := ⟨rfl, fun c => ⟨(getCore s c).tlb, rfl⟩, id⟩

theorem moved_ats (s : State) (l : List AtsEntry) : Moved s { s with ats := l } := ⟨rfl, fun c => ⟨(getCore s c).tlb, rfl⟩, id⟩

theorem moved_poison (s : State) (m : SMap PoisonRec) : Moved s { s with poison := m } := ⟨rfl, fun c => ⟨(getCore s c).tlb, rfl⟩, id⟩

theorem moved_putCore (s : State) (k : Nat) (tl : List TlbEntry) : Moved s (putCore s k { getCore s k with tlb := tl }) := by
  refine ⟨rfl, fun c => ?_, id⟩
  by_cases h : c = k
  · subst h; exact ⟨tl, by rw [getCore_putCore_same]⟩
  · exact ⟨(getCore s c).tlb, by rw [getCore_putCore_other s _ h]⟩

theorem moved_replacePoison (s : State) (w k : Nat) (m : Byte) : Moved s (replacePoison s w k m) := by
  unfold replacePoison
  dsimp only
  repeat' split
  all_goals first | exact Moved.refl s | exact moved_poison s _

/-- A masked write changes memory and poison. -/
theorem moved_putMasked (s : State) (w : Nat) (b : MaskedByte) : Moved s (putMasked s w b) := by
  have h : Moved s { s with mem := smSet 0 s.mem b.key ((memByte s b.key &&& ~~~b.mask) ||| (b.val &&& b.mask)) } :=
    ⟨rfl, fun c => ⟨(getCore s c).tlb, rfl⟩, fun wf => smWf_smSet 0 _ _ wf⟩
  exact h.trans (moved_replacePoison _ _ _ _)

theorem moved_putAll (w : Nat) : ∀ (bs : List MaskedByte) (s : State), Moved s (putAll s w bs)
  | [], s => Moved.refl s
  | b :: bs, s => (moved_putMasked s w b).trans (moved_putAll w bs (putMasked s w b))

theorem moved_putNat (s : State) (w key v n : Nat) : Moved s (putNat s w key v n) := moved_putAll w _ s

theorem moved_homeRead (s : State) (cmp : Bool) (key : Nat) : Moved s (homeRead s cmp key) := by
  unfold homeRead
  split
  · exact moved_caches s _
  · exact Moved.refl s

theorem moved_homeWritten (s : State) (key : Nat) (cmp atomic : Bool) : Moved s (homeWritten s key cmp atomic) := by
  unfold homeWritten
  split
  · exact moved_caches s _
  · exact Moved.refl s

theorem moved_homeReads (cmp : Bool) : ∀ (ks : List Nat) (s : State), Moved s (ks.foldl (fun s k => homeRead s cmp k) s)
  | [], s => Moved.refl s
  | k :: ks, s => (moved_homeRead s cmp k).trans (moved_homeReads cmp ks (homeRead s cmp k))

theorem moved_tlbInstall (s : State) (core : Nat) (e : TlbEntry) : Moved s (tlbInstall s core e) :=
  (moved_putCore s core (tlbPut (getCore s core).tlb e 64)).trans (moved_putCluster _ _ _)

theorem moved_markLeaf (s : State) (l : Leaf) (write : Bool) : Moved s (markLeaf s l write).2 := by
  unfold markLeaf
  dsimp only
  generalize (if write then l.pte ||| 0x80 ||| 0x100 else l.pte ||| 0x80) = e
  split
  · exact Moved.refl s
  · exact (moved_putNat _ _ _ _ _).trans (moved_homeWritten _ _ _ _)

theorem moved_translateWalk {s t : State} {a : Agent} {va : Word} {k : AKind} {e : TlbEntry} (h : translateWalk s a va k = .ok (e, t)) :
    Moved s t := by
  unfold translateWalk at h
  dsimp only at h
  split at h
  · cases h
  · split at h
    · cases h
      exact (moved_homeReads _ _ s).trans ((moved_markLeaf _ _ _).trans (moved_tlbInstall _ _ _))
    · cases h

/-- A walk that ends in a fault has moved the entries that it read through the LLC. -/
theorem moved_translateWalk_stop {s : State} {a : Agent} {va : Word} {k : AKind} {e : Stop} (h : translateWalk s a va k = .error e) :
    Moved s e.state := by
  unfold translateWalk at h
  dsimp only at h
  split at h
  · cases h; exact moved_homeReads _ _ s
  · split at h
    · cases h
    · cases h; exact moved_homeReads _ _ s

/-- A translation moves caches and TLBs and marks page-table entries. -/
theorem moved_translate {s t : State} {a : Agent} {va : Word} {k : AKind} {e : TlbEntry} (h : translate s a va k = .ok (e, t)) :
    Moved s t := by
  unfold translate at h
  split at h
  · cases h
  · split at h
    · split at h
      · cases h
      · split at h
        · exact moved_translateWalk h
        · cases h; exact Moved.refl s
    · exact moved_translateWalk h

/-- Nor does one that stops do more. -/
theorem moved_translate_stop {s : State} {a : Agent} {va : Word} {k : AKind} {e : Stop} (h : translate s a va k = .error e) :
    Moved s e.state := by
  unfold translate at h
  split at h
  · cases h; exact Moved.refl s
  · split at h
    · split at h
      · cases h; exact Moved.refl s
      · split at h
        · exact moved_translateWalk_stop h
        · cases h
    · exact moved_translateWalk_stop h

theorem moved_cacheTouch (s : State) (core key : Nat) (k : AKind) (p : Path) (e : TlbEntry) : Moved s (cacheTouch s core key k p e) := by
  unfold cacheTouch
  dsimp only
  repeat' split
  all_goals first | exact Moved.refl s | exact moved_ats s _ | exact moved_caches s _

/-- The caches change no value. -/
theorem cacheTouch_mem (s : State) (core key : Nat) (k : AKind) (p : Path) (e : TlbEntry) : (cacheTouch s core key k p e).mem = s.mem := by
  unfold cacheTouch
  dsimp only
  repeat' split
  all_goals rfl

/-- An access that succeeds moves caches and TLBs and marks page-table entries, and does nothing else. -/
theorem moved_access {s t : State} {a : Agent} {va : Word} {n key : Nat} {k : AKind} {p : Path} (h : access s a va n k p = .ok (key, t)) :
    Moved s t := by
  unfold access at h
  split at h
  · cases h
  · rename_i e s1 ht
    split at h
    · cases h
    · split at h
      · cases h
      · cases h
        exact (moved_translate ht).trans (moved_cacheTouch _ _ _ _ _ _)

/-- Nor does one that stops. -/
theorem moved_access_stop {s : State} {a : Agent} {va : Word} {n : Nat} {k : AKind} {p : Path} {e : Stop}
    (h : access s a va n k p = .error e) : Moved s e.state := by
  unfold access at h
  split at h
  · rename_i t ht
    cases h; exact moved_translate_stop ht
  · rename_i x s1 ht
    split at h
    · cases h; exact moved_translate ht
    · split at h
      · cases h; exact moved_translate ht
      · cases h

/-- The pending stores of a hart performed: memory keeps its form. -/
theorem drainAll_formed (s : State) (h : Nat) (w : MemoryFormed s) : MemoryFormed (drainAll s h) := by
  have hf : ∀ (n : Nat) (q : List (List MaskedByte)) (s : State),
      MemoryFormed s → MemoryFormed (q.foldl (fun s bs => writeAll s n bs) s) := by
    intro n q
    induction q with
    | nil => exact fun s w => w
    | cons bs q ih => exact fun s w => ih _ (writeAll_wf n bs s w)
  exact hf _ _ s w

/-- One pending store performed: memory keeps its form. -/
theorem drainOne_formed (s : State) (h : Nat) (w : MemoryFormed s) : MemoryFormed (drainOne s h) := by
  unfold drainOne
  dsimp only
  split
  · exact w
  · exact writeAll_wf _ _ s w

/-- With nothing pending of its own, a read is made where its translation leaves it. -/
theorem ownSettled_of_none {s : State} {h key n : Nat} (e : (getHart s h).storeQ = []) : ownSettled s h key n = s := by
  simp [ownSettled, ownPending, e]

/-- Reads by a hart: translations, and its pending stores performed where it reads one of their chunks. -/
inductive Settles (h : Nat) : State → State → Prop where
  | moved {s t : State} : Moved s t → Settles h s t
  | drained (s : State) : Settles h s (drainAll s h)
  | trans {s t u : State} : Settles h s t → Settles h t u → Settles h s u

theorem Settles.formed {h : Nat} {s t : State} (r : Settles h s t) (w : MemoryFormed s) : MemoryFormed t := by
  induction r with
  | moved m => exact m.formed w
  | drained s => exact drainAll_formed s h w
  | trans _ _ ih1 ih2 => exact ih2 (ih1 w)

theorem settles_ownSettled (s : State) (h key n : Nat) : Settles h s (ownSettled s h key n) := by
  unfold ownSettled
  split
  · exact .drained s
  · exact .moved (Moved.refl s)

/-- A read of n bytes: an access, the hart's own pending stores to the chunk performed, and the bytes that memory then holds. -/
theorem readNat_ok {s t : State} {a : Agent} {named va : Word} {n v : Nat} {p : Path} (h : readNat s a named va n p = .ok (v, t)) :
    ∃ key s1, access s a va n .load p = .ok (key, s1) ∧ t = ownSettled s1 a.hart key n ∧ isPoisoned t key = false ∧ v = memNat t key n := by
  unfold readNat at h
  split at h
  · cases h
  · rename_i key s1 ha
    dsimp only at h
    split at h
    · cases h
    · rename_i hp
      cases h
      exact ⟨key, s1, ha, rfl, by simpa using hp, rfl⟩

/-- A read of n bytes. -/
theorem settles_readNat {s t : State} {a : Agent} {named va : Word} {n v : Nat} {p : Path} (h : readNat s a named va n p = .ok (v, t)) :
    Settles a.hart s t := by
  obtain ⟨key, s1, ha, rfl, -, -⟩ := readNat_ok h
  exact (Settles.moved (moved_access ha)).trans (settles_ownSettled _ _ _ _)

theorem settles_readNat_stop {s : State} {a : Agent} {named va : Word} {n : Nat} {p : Path} {e : Stop}
    (h : readNat s a named va n p = .error e) : Settles a.hart s e.state := by
  unfold readNat at h
  split at h
  · rename_i t ht
    cases h; exact .moved (moved_access_stop ht)
  · rename_i key s1 ha
    dsimp only at h
    split at h
    · cases h; exact (Settles.moved (moved_access ha)).trans (settles_ownSettled _ _ _ _)
    · cases h

/-- A scalar read of n bytes. -/
theorem settles_loadNat {s t : State} {a : Agent} {va : Word} {n v : Nat} (h : loadNat s a va n = .ok (v, t)) : Settles a.hart s t :=
  settles_readNat h

theorem settles_loadNat_stop {s : State} {a : Agent} {va : Word} {n : Nat} {e : Stop} (h : loadNat s a va n = .error e) :
    Settles a.hart s e.state := settles_readNat_stop h

/-- A record read word by word. -/
theorem settles_readWords {a : Agent} {named : Word} : ∀ {n : Nat} {s t : State} {va : Word} {ws : List Nat},
    readWords s a named va n = .ok (ws, t) → Settles a.hart s t
  | 0, s, t, va, ws, h => by cases h; exact .moved (Moved.refl _)
  | n + 1, s, t, va, ws, h => by
    unfold readWords at h
    split at h
    · cases h
    · rename_i w s1 ha
      split at h
      · cases h
      · rename_i ws2 s2 hr
        cases h
        exact (settles_readNat ha).trans (settles_readWords hr)

theorem settles_readWords_stop {a : Agent} {named : Word} : ∀ {n : Nat} {s : State} {va : Word} {e : Stop},
    readWords s a named va n = .error e → Settles a.hart s e.state
  | 0, s, va, e, h => by cases h
  | n + 1, s, va, e, h => by
    unfold readWords at h
    split at h
    · rename_i t ht
      cases h; exact settles_readNat_stop ht
    · rename_i w s1 ha
      split at h
      · rename_i t ht
        cases h; exact (settles_readNat ha).trans (settles_readWords_stop ht)
      · cases h

/-- A record sent on a link touches ports alone. -/
@[simp] theorem linkSend_mem (s : State) (p cls : Nat) (bs : List Byte) (f : FlitFor) : (linkSend s p cls bs f).mem = s.mem := by
  unfold linkSend; split <;> rfl

@[simp] theorem linkSend_harts (s : State) (p cls : Nat) (bs : List Byte) (f : FlitFor) : (linkSend s p cls bs f).harts = s.harts := by
  unfold linkSend; split <;> rfl

/-- Memory after a reset keeps its form. -/
theorem afterReset_formed (s : State) (w : MemoryFormed s) : MemoryFormed (afterReset s) := smWf_filter 0 _ w

/-! Traps change harts alone. -/

/-- t is s but for its harts. -/
def HartsOnly (s t : State) : Prop := t = { s with harts := t.harts }

theorem HartsOnly.refl (s : State) : HartsOnly s s := rfl

theorem HartsOnly.mem {s t : State} (h : HartsOnly s t) : t.mem = s.mem := by rw [h]

theorem HartsOnly.formed {s t : State} (h : HartsOnly s t) (w : MemoryFormed s) : MemoryFormed t := by
  unfold MemoryFormed; rw [h.mem]; exact w

theorem hartsOnly_putHart (s : State) (h : Nat) (x : Hart) : HartsOnly s (putHart s h x) := rfl

theorem hartsOnly_deliverScalar (s : State) (h : Nat) (t : Trap) (tpc : Word) : HartsOnly s (deliverScalar s h t tpc) := by
  unfold deliverScalar
  dsimp only
  repeat' split
  all_goals rfl

theorem hartsOnly_deliverVector (s : State) (h : Nat) (t : Trap) (p : Nat) : HartsOnly s (deliverVector s h t p) := by
  unfold deliverVector
  dsimp only
  repeat' split
  all_goals rfl

/-- A trap of the executing instruction, taken now or after older entries. -/
theorem hartsOnly_trapAt (s : State) (tpc : Word) (t : Trap) : HartsOnly s (trapAt s tpc t) := by
  unfold trapAt
  dsimp only
  split
  · exact hartsOnly_deliverScalar _ _ _ _
  · rfl

theorem hartsOnly_trapHere (s : State) (t : Trap) : HartsOnly s (trapHere s t) := hartsOnly_trapAt _ _ _
theorem hartsOnly_illegal (s : State) (i : Instr) : HartsOnly s (illegal s i) := hartsOnly_trapAt _ _ _
theorem hartsOnly_privTrap (s : State) (i : Instr) : HartsOnly s (privTrap s i) := hartsOnly_trapAt _ _ _
theorem hartsOnly_retire (s : State) (f : Hart → Hart) : HartsOnly s (retire s f) := rfl
theorem hartsOnly_retireS (s : State) (d : BitVec 5) (v : Word) : HartsOnly s (retireS s d v) := rfl

end Machine

end Sys2Proof
end

