-- ==== Sys2Proof/Laws/PerInstr.lean ====
section
/-! SUPPORT. For every instruction, the word that encodes it has 32 bits (03 R45): one lemma per constructor. -/

namespace Sys2Proof.Laws.WordBound

/-- The word of the instruction, if it has one, is below 2 to the 32. -/
def Statement (i : Instr) : Prop := ∀ w, encode i = some w → w < 2 ^ 32

theorem add (d : BitVec 5) (a : BitVec 5) (b : BitVec 5) : Statement (.add d a b) := by
  intro w h; cases h
  have := d.isLt
  have := a.isLt
  have := b.isLt
  simp only [put]; omega
theorem sub (d : BitVec 5) (a : BitVec 5) (b : BitVec 5) : Statement (.sub d a b) := by
  intro w h; cases h
  have := d.isLt
  have := a.isLt
  have := b.isLt
  simp only [put]; omega
theorem mul (d : BitVec 5) (a : BitVec 5) (b : BitVec 5) : Statement (.mul d a b) := by
  intro w h; cases h
  have := d.isLt
  have := a.isLt
  have := b.isLt
  simp only [put]; omega
theorem mulh (d : BitVec 5) (a : BitVec 5) (b : BitVec 5) : Statement (.mulh d a b) := by
  intro w h; cases h
  have := d.isLt
  have := a.isLt
  have := b.isLt
  simp only [put]; omega
theorem mulhn (d : BitVec 5) (a : BitVec 5) (b : BitVec 5) : Statement (.mulhn d a b) := by
  intro w h; cases h
  have := d.isLt
  have := a.isLt
  have := b.isLt
  simp only [put]; omega
theorem div (d : BitVec 5) (a : BitVec 5) (b : BitVec 5) : Statement (.div d a b) := by
  intro w h; cases h
  have := d.isLt
  have := a.isLt
  have := b.isLt
  simp only [put]; omega
theorem divn (d : BitVec 5) (a : BitVec 5) (b : BitVec 5) : Statement (.divn d a b) := by
  intro w h; cases h
  have := d.isLt
  have := a.isLt
  have := b.isLt
  simp only [put]; omega
theorem rem (d : BitVec 5) (a : BitVec 5) (b : BitVec 5) : Statement (.rem d a b) := by
  intro w h; cases h
  have := d.isLt
  have := a.isLt
  have := b.isLt
  simp only [put]; omega
theorem remn (d : BitVec 5) (a : BitVec 5) (b : BitVec 5) : Statement (.remn d a b) := by
  intro w h; cases h
  have := d.isLt
  have := a.isLt
  have := b.isLt
  simp only [put]; omega
theorem and (d : BitVec 5) (a : BitVec 5) (b : BitVec 5) : Statement (.and d a b) := by
  intro w h; cases h
  have := d.isLt
  have := a.isLt
  have := b.isLt
  simp only [put]; omega
theorem or (d : BitVec 5) (a : BitVec 5) (b : BitVec 5) : Statement (.or d a b) := by
  intro w h; cases h
  have := d.isLt
  have := a.isLt
  have := b.isLt
  simp only [put]; omega
theorem xor (d : BitVec 5) (a : BitVec 5) (b : BitVec 5) : Statement (.xor d a b) := by
  intro w h; cases h
  have := d.isLt
  have := a.isLt
  have := b.isLt
  simp only [put]; omega
theorem sll (d : BitVec 5) (a : BitVec 5) (b : BitVec 5) : Statement (.sll d a b) := by
  intro w h; cases h
  have := d.isLt
  have := a.isLt
  have := b.isLt
  simp only [put]; omega
theorem srl (d : BitVec 5) (a : BitVec 5) (b : BitVec 5) : Statement (.srl d a b) := by
  intro w h; cases h
  have := d.isLt
  have := a.isLt
  have := b.isLt
  simp only [put]; omega
theorem sra (d : BitVec 5) (a : BitVec 5) (b : BitVec 5) : Statement (.sra d a b) := by
  intro w h; cases h
  have := d.isLt
  have := a.isLt
  have := b.isLt
  simp only [put]; omega
theorem min (d : BitVec 5) (a : BitVec 5) (b : BitVec 5) : Statement (.min d a b) := by
  intro w h; cases h
  have := d.isLt
  have := a.isLt
  have := b.isLt
  simp only [put]; omega
theorem max (d : BitVec 5) (a : BitVec 5) (b : BitVec 5) : Statement (.max d a b) := by
  intro w h; cases h
  have := d.isLt
  have := a.isLt
  have := b.isLt
  simp only [put]; omega
theorem minn (d : BitVec 5) (a : BitVec 5) (b : BitVec 5) : Statement (.minn d a b) := by
  intro w h; cases h
  have := d.isLt
  have := a.isLt
  have := b.isLt
  simp only [put]; omega
theorem maxn (d : BitVec 5) (a : BitVec 5) (b : BitVec 5) : Statement (.maxn d a b) := by
  intro w h; cases h
  have := d.isLt
  have := a.isLt
  have := b.isLt
  simp only [put]; omega
theorem clz (d : BitVec 5) (a : BitVec 5) : Statement (.clz d a) := by
  intro w h; cases h
  have := d.isLt
  have := a.isLt
  simp only [put]; omega
theorem ctz (d : BitVec 5) (a : BitVec 5) : Statement (.ctz d a) := by
  intro w h; cases h
  have := d.isLt
  have := a.isLt
  simp only [put]; omega
theorem popc (d : BitVec 5) (a : BitVec 5) : Statement (.popc d a) := by
  intro w h; cases h
  have := d.isLt
  have := a.isLt
  simp only [put]; omega
theorem cmp (d : BitVec 5) (a : BitVec 5) (b : BitVec 5) (c : BitVec 3) : Statement (.cmp d a b c) := by
  intro w h; cases h
  have := d.isLt
  have := a.isLt
  have := b.isLt
  have := c.isLt
  simp only [put]; omega
theorem csel (d : BitVec 5) (a : BitVec 5) (b : BitVec 5) (c : BitVec 5) : Statement (.csel d a b c) := by
  intro w h; cases h
  have := d.isLt
  have := a.isLt
  have := b.isLt
  have := c.isLt
  simp only [put]; omega
theorem lea (d : BitVec 5) (a : BitVec 5) (b : BitVec 5) (s : BitVec 2) : Statement (.lea d a b s) := by
  intro w h; cases h
  have := d.isLt
  have := a.isLt
  have := b.isLt
  have := s.isLt
  simp only [put]; omega
theorem addi (d : BitVec 5) (a : BitVec 5) (i : BitVec 16) : Statement (.addi d a i) := by
  intro w h; cases h
  have := d.isLt
  have := a.isLt
  have := i.isLt
  simp only [put]; omega
theorem andi (d : BitVec 5) (a : BitVec 5) (i : BitVec 16) : Statement (.andi d a i) := by
  intro w h; cases h
  have := d.isLt
  have := a.isLt
  have := i.isLt
  simp only [put]; omega
theorem ori (d : BitVec 5) (a : BitVec 5) (i : BitVec 16) : Statement (.ori d a i) := by
  intro w h; cases h
  have := d.isLt
  have := a.isLt
  have := i.isLt
  simp only [put]; omega
theorem xori (d : BitVec 5) (a : BitVec 5) (i : BitVec 16) : Statement (.xori d a i) := by
  intro w h; cases h
  have := d.isLt
  have := a.isLt
  have := i.isLt
  simp only [put]; omega
theorem lhi (d : BitVec 5) (a : BitVec 5) (i : BitVec 16) : Statement (.lhi d a i) := by
  intro w h; cases h
  have := d.isLt
  have := a.isLt
  have := i.isLt
  simp only [put]; omega
theorem cmpi (d : BitVec 5) (a : BitVec 5) (c : BitVec 3) (i : BitVec 13) : Statement (.cmpi d a c i) := by
  intro w h; cases h
  have := d.isLt
  have := a.isLt
  have := c.isLt
  have := i.isLt
  simp only [put]; omega
theorem slli (d : BitVec 5) (a : BitVec 5) (s : BitVec 6) : Statement (.slli d a s) := by
  intro w h; cases h
  have := d.isLt
  have := a.isLt
  have := s.isLt
  simp only [put]; omega
theorem srli (d : BitVec 5) (a : BitVec 5) (s : BitVec 6) : Statement (.srli d a s) := by
  intro w h; cases h
  have := d.isLt
  have := a.isLt
  have := s.isLt
  simp only [put]; omega
theorem srai (d : BitVec 5) (a : BitVec 5) (s : BitVec 6) : Statement (.srai d a s) := by
  intro w h; cases h
  have := d.isLt
  have := a.isLt
  have := s.isLt
  simp only [put]; omega
theorem ldI8 (d : BitVec 5) (a : BitVec 5) (i : BitVec 16) : Statement (.ldI8 d a i) := by
  intro w h; cases h
  have := d.isLt
  have := a.isLt
  have := i.isLt
  simp only [put]; omega
theorem ldN8 (d : BitVec 5) (a : BitVec 5) (i : BitVec 16) : Statement (.ldN8 d a i) := by
  intro w h; cases h
  have := d.isLt
  have := a.isLt
  have := i.isLt
  simp only [put]; omega
theorem ldI16 (d : BitVec 5) (a : BitVec 5) (i : BitVec 16) : Statement (.ldI16 d a i) := by
  intro w h; cases h
  have := d.isLt
  have := a.isLt
  have := i.isLt
  simp only [put]; omega
theorem ldN16 (d : BitVec 5) (a : BitVec 5) (i : BitVec 16) : Statement (.ldN16 d a i) := by
  intro w h; cases h
  have := d.isLt
  have := a.isLt
  have := i.isLt
  simp only [put]; omega
theorem ldI32 (d : BitVec 5) (a : BitVec 5) (i : BitVec 16) : Statement (.ldI32 d a i) := by
  intro w h; cases h
  have := d.isLt
  have := a.isLt
  have := i.isLt
  simp only [put]; omega
theorem ldN32 (d : BitVec 5) (a : BitVec 5) (i : BitVec 16) : Statement (.ldN32 d a i) := by
  intro w h; cases h
  have := d.isLt
  have := a.isLt
  have := i.isLt
  simp only [put]; omega
theorem ldI64 (d : BitVec 5) (a : BitVec 5) (i : BitVec 16) : Statement (.ldI64 d a i) := by
  intro w h; cases h
  have := d.isLt
  have := a.isLt
  have := i.isLt
  simp only [put]; omega
theorem st8 (d : BitVec 5) (a : BitVec 5) (i : BitVec 16) : Statement (.st8 d a i) := by
  intro w h; cases h
  have := d.isLt
  have := a.isLt
  have := i.isLt
  simp only [put]; omega
theorem st16 (d : BitVec 5) (a : BitVec 5) (i : BitVec 16) : Statement (.st16 d a i) := by
  intro w h; cases h
  have := d.isLt
  have := a.isLt
  have := i.isLt
  simp only [put]; omega
theorem st32 (d : BitVec 5) (a : BitVec 5) (i : BitVec 16) : Statement (.st32 d a i) := by
  intro w h; cases h
  have := d.isLt
  have := a.isLt
  have := i.isLt
  simp only [put]; omega
theorem st64 (d : BitVec 5) (a : BitVec 5) (i : BitVec 16) : Statement (.st64 d a i) := by
  intro w h; cases h
  have := d.isLt
  have := a.isLt
  have := i.isLt
  simp only [put]; omega
theorem amo (d : BitVec 5) (a : BitVec 5) (b : BitVec 5) (s : BitVec 3) (o : BitVec 2) (w : BitVec 1) (p : BitVec 4) : Statement (.amo d a b s o w p) := by
  intro w h; cases h
  have := d.isLt
  have := a.isLt
  have := b.isLt
  have := s.isLt
  have := o.isLt
  have := w.isLt
  have := p.isLt
  simp only [put]; omega
theorem cas (d : BitVec 5) (a : BitVec 5) (b : BitVec 5) (s : BitVec 3) (o : BitVec 2) (w : BitVec 1) : Statement (.cas d a b s o w) := by
  intro w h; cases h
  have := d.isLt
  have := a.isLt
  have := b.isLt
  have := s.isLt
  have := o.isLt
  have := w.isLt
  simp only [put]; omega
theorem red (a : BitVec 5) (b : BitVec 5) (s : BitVec 3) (o : BitVec 2) (w : BitVec 1) (p : BitVec 4) : Statement (.red a b s o w p) := by
  intro w h; cases h
  have := a.isLt
  have := b.isLt
  have := s.isLt
  have := o.isLt
  have := w.isLt
  have := p.isLt
  simp only [put]; omega
theorem beq (a : BitVec 5) (b : BitVec 5) (o : BitVec 16) : Statement (.beq a b o) := by
  intro w h; cases h
  have := a.isLt
  have := b.isLt
  have := o.isLt
  simp only [put]; omega
theorem bne (a : BitVec 5) (b : BitVec 5) (o : BitVec 16) : Statement (.bne a b o) := by
  intro w h; cases h
  have := a.isLt
  have := b.isLt
  have := o.isLt
  simp only [put]; omega
theorem blt (a : BitVec 5) (b : BitVec 5) (o : BitVec 16) : Statement (.blt a b o) := by
  intro w h; cases h
  have := a.isLt
  have := b.isLt
  have := o.isLt
  simp only [put]; omega
theorem bge (a : BitVec 5) (b : BitVec 5) (o : BitVec 16) : Statement (.bge a b o) := by
  intro w h; cases h
  have := a.isLt
  have := b.isLt
  have := o.isLt
  simp only [put]; omega
theorem bltn (a : BitVec 5) (b : BitVec 5) (o : BitVec 16) : Statement (.bltn a b o) := by
  intro w h; cases h
  have := a.isLt
  have := b.isLt
  have := o.isLt
  simp only [put]; omega
theorem bgen (a : BitVec 5) (b : BitVec 5) (o : BitVec 16) : Statement (.bgen a b o) := by
  intro w h; cases h
  have := a.isLt
  have := b.isLt
  have := o.isLt
  simp only [put]; omega
theorem jmp (o : BitVec 26) : Statement (.jmp o) := by
  intro w h; cases h
  have := o.isLt
  simp only [put]; omega
theorem jal (o : BitVec 26) : Statement (.jal o) := by
  intro w h; cases h
  have := o.isLt
  simp only [put]; omega
theorem jalr (d : BitVec 5) (a : BitVec 5) (i : BitVec 16) : Statement (.jalr d a i) := by
  intro w h; cases h
  have := d.isLt
  have := a.isLt
  have := i.isLt
  simp only [put]; omega
theorem bstrip (a : BitVec 5) (b : BitVec 5) (o : BitVec 16) : Statement (.bstrip a b o) := by
  intro w h; cases h
  have := a.isLt
  have := b.isLt
  have := o.isLt
  simp only [put]; omega
theorem bvany (m : BitVec 5) (s : BitVec 5) (o : BitVec 16) : Statement (.bvany m s o) := by
  intro w h; cases h
  have := m.isLt
  have := s.isLt
  have := o.isLt
  simp only [put]; omega
theorem bvnone (m : BitVec 5) (s : BitVec 5) (o : BitVec 16) : Statement (.bvnone m s o) := by
  intro w h; cases h
  have := m.isLt
  have := s.isLt
  have := o.isLt
  simp only [put]; omega
theorem csrr (d : BitVec 5) (c : BitVec 12) : Statement (.csrr d c) := by
  intro w h; cases h
  have := d.isLt
  have := c.isLt
  simp only [put]; omega
theorem csrw (d : BitVec 5) (a : BitVec 5) (c : BitVec 12) : Statement (.csrw d a c) := by
  intro w h; cases h
  have := d.isLt
  have := a.isLt
  have := c.isLt
  simp only [put]; omega
theorem csrs (d : BitVec 5) (a : BitVec 5) (c : BitVec 12) : Statement (.csrs d a c) := by
  intro w h; cases h
  have := d.isLt
  have := a.isLt
  have := c.isLt
  simp only [put]; omega
theorem csrc (d : BitVec 5) (a : BitVec 5) (c : BitVec 12) : Statement (.csrc d a c) := by
  intro w h; cases h
  have := d.isLt
  have := a.isLt
  have := c.isLt
  simp only [put]; omega
theorem cpyerrClear (h : Nat) : Statement (.cpyerrClear h) := by
  intro w h; cases h
theorem endIter : Statement (.endIter) := by
  intro w h; cases h
  decide
theorem trap (n : BitVec 6) : Statement (.trap n) := by
  intro w h; cases h
  have := n.isLt
  simp only [put]; omega
theorem eret : Statement (.eret) := by
  intro w h; cases h
  decide
theorem fence (k : BitVec 2) (s : BitVec 3) : Statement (.fence k s) := by
  intro w h; cases h
  have := k.isLt
  have := s.isLt
  simp only [put]; omega
theorem lsync : Statement (.lsync) := by
  intro w h; cases h
  decide
theorem waitm (d : BitVec 5) (a : BitVec 5) (b : BitVec 5) : Statement (.waitm d a b) := by
  intro w h; cases h
  have := d.isLt
  have := a.isLt
  have := b.isLt
  simp only [put]; omega
theorem waitmRecheck (h : Nat) : Statement (.waitmRecheck h) := by
  intro w h; cases h
theorem yield : Statement (.yield) := by
  intro w h; cases h
  decide
theorem yieldRelease (h : Nat) : Statement (.yieldRelease h) := by
  intro w h; cases h
theorem lpreq (d : BitVec 5) (a : BitVec 5) : Statement (.lpreq d a) := by
  intro w h; cases h
  have := d.isLt
  have := a.isLt
  simp only [put]; omega
theorem forkl (d : BitVec 5) (a : BitVec 5) : Statement (.forkl d a) := by
  intro w h; cases h
  have := d.isLt
  have := a.isLt
  simp only [put]; omega
theorem joinl (a : BitVec 5) : Statement (.joinl a) := by
  intro w h; cases h
  have := a.isLt
  simp only [put]; omega
theorem vrel : Statement (.vrel) := by
  intro w h; cases h
  decide
theorem ctxsave (a : BitVec 5) : Statement (.ctxsave a) := by
  intro w h; cases h
  have := a.isLt
  simp only [put]; omega
theorem ctxrest (a : BitVec 5) : Statement (.ctxrest a) := by
  intro w h; cases h
  have := a.isLt
  simp only [put]; omega
theorem tlbinvPage (a : BitVec 5) (b : BitVec 5) : Statement (.tlbinvPage a b) := by
  intro w h; cases h
  have := a.isLt
  have := b.isLt
  simp only [put]; omega
theorem tlbinvCtx (b : BitVec 5) : Statement (.tlbinvCtx b) := by
  intro w h; cases h
  have := b.isLt
  simp only [put]; omega
theorem tlbinvAll : Statement (.tlbinvAll) := by
  intro w h; cases h
  decide
theorem nest (d : BitVec 5) (a : BitVec 5) : Statement (.nest d a) := by
  intro w h; cases h
  have := d.isLt
  have := a.isLt
  simp only [put]; omega
theorem nwithdraw (a : BitVec 5) : Statement (.nwithdraw a) := by
  intro w h; cases h
  have := a.isLt
  simp only [put]; omega
theorem nstat (d : BitVec 5) (a : BitVec 5) : Statement (.nstat d a) := by
  intro w h; cases h
  have := d.isLt
  have := a.isLt
  simp only [put]; omega
theorem sbind (d : BitVec 5) (a : BitVec 5) : Statement (.sbind d a) := by
  intro w h; cases h
  have := d.isLt
  have := a.isLt
  simp only [put]; omega
theorem sfree (d : BitVec 5) : Statement (.sfree d) := by
  intro w h; cases h
  have := d.isLt
  simp only [put]; omega
theorem sstat (d : BitVec 5) (b : BitVec 5) : Statement (.sstat d b) := by
  intro w h; cases h
  have := d.isLt
  have := b.isLt
  simp only [put]; omega
theorem setvl (d : BitVec 5) (a : BitVec 5) (h : BitVec 3) (f : BitVec 5) (k : BitVec 2) (o : BitVec 2) (r : BitVec 3) : Statement (.setvl d a h f k o r) := by
  intro w h; cases h
  have := d.isLt
  have := a.isLt
  have := h.isLt
  have := f.isLt
  have := k.isLt
  have := o.isLt
  have := r.isLt
  simp only [put]; omega
theorem vldseg (d : BitVec 5) (a : BitVec 5) (b : BitVec 5) (s : BitVec 3) (m : BitVec 3) (f : BitVec 5) : Statement (.vldseg d a b s m f) := by
  intro w h; cases h
  have := d.isLt
  have := a.isLt
  have := b.isLt
  have := s.isLt
  have := m.isLt
  have := f.isLt
  simp only [put]; omega
theorem vstseg (d : BitVec 5) (a : BitVec 5) (b : BitVec 5) (s : BitVec 3) (m : BitVec 3) (f : BitVec 5) : Statement (.vstseg d a b s m f) := by
  intro w h; cases h
  have := d.isLt
  have := a.isLt
  have := b.isLt
  have := s.isLt
  have := m.isLt
  have := f.isLt
  simp only [put]; omega
theorem vadd (d : BitVec 5) (a : BitVec 5) (b : BitVec 5) (s : BitVec 3) (m : BitVec 3) : Statement (.vadd d a b s m) := by
  intro w h; cases h
  have := d.isLt
  have := a.isLt
  have := b.isLt
  have := s.isLt
  have := m.isLt
  simp only [put]; omega
theorem vsub (d : BitVec 5) (a : BitVec 5) (b : BitVec 5) (s : BitVec 3) (m : BitVec 3) : Statement (.vsub d a b s m) := by
  intro w h; cases h
  have := d.isLt
  have := a.isLt
  have := b.isLt
  have := s.isLt
  have := m.isLt
  simp only [put]; omega
theorem vmul (d : BitVec 5) (a : BitVec 5) (b : BitVec 5) (s : BitVec 3) (m : BitVec 3) : Statement (.vmul d a b s m) := by
  intro w h; cases h
  have := d.isLt
  have := a.isLt
  have := b.isLt
  have := s.isLt
  have := m.isLt
  simp only [put]; omega
theorem vmulh (d : BitVec 5) (a : BitVec 5) (b : BitVec 5) (s : BitVec 3) (m : BitVec 3) : Statement (.vmulh d a b s m) := by
  intro w h; cases h
  have := d.isLt
  have := a.isLt
  have := b.isLt
  have := s.isLt
  have := m.isLt
  simp only [put]; omega
theorem vmacc (d : BitVec 5) (a : BitVec 5) (b : BitVec 5) (s : BitVec 3) (m : BitVec 3) : Statement (.vmacc d a b s m) := by
  intro w h; cases h
  have := d.isLt
  have := a.isLt
  have := b.isLt
  have := s.isLt
  have := m.isLt
  simp only [put]; omega
theorem vsadd (d : BitVec 5) (a : BitVec 5) (b : BitVec 5) (s : BitVec 3) (m : BitVec 3) : Statement (.vsadd d a b s m) := by
  intro w h; cases h
  have := d.isLt
  have := a.isLt
  have := b.isLt
  have := s.isLt
  have := m.isLt
  simp only [put]; omega
theorem vssub (d : BitVec 5) (a : BitVec 5) (b : BitVec 5) (s : BitVec 3) (m : BitVec 3) : Statement (.vssub d a b s m) := by
  intro w h; cases h
  have := d.isLt
  have := a.isLt
  have := b.isLt
  have := s.isLt
  have := m.isLt
  simp only [put]; omega
theorem vmin (d : BitVec 5) (a : BitVec 5) (b : BitVec 5) (s : BitVec 3) (m : BitVec 3) : Statement (.vmin d a b s m) := by
  intro w h; cases h
  have := d.isLt
  have := a.isLt
  have := b.isLt
  have := s.isLt
  have := m.isLt
  simp only [put]; omega
theorem vmax (d : BitVec 5) (a : BitVec 5) (b : BitVec 5) (s : BitVec 3) (m : BitVec 3) : Statement (.vmax d a b s m) := by
  intro w h; cases h
  have := d.isLt
  have := a.isLt
  have := b.isLt
  have := s.isLt
  have := m.isLt
  simp only [put]; omega
theorem vand (d : BitVec 5) (a : BitVec 5) (b : BitVec 5) (s : BitVec 3) (m : BitVec 3) : Statement (.vand d a b s m) := by
  intro w h; cases h
  have := d.isLt
  have := a.isLt
  have := b.isLt
  have := s.isLt
  have := m.isLt
  simp only [put]; omega
theorem vor (d : BitVec 5) (a : BitVec 5) (b : BitVec 5) (s : BitVec 3) (m : BitVec 3) : Statement (.vor d a b s m) := by
  intro w h; cases h
  have := d.isLt
  have := a.isLt
  have := b.isLt
  have := s.isLt
  have := m.isLt
  simp only [put]; omega
theorem vxor (d : BitVec 5) (a : BitVec 5) (b : BitVec 5) (s : BitVec 3) (m : BitVec 3) : Statement (.vxor d a b s m) := by
  intro w h; cases h
  have := d.isLt
  have := a.isLt
  have := b.isLt
  have := s.isLt
  have := m.isLt
  simp only [put]; omega
theorem vsll (d : BitVec 5) (a : BitVec 5) (b : BitVec 5) (s : BitVec 3) (m : BitVec 3) : Statement (.vsll d a b s m) := by
  intro w h; cases h
  have := d.isLt
  have := a.isLt
  have := b.isLt
  have := s.isLt
  have := m.isLt
  simp only [put]; omega
theorem vsrl (d : BitVec 5) (a : BitVec 5) (b : BitVec 5) (s : BitVec 3) (m : BitVec 3) : Statement (.vsrl d a b s m) := by
  intro w h; cases h
  have := d.isLt
  have := a.isLt
  have := b.isLt
  have := s.isLt
  have := m.isLt
  simp only [put]; omega
theorem vsra (d : BitVec 5) (a : BitVec 5) (b : BitVec 5) (s : BitVec 3) (m : BitVec 3) : Statement (.vsra d a b s m) := by
  intro w h; cases h
  have := d.isLt
  have := a.isLt
  have := b.isLt
  have := s.isLt
  have := m.isLt
  simp only [put]; omega
theorem vmerge (d : BitVec 5) (a : BitVec 5) (b : BitVec 5) (s : BitVec 3) (m : BitVec 3) : Statement (.vmerge d a b s m) := by
  intro w h; cases h
  have := d.isLt
  have := a.isLt
  have := b.isLt
  have := s.isLt
  have := m.isLt
  simp only [put]; omega
theorem vcmpEq (d : BitVec 5) (a : BitVec 5) (b : BitVec 5) (s : BitVec 3) (m : BitVec 3) : Statement (.vcmpEq d a b s m) := by
  intro w h; cases h
  have := d.isLt
  have := a.isLt
  have := b.isLt
  have := s.isLt
  have := m.isLt
  simp only [put]; omega
theorem vcmpNe (d : BitVec 5) (a : BitVec 5) (b : BitVec 5) (s : BitVec 3) (m : BitVec 3) : Statement (.vcmpNe d a b s m) := by
  intro w h; cases h
  have := d.isLt
  have := a.isLt
  have := b.isLt
  have := s.isLt
  have := m.isLt
  simp only [put]; omega
theorem vcmpLt (d : BitVec 5) (a : BitVec 5) (b : BitVec 5) (s : BitVec 3) (m : BitVec 3) : Statement (.vcmpLt d a b s m) := by
  intro w h; cases h
  have := d.isLt
  have := a.isLt
  have := b.isLt
  have := s.isLt
  have := m.isLt
  simp only [put]; omega
theorem vcmpLe (d : BitVec 5) (a : BitVec 5) (b : BitVec 5) (s : BitVec 3) (m : BitVec 3) : Statement (.vcmpLe d a b s m) := by
  intro w h; cases h
  have := d.isLt
  have := a.isLt
  have := b.isLt
  have := s.isLt
  have := m.isLt
  simp only [put]; omega
theorem vcmpGt (d : BitVec 5) (a : BitVec 5) (b : BitVec 5) (s : BitVec 3) (m : BitVec 3) : Statement (.vcmpGt d a b s m) := by
  intro w h; cases h
  have := d.isLt
  have := a.isLt
  have := b.isLt
  have := s.isLt
  have := m.isLt
  simp only [put]; omega
theorem vcmpGe (d : BitVec 5) (a : BitVec 5) (b : BitVec 5) (s : BitVec 3) (m : BitVec 3) : Statement (.vcmpGe d a b s m) := by
  intro w h; cases h
  have := d.isLt
  have := a.isLt
  have := b.isLt
  have := s.isLt
  have := m.isLt
  simp only [put]; omega
theorem vnshrTz (d : BitVec 5) (a : BitVec 5) (b : BitVec 5) (s : BitVec 3) (m : BitVec 3) : Statement (.vnshrTz d a b s m) := by
  intro w h; cases h
  have := d.isLt
  have := a.isLt
  have := b.isLt
  have := s.isLt
  have := m.isLt
  simp only [put]; omega
theorem vnshrHu (d : BitVec 5) (a : BitVec 5) (b : BitVec 5) (s : BitVec 3) (m : BitVec 3) : Statement (.vnshrHu d a b s m) := by
  intro w h; cases h
  have := d.isLt
  have := a.isLt
  have := b.isLt
  have := s.isLt
  have := m.isLt
  simp only [put]; omega
theorem vnshrHe (d : BitVec 5) (a : BitVec 5) (b : BitVec 5) (s : BitVec 3) (m : BitVec 3) : Statement (.vnshrHe d a b s m) := by
  intro w h; cases h
  have := d.isLt
  have := a.isLt
  have := b.isLt
  have := s.isLt
  have := m.isLt
  simp only [put]; omega
theorem vnshrOd (d : BitVec 5) (a : BitVec 5) (b : BitVec 5) (s : BitVec 3) (m : BitVec 3) : Statement (.vnshrOd d a b s m) := by
  intro w h; cases h
  have := d.isLt
  have := a.isLt
  have := b.isLt
  have := s.isLt
  have := m.isLt
  simp only [put]; omega
theorem vmv (d : BitVec 5) (a : BitVec 5) (s : BitVec 3) (m : BitVec 3) : Statement (.vmv d a s m) := by
  intro w h; cases h
  have := d.isLt
  have := a.isLt
  have := s.isLt
  have := m.isLt
  simp only [put]; omega
theorem vsplat (d : BitVec 5) (a : BitVec 5) (s : BitVec 3) (m : BitVec 3) : Statement (.vsplat d a s m) := by
  intro w h; cases h
  have := d.isLt
  have := a.isLt
  have := s.isLt
  have := m.isLt
  simp only [put]; omega
theorem vid (d : BitVec 5) (s : BitVec 3) (m : BitVec 3) : Statement (.vid d s m) := by
  intro w h; cases h
  have := d.isLt
  have := s.isLt
  have := m.isLt
  simp only [put]; omega
theorem viota (d : BitVec 5) (a : BitVec 5) (s : BitVec 3) (m : BitVec 3) : Statement (.viota d a s m) := by
  intro w h; cases h
  have := d.isLt
  have := a.isLt
  have := s.isLt
  have := m.isLt
  simp only [put]; omega
theorem mand (d : BitVec 5) (a : BitVec 5) (b : BitVec 5) (s : BitVec 3) : Statement (.mand d a b s) := by
  intro w h; cases h
  have := d.isLt
  have := a.isLt
  have := b.isLt
  have := s.isLt
  simp only [put]; omega
theorem mor (d : BitVec 5) (a : BitVec 5) (b : BitVec 5) (s : BitVec 3) : Statement (.mor d a b s) := by
  intro w h; cases h
  have := d.isLt
  have := a.isLt
  have := b.isLt
  have := s.isLt
  simp only [put]; omega
theorem mxor (d : BitVec 5) (a : BitVec 5) (b : BitVec 5) (s : BitVec 3) : Statement (.mxor d a b s) := by
  intro w h; cases h
  have := d.isLt
  have := a.isLt
  have := b.isLt
  have := s.isLt
  simp only [put]; omega
theorem mandn (d : BitVec 5) (a : BitVec 5) (b : BitVec 5) (s : BitVec 3) : Statement (.mandn d a b s) := by
  intro w h; cases h
  have := d.isLt
  have := a.isLt
  have := b.isLt
  have := s.isLt
  simp only [put]; omega
theorem mpop (d : BitVec 5) (a : BitVec 5) (s : BitVec 3) (m : BitVec 3) : Statement (.mpop d a s m) := by
  intro w h; cases h
  have := d.isLt
  have := a.isLt
  have := s.isLt
  have := m.isLt
  simp only [put]; omega
theorem mfirst (d : BitVec 5) (a : BitVec 5) (s : BitVec 3) (m : BitVec 3) : Statement (.mfirst d a s m) := by
  intro w h; cases h
  have := d.isLt
  have := a.isLt
  have := s.isLt
  have := m.isLt
  simp only [put]; omega
theorem vmovs (d : BitVec 5) (a : BitVec 5) (b : BitVec 5) (s : BitVec 3) : Statement (.vmovs d a b s) := by
  intro w h; cases h
  have := d.isLt
  have := a.isLt
  have := b.isLt
  have := s.isLt
  simp only [put]; omega
theorem vins (d : BitVec 5) (a : BitVec 5) (b : BitVec 5) (s : BitVec 3) : Statement (.vins d a b s) := by
  intro w h; cases h
  have := d.isLt
  have := a.isLt
  have := b.isLt
  have := s.isLt
  simp only [put]; omega
theorem vperm (d : BitVec 5) (a : BitVec 5) (b : BitVec 5) (s : BitVec 3) (m : BitVec 3) : Statement (.vperm d a b s m) := by
  intro w h; cases h
  have := d.isLt
  have := a.isLt
  have := b.isLt
  have := s.isLt
  have := m.isLt
  simp only [put]; omega
theorem vslideUp (d : BitVec 5) (a : BitVec 5) (b : BitVec 5) (s : BitVec 3) (m : BitVec 3) : Statement (.vslideUp d a b s m) := by
  intro w h; cases h
  have := d.isLt
  have := a.isLt
  have := b.isLt
  have := s.isLt
  have := m.isLt
  simp only [put]; omega
theorem vslideDn (d : BitVec 5) (a : BitVec 5) (b : BitVec 5) (s : BitVec 3) (m : BitVec 3) : Statement (.vslideDn d a b s m) := by
  intro w h; cases h
  have := d.isLt
  have := a.isLt
  have := b.isLt
  have := s.isLt
  have := m.isLt
  simp only [put]; omega
theorem vreshape (d : BitVec 5) (a : BitVec 5) (k : BitVec 5) (s : BitVec 3) (m : BitVec 3) : Statement (.vreshape d a k s m) := by
  intro w h; cases h
  have := d.isLt
  have := a.isLt
  have := k.isLt
  have := s.isLt
  have := m.isLt
  simp only [put]; omega
theorem vbcast (d : BitVec 5) (a : BitVec 5) (b : BitVec 5) (s : BitVec 3) (m : BitVec 3) : Statement (.vbcast d a b s m) := by
  intro w h; cases h
  have := d.isLt
  have := a.isLt
  have := b.isLt
  have := s.isLt
  have := m.isLt
  simp only [put]; omega
theorem vunpack (d : BitVec 5) (a : BitVec 5) (s : BitVec 3) (m : BitVec 3) : Statement (.vunpack d a s m) := by
  intro w h; cases h
  have := d.isLt
  have := a.isLt
  have := s.isLt
  have := m.isLt
  simp only [put]; omega
theorem vlut (d : BitVec 5) (a : BitVec 5) (b : BitVec 5) (s : BitVec 3) (m : BitVec 3) : Statement (.vlut d a b s m) := by
  intro w h; cases h
  have := d.isLt
  have := a.isLt
  have := b.isLt
  have := s.isLt
  have := m.isLt
  simp only [put]; omega
theorem vexpand (d : BitVec 5) (a : BitVec 5) (s : BitVec 3) (m : BitVec 3) : Statement (.vexpand d a s m) := by
  intro w h; cases h
  have := d.isLt
  have := a.isLt
  have := s.isLt
  have := m.isLt
  simp only [put]; omega
theorem vcompress (d : BitVec 5) (a : BitVec 5) (s : BitVec 3) (m : BitVec 3) : Statement (.vcompress d a s m) := by
  intro w h; cases h
  have := d.isLt
  have := a.isLt
  have := s.isLt
  have := m.isLt
  simp only [put]; omega
theorem vfadd (d : BitVec 5) (a : BitVec 5) (b : BitVec 5) (s : BitVec 3) (m : BitVec 3) : Statement (.vfadd d a b s m) := by
  intro w h; cases h
  have := d.isLt
  have := a.isLt
  have := b.isLt
  have := s.isLt
  have := m.isLt
  simp only [put]; omega
theorem vfsub (d : BitVec 5) (a : BitVec 5) (b : BitVec 5) (s : BitVec 3) (m : BitVec 3) : Statement (.vfsub d a b s m) := by
  intro w h; cases h
  have := d.isLt
  have := a.isLt
  have := b.isLt
  have := s.isLt
  have := m.isLt
  simp only [put]; omega
theorem vfmul (d : BitVec 5) (a : BitVec 5) (b : BitVec 5) (s : BitVec 3) (m : BitVec 3) : Statement (.vfmul d a b s m) := by
  intro w h; cases h
  have := d.isLt
  have := a.isLt
  have := b.isLt
  have := s.isLt
  have := m.isLt
  simp only [put]; omega
theorem vfma (d : BitVec 5) (a : BitVec 5) (b : BitVec 5) (s : BitVec 3) (m : BitVec 3) : Statement (.vfma d a b s m) := by
  intro w h; cases h
  have := d.isLt
  have := a.isLt
  have := b.isLt
  have := s.isLt
  have := m.isLt
  simp only [put]; omega
theorem vfms (d : BitVec 5) (a : BitVec 5) (b : BitVec 5) (s : BitVec 3) (m : BitVec 3) : Statement (.vfms d a b s m) := by
  intro w h; cases h
  have := d.isLt
  have := a.isLt
  have := b.isLt
  have := s.isLt
  have := m.isLt
  simp only [put]; omega
theorem vfnma (d : BitVec 5) (a : BitVec 5) (b : BitVec 5) (s : BitVec 3) (m : BitVec 3) : Statement (.vfnma d a b s m) := by
  intro w h; cases h
  have := d.isLt
  have := a.isLt
  have := b.isLt
  have := s.isLt
  have := m.isLt
  simp only [put]; omega
theorem vfdiv (d : BitVec 5) (a : BitVec 5) (b : BitVec 5) (s : BitVec 3) (m : BitVec 3) : Statement (.vfdiv d a b s m) := by
  intro w h; cases h
  have := d.isLt
  have := a.isLt
  have := b.isLt
  have := s.isLt
  have := m.isLt
  simp only [put]; omega
theorem vfsqrt (d : BitVec 5) (a : BitVec 5) (s : BitVec 3) (m : BitVec 3) : Statement (.vfsqrt d a s m) := by
  intro w h; cases h
  have := d.isLt
  have := a.isLt
  have := s.isLt
  have := m.isLt
  simp only [put]; omega
theorem vfmin (d : BitVec 5) (a : BitVec 5) (b : BitVec 5) (s : BitVec 3) (m : BitVec 3) : Statement (.vfmin d a b s m) := by
  intro w h; cases h
  have := d.isLt
  have := a.isLt
  have := b.isLt
  have := s.isLt
  have := m.isLt
  simp only [put]; omega
theorem vfmax (d : BitVec 5) (a : BitVec 5) (b : BitVec 5) (s : BitVec 3) (m : BitVec 3) : Statement (.vfmax d a b s m) := by
  intro w h; cases h
  have := d.isLt
  have := a.isLt
  have := b.isLt
  have := s.isLt
  have := m.isLt
  simp only [put]; omega
theorem vfcmpEq (d : BitVec 5) (a : BitVec 5) (b : BitVec 5) (s : BitVec 3) (m : BitVec 3) : Statement (.vfcmpEq d a b s m) := by
  intro w h; cases h
  have := d.isLt
  have := a.isLt
  have := b.isLt
  have := s.isLt
  have := m.isLt
  simp only [put]; omega
theorem vfcmpNe (d : BitVec 5) (a : BitVec 5) (b : BitVec 5) (s : BitVec 3) (m : BitVec 3) : Statement (.vfcmpNe d a b s m) := by
  intro w h; cases h
  have := d.isLt
  have := a.isLt
  have := b.isLt
  have := s.isLt
  have := m.isLt
  simp only [put]; omega
theorem vfcmpLt (d : BitVec 5) (a : BitVec 5) (b : BitVec 5) (s : BitVec 3) (m : BitVec 3) : Statement (.vfcmpLt d a b s m) := by
  intro w h; cases h
  have := d.isLt
  have := a.isLt
  have := b.isLt
  have := s.isLt
  have := m.isLt
  simp only [put]; omega
theorem vfcmpLe (d : BitVec 5) (a : BitVec 5) (b : BitVec 5) (s : BitVec 3) (m : BitVec 3) : Statement (.vfcmpLe d a b s m) := by
  intro w h; cases h
  have := d.isLt
  have := a.isLt
  have := b.isLt
  have := s.isLt
  have := m.isLt
  simp only [put]; omega
theorem vfcmpGt (d : BitVec 5) (a : BitVec 5) (b : BitVec 5) (s : BitVec 3) (m : BitVec 3) : Statement (.vfcmpGt d a b s m) := by
  intro w h; cases h
  have := d.isLt
  have := a.isLt
  have := b.isLt
  have := s.isLt
  have := m.isLt
  simp only [put]; omega
theorem vfcmpGe (d : BitVec 5) (a : BitVec 5) (b : BitVec 5) (s : BitVec 3) (m : BitVec 3) : Statement (.vfcmpGe d a b s m) := by
  intro w h; cases h
  have := d.isLt
  have := a.isLt
  have := b.isLt
  have := s.isLt
  have := m.isLt
  simp only [put]; omega
theorem vfcmpUn (d : BitVec 5) (a : BitVec 5) (b : BitVec 5) (s : BitVec 3) (m : BitVec 3) : Statement (.vfcmpUn d a b s m) := by
  intro w h; cases h
  have := d.isLt
  have := a.isLt
  have := b.isLt
  have := s.isLt
  have := m.isLt
  simp only [put]; omega
theorem vfsgnJ (d : BitVec 5) (a : BitVec 5) (b : BitVec 5) (s : BitVec 3) (m : BitVec 3) : Statement (.vfsgnJ d a b s m) := by
  intro w h; cases h
  have := d.isLt
  have := a.isLt
  have := b.isLt
  have := s.isLt
  have := m.isLt
  simp only [put]; omega
theorem vfsgnJn (d : BitVec 5) (a : BitVec 5) (b : BitVec 5) (s : BitVec 3) (m : BitVec 3) : Statement (.vfsgnJn d a b s m) := by
  intro w h; cases h
  have := d.isLt
  have := a.isLt
  have := b.isLt
  have := s.isLt
  have := m.isLt
  simp only [put]; omega
theorem vfsgnJx (d : BitVec 5) (a : BitVec 5) (b : BitVec 5) (s : BitVec 3) (m : BitVec 3) : Statement (.vfsgnJx d a b s m) := by
  intro w h; cases h
  have := d.isLt
  have := a.isLt
  have := b.isLt
  have := s.isLt
  have := m.isLt
  simp only [put]; omega
theorem vfclass (d : BitVec 5) (a : BitVec 5) (s : BitVec 3) (m : BitVec 3) : Statement (.vfclass d a s m) := by
  intro w h; cases h
  have := d.isLt
  have := a.isLt
  have := s.isLt
  have := m.isLt
  simp only [put]; omega
theorem vfrcp (d : BitVec 5) (a : BitVec 5) (s : BitVec 3) (m : BitVec 3) : Statement (.vfrcp d a s m) := by
  intro w h; cases h
  have := d.isLt
  have := a.isLt
  have := s.isLt
  have := m.isLt
  simp only [put]; omega
theorem vfrsq (d : BitVec 5) (a : BitVec 5) (s : BitVec 3) (m : BitVec 3) : Statement (.vfrsq d a s m) := by
  intro w h; cases h
  have := d.isLt
  have := a.isLt
  have := s.isLt
  have := m.isLt
  simp only [put]; omega
theorem vfexp2 (d : BitVec 5) (a : BitVec 5) (s : BitVec 3) (m : BitVec 3) : Statement (.vfexp2 d a s m) := by
  intro w h; cases h
  have := d.isLt
  have := a.isLt
  have := s.isLt
  have := m.isLt
  simp only [put]; omega
theorem vflog2 (d : BitVec 5) (a : BitVec 5) (s : BitVec 3) (m : BitVec 3) : Statement (.vflog2 d a s m) := by
  intro w h; cases h
  have := d.isLt
  have := a.isLt
  have := s.isLt
  have := m.isLt
  simp only [put]; omega
theorem vsettle (d : BitVec 5) (a : BitVec 5) (s : BitVec 3) (m : BitVec 3) : Statement (.vsettle d a s m) := by
  intro w h; cases h
  have := d.isLt
  have := a.isLt
  have := s.isLt
  have := m.isLt
  simp only [put]; omega
theorem vtail (d : BitVec 5) (a : BitVec 5) (s : BitVec 3) (m : BitVec 3) : Statement (.vtail d a s m) := by
  intro w h; cases h
  have := d.isLt
  have := a.isLt
  have := s.isLt
  have := m.isLt
  simp only [put]; omega
theorem vcvt (d : BitVec 5) (a : BitVec 5) (t : BitVec 5) (s : BitVec 3) (m : BitVec 3) : Statement (.vcvt d a t s m) := by
  intro w h; cases h
  have := d.isLt
  have := a.isLt
  have := t.isLt
  have := s.isLt
  have := m.isLt
  simp only [put]; omega
theorem vredsumOrd (d : BitVec 5) (a : BitVec 5) (b : BitVec 5) (s : BitVec 3) (m : BitVec 3) : Statement (.vredsumOrd d a b s m) := by
  intro w h; cases h
  have := d.isLt
  have := a.isLt
  have := b.isLt
  have := s.isLt
  have := m.isLt
  simp only [put]; omega
theorem vredsumTree (d : BitVec 5) (a : BitVec 5) (s : BitVec 3) (m : BitVec 3) : Statement (.vredsumTree d a s m) := by
  intro w h; cases h
  have := d.isLt
  have := a.isLt
  have := s.isLt
  have := m.isLt
  simp only [put]; omega
theorem vredmax (d : BitVec 5) (a : BitVec 5) (s : BitVec 3) (m : BitVec 3) : Statement (.vredmax d a s m) := by
  intro w h; cases h
  have := d.isLt
  have := a.isLt
  have := s.isLt
  have := m.isLt
  simp only [put]; omega
theorem vredmin (d : BitVec 5) (a : BitVec 5) (s : BitVec 3) (m : BitVec 3) : Statement (.vredmin d a s m) := by
  intro w h; cases h
  have := d.isLt
  have := a.isLt
  have := s.isLt
  have := m.isLt
  simp only [put]; omega
theorem vargmax (d : BitVec 5) (a : BitVec 5) (s : BitVec 3) (m : BitVec 3) : Statement (.vargmax d a s m) := by
  intro w h; cases h
  have := d.isLt
  have := a.isLt
  have := s.isLt
  have := m.isLt
  simp only [put]; omega
theorem vscanAdd (d : BitVec 5) (a : BitVec 5) (s : BitVec 3) (m : BitVec 3) : Statement (.vscanAdd d a s m) := by
  intro w h; cases h
  have := d.isLt
  have := a.isLt
  have := s.isLt
  have := m.isLt
  simp only [put]; omega
theorem vscanMax (d : BitVec 5) (a : BitVec 5) (s : BitVec 3) (m : BitVec 3) : Statement (.vscanMax d a s m) := by
  intro w h; cases h
  have := d.isLt
  have := a.isLt
  have := s.isLt
  have := m.isLt
  simp only [put]; omega
theorem vtopk (d : BitVec 5) (a : BitVec 5) (k : BitVec 5) (s : BitVec 3) (m : BitVec 3) : Statement (.vtopk d a k s m) := by
  intro w h; cases h
  have := d.isLt
  have := a.isLt
  have := k.isLt
  have := s.isLt
  have := m.isLt
  simp only [put]; omega
theorem rgen (d : BitVec 5) (a : BitVec 5) (b : BitVec 5) (s : BitVec 3) (m : BitVec 3) : Statement (.rgen d a b s m) := by
  intro w h; cases h
  have := d.isLt
  have := a.isLt
  have := b.isLt
  have := s.isLt
  have := m.isLt
  simp only [put]; omega
theorem rgenTop (d : BitVec 5) (a : BitVec 5) (b : BitVec 5) (s : BitVec 3) (m : BitVec 3) : Statement (.rgenTop d a b s m) := by
  intro w h; cases h
  have := d.isLt
  have := a.isLt
  have := b.isLt
  have := s.isLt
  have := m.isLt
  simp only [put]; omega
theorem rmerge (d : BitVec 5) (a : BitVec 5) (b : BitVec 5) (s : BitVec 3) : Statement (.rmerge d a b s) := by
  intro w h; cases h
  have := d.isLt
  have := a.isLt
  have := b.isLt
  have := s.isLt
  simp only [put]; omega
theorem xsend (d : BitVec 5) (a : BitVec 5) (b : BitVec 5) (s : BitVec 3) (m : BitVec 3) : Statement (.xsend d a b s m) := by
  intro w h; cases h
  have := d.isLt
  have := a.isLt
  have := b.isLt
  have := s.isLt
  have := m.isLt
  simp only [put]; omega
theorem mext (d : BitVec 5) (a : BitVec 5) (t : BitVec 5) (s : BitVec 3) (m : BitVec 3) : Statement (.mext d a t s m) := by
  intro w h; cases h
  have := d.isLt
  have := a.isLt
  have := t.isLt
  have := s.isLt
  have := m.isLt
  simp only [put]; omega
theorem mplane (d : BitVec 5) (a : BitVec 5) (s : BitVec 3) (m : BitVec 3) : Statement (.mplane d a s m) := by
  intro w h; cases h
  have := d.isLt
  have := a.isLt
  have := s.isLt
  have := m.isLt
  simp only [put]; omega
theorem settile (d : BitVec 5) (a : BitVec 5) (s : BitVec 3) : Statement (.settile d a s) := by
  intro w h; cases h
  have := d.isLt
  have := a.isLt
  have := s.isLt
  simp only [put]; omega
theorem mzero (d : BitVec 5) (t : BitVec 1) : Statement (.mzero d t) := by
  intro w h; cases h
  have := d.isLt
  have := t.isLt
  simp only [put]; omega
theorem mmac (d : BitVec 5) (a : BitVec 5) (b : BitVec 5) (s : BitVec 3) (t : BitVec 1) : Statement (.mmac d a b s t) := by
  intro w h; cases h
  have := d.isLt
  have := a.isLt
  have := b.isLt
  have := s.isLt
  have := t.isLt
  simp only [put]; omega
theorem mmaci (d : BitVec 5) (a : BitVec 5) (b : BitVec 5) (s : BitVec 3) (t : BitVec 1) : Statement (.mmaci d a b s t) := by
  intro w h; cases h
  have := d.isLt
  have := a.isLt
  have := b.isLt
  have := s.isLt
  have := t.isLt
  simp only [put]; omega
theorem mspill (d : BitVec 5) (a : BitVec 5) (t : BitVec 1) : Statement (.mspill d a t) := by
  intro w h; cases h
  have := d.isLt
  have := a.isLt
  have := t.isLt
  simp only [put]; omega
theorem mfill (d : BitVec 5) (a : BitVec 5) (t : BitVec 1) : Statement (.mfill d a t) := by
  intro w h; cases h
  have := d.isLt
  have := a.isLt
  have := t.isLt
  simp only [put]; omega
theorem xopen (d : BitVec 5) (a : BitVec 5) : Statement (.xopen d a) := by
  intro w h; cases h
  have := d.isLt
  have := a.isLt
  simp only [put]; omega
theorem xsplit (d : BitVec 5) (a : BitVec 5) (b : BitVec 5) : Statement (.xsplit d a b) := by
  intro w h; cases h
  have := d.isLt
  have := a.isLt
  have := b.isLt
  simp only [put]; omega
theorem xpost (d : BitVec 5) (a : BitVec 5) (b : BitVec 5) : Statement (.xpost d a b) := by
  intro w h; cases h
  have := d.isLt
  have := a.isLt
  have := b.isLt
  simp only [put]; omega
theorem xend (d : BitVec 5) (a : BitVec 5) : Statement (.xend d a) := by
  intro w h; cases h
  have := d.isLt
  have := a.isLt
  simp only [put]; omega
theorem xstep (d : BitVec 5) (a : BitVec 5) : Statement (.xstep d a) := by
  intro w h; cases h
  have := d.isLt
  have := a.isLt
  simp only [put]; omega
theorem xfence (a : BitVec 5) : Statement (.xfence a) := by
  intro w h; cases h
  have := a.isLt
  simp only [put]; omega
theorem xstat (d : BitVec 5) (a : BitVec 5) (i : BitVec 4) : Statement (.xstat d a i) := by
  intro w h; cases h
  have := d.isLt
  have := a.isLt
  have := i.isLt
  simp only [put]; omega
theorem xsample (d : BitVec 5) (a : BitVec 5) : Statement (.xsample d a) := by
  intro w h; cases h
  have := d.isLt
  have := a.isLt
  simp only [put]; omega
theorem xsampleHost (d : BitVec 5) (a : BitVec 5) (b : BitVec 5) : Statement (.xsampleHost d a b) := by
  intro w h; cases h
  have := d.isLt
  have := a.isLt
  have := b.isLt
  simp only [put]; omega
theorem xclose (d : BitVec 5) (a : BitVec 5) : Statement (.xclose d a) := by
  intro w h; cases h
  have := d.isLt
  have := a.isLt
  simp only [put]; omega
theorem qopen (d : BitVec 5) (a : BitVec 5) : Statement (.qopen d a) := by
  intro w h; cases h
  have := d.isLt
  have := a.isLt
  simp only [put]; omega
theorem qmap (d : BitVec 5) (a : BitVec 5) (b : BitVec 5) : Statement (.qmap d a b) := by
  intro w h; cases h
  have := d.isLt
  have := a.isLt
  have := b.isLt
  simp only [put]; omega
theorem qinit (d : BitVec 5) (a : BitVec 5) (b : BitVec 5) : Statement (.qinit d a b) := by
  intro w h; cases h
  have := d.isLt
  have := a.isLt
  have := b.isLt
  simp only [put]; omega
theorem qgate (d : BitVec 5) (a : BitVec 5) (b : BitVec 5) : Statement (.qgate d a b) := by
  intro w h; cases h
  have := d.isLt
  have := a.isLt
  have := b.isLt
  simp only [put]; omega
theorem qdiag (d : BitVec 5) (a : BitVec 5) (b : BitVec 5) : Statement (.qdiag d a b) := by
  intro w h; cases h
  have := d.isLt
  have := a.isLt
  have := b.isLt
  simp only [put]; omega
theorem qswap (d : BitVec 5) (a : BitVec 5) (b : BitVec 5) : Statement (.qswap d a b) := by
  intro w h; cases h
  have := d.isLt
  have := a.isLt
  have := b.isLt
  simp only [put]; omega
theorem qprob (d : BitVec 5) (a : BitVec 5) (b : BitVec 5) : Statement (.qprob d a b) := by
  intro w h; cases h
  have := d.isLt
  have := a.isLt
  have := b.isLt
  simp only [put]; omega
theorem qproj (d : BitVec 5) (a : BitVec 5) (b : BitVec 5) : Statement (.qproj d a b) := by
  intro w h; cases h
  have := d.isLt
  have := a.isLt
  have := b.isLt
  simp only [put]; omega
theorem qread (d : BitVec 5) (a : BitVec 5) (b : BitVec 5) : Statement (.qread d a b) := by
  intro w h; cases h
  have := d.isLt
  have := a.isLt
  have := b.isLt
  simp only [put]; omega
theorem dcopy (d : BitVec 5) (a : BitVec 5) : Statement (.dcopy d a) := by
  intro w h; cases h
  have := d.isLt
  have := a.isLt
  simp only [put]; omega
theorem dfill (d : BitVec 5) (a : BitVec 5) : Statement (.dfill d a) := by
  intro w h; cases h
  have := d.isLt
  have := a.isLt
  simp only [put]; omega
theorem tread (d : BitVec 5) (x : BitVec 2) : Statement (.tread d x) := by
  intro w h; cases h
  have := d.isLt
  have := x.isLt
  simp only [put]; omega
theorem twait (a : BitVec 5) (x : BitVec 2) : Statement (.twait a x) := by
  intro w h; cases h
  have := a.isLt
  have := x.isLt
  simp only [put]; omega
theorem vredAdd (d : BitVec 5) (a : BitVec 5) (b : BitVec 5) (s : BitVec 3) (m : BitVec 3) (f : BitVec 5) : Statement (.vredAdd d a b s m f) := by
  intro w h; cases h
  have := d.isLt
  have := a.isLt
  have := b.isLt
  have := s.isLt
  have := m.isLt
  have := f.isLt
  simp only [put]; omega
theorem vredMin (d : BitVec 5) (a : BitVec 5) (b : BitVec 5) (s : BitVec 3) (m : BitVec 3) (f : BitVec 5) : Statement (.vredMin d a b s m f) := by
  intro w h; cases h
  have := d.isLt
  have := a.isLt
  have := b.isLt
  have := s.isLt
  have := m.isLt
  have := f.isLt
  simp only [put]; omega
theorem vredMax (d : BitVec 5) (a : BitVec 5) (b : BitVec 5) (s : BitVec 3) (m : BitVec 3) (f : BitVec 5) : Statement (.vredMax d a b s m f) := by
  intro w h; cases h
  have := d.isLt
  have := a.isLt
  have := b.isLt
  have := s.isLt
  have := m.isLt
  have := f.isLt
  simp only [put]; omega
theorem vspill (d : BitVec 5) (a : BitVec 5) (s : BitVec 3) : Statement (.vspill d a s) := by
  intro w h; cases h
  have := d.isLt
  have := a.isLt
  have := s.isLt
  simp only [put]; omega
theorem vfill (d : BitVec 5) (a : BitVec 5) (s : BitVec 3) : Statement (.vfill d a s) := by
  intro w h; cases h
  have := d.isLt
  have := a.isLt
  have := s.isLt
  simp only [put]; omega
theorem vld (d : BitVec 5) (a : BitVec 5) (b : BitVec 5) (s : BitVec 3) (m : BitVec 3) (f : BitVec 5) : Statement (.vld d a b s m f) := by
  intro w h; cases h
  have := d.isLt
  have := a.isLt
  have := b.isLt
  have := s.isLt
  have := m.isLt
  have := f.isLt
  simp only [put]; omega
theorem vst (d : BitVec 5) (a : BitVec 5) (b : BitVec 5) (s : BitVec 3) (m : BitVec 3) (f : BitVec 5) : Statement (.vst d a b s m f) := by
  intro w h; cases h
  have := d.isLt
  have := a.isLt
  have := b.isLt
  have := s.isLt
  have := m.isLt
  have := f.isLt
  simp only [put]; omega
theorem vlds (d : BitVec 5) (a : BitVec 5) (b : BitVec 5) (s : BitVec 3) (m : BitVec 3) (f : BitVec 5) : Statement (.vlds d a b s m f) := by
  intro w h; cases h
  have := d.isLt
  have := a.isLt
  have := b.isLt
  have := s.isLt
  have := m.isLt
  have := f.isLt
  simp only [put]; omega
theorem vsts (d : BitVec 5) (a : BitVec 5) (b : BitVec 5) (s : BitVec 3) (m : BitVec 3) (f : BitVec 5) : Statement (.vsts d a b s m f) := by
  intro w h; cases h
  have := d.isLt
  have := a.isLt
  have := b.isLt
  have := s.isLt
  have := m.isLt
  have := f.isLt
  simp only [put]; omega
theorem vldx (d : BitVec 5) (a : BitVec 5) (b : BitVec 5) (s : BitVec 3) (m : BitVec 3) (f : BitVec 5) : Statement (.vldx d a b s m f) := by
  intro w h; cases h
  have := d.isLt
  have := a.isLt
  have := b.isLt
  have := s.isLt
  have := m.isLt
  have := f.isLt
  simp only [put]; omega
theorem vstx (d : BitVec 5) (a : BitVec 5) (b : BitVec 5) (s : BitVec 3) (m : BitVec 3) (f : BitVec 5) : Statement (.vstx d a b s m f) := by
  intro w h; cases h
  have := d.isLt
  have := a.isLt
  have := b.isLt
  have := s.isLt
  have := m.isLt
  have := f.isLt
  simp only [put]; omega
theorem vldw (d : BitVec 5) (a : BitVec 5) (b : BitVec 5) (s : BitVec 3) (m : BitVec 3) (f : BitVec 5) : Statement (.vldw d a b s m f) := by
  intro w h; cases h
  have := d.isLt
  have := a.isLt
  have := b.isLt
  have := s.isLt
  have := m.isLt
  have := f.isLt
  simp only [put]; omega
theorem viqIssue (h : Nat) : Statement (.viqIssue h) := by
  intro w h; cases h
theorem vectorBeat (h : Nat) (n : Nat) : Statement (.vectorBeat h n) := by
  intro w h; cases h
theorem loadDataArrival (h : Nat) (n : Nat) : Statement (.loadDataArrival h n) := by
  intro w h; cases h
theorem vectorComplete (h : Nat) : Statement (.vectorComplete h) := by
  intro w h; cases h
theorem syncReadReturn (h : Nat) : Statement (.syncReadReturn h) := by
  intro w h; cases h
theorem streamFetch (h : Nat) (v : Nat) : Statement (.streamFetch h v) := by
  intro w h; cases h
theorem streamDrain (h : Nat) (v : Nat) : Statement (.streamDrain h v) := by
  intro w h; cases h
theorem takeTrap (h : Nat) : Statement (.takeTrap h) := by
  intro w h; cases h
theorem copyTransfer (h : Nat) : Statement (.copyTransfer h) := by
  intro w h; cases h
theorem copyComplete (h : Nat) : Statement (.copyComplete h) := by
  intro w h; cases h
theorem matrixKstep (h : Nat) : Statement (.matrixKstep h) := by
  intro w h; cases h
theorem matrixRowOp (h : Nat) : Statement (.matrixRowOp h) := by
  intro w h; cases h
theorem matrixComplete (h : Nat) : Statement (.matrixComplete h) := by
  intro w h; cases h
theorem mmaciRecordPoll (h : Nat) : Statement (.mmaciRecordPoll h) := by
  intro w h; cases h
theorem accColumnMove (h : Nat) : Statement (.accColumnMove h) := by
  intro w h; cases h
theorem lensCommandStart (slot : Nat) : Statement (.lensCommandStart slot) := by
  intro w h; cases h
theorem lensSwapSuperstep (slot : Nat) : Statement (.lensSwapSuperstep slot) := by
  intro w h; cases h
theorem lensCommandComplete (h : Nat) : Statement (.lensCommandComplete h) := by
  intro w h; cases h
theorem xopenRendezvous (tag : BitVec 32) : Statement (.xopenRendezvous tag) := by
  intro w h; cases h
theorem qopenRendezvous (tag : BitVec 32) : Statement (.qopenRendezvous tag) := by
  intro w h; cases h
theorem mergePass (slot : Nat) (recv : Nat) : Statement (.mergePass slot recv) := by
  intro w h; cases h
theorem tailLand (slot : Nat) (sender : Nat) (recv : Nat) : Statement (.tailLand slot sender recv) := by
  intro w h; cases h
theorem beaconRelease (slot : Nat) : Statement (.beaconRelease slot) := by
  intro w h; cases h
theorem buoyProbe (q : QueueId) (waitsFor : QueueId) : Statement (.buoyProbe q waitsFor) := by
  intro w h; cases h
theorem buoyTokenArrive (q : QueueId) (token : BitVec 64) (waitsFor : Option QueueId) : Statement (.buoyTokenArrive q token waitsFor) := by
  intro w h; cases h
theorem linkFlitReceive (port : Nat) (f : Flit) : Statement (.linkFlitReceive port f) := by
  intro w h; cases h
theorem linkAck (port : Nat) : Statement (.linkAck port) := by
  intro w h; cases h
theorem linkNakReplay (port : Nat) : Statement (.linkNakReplay port) := by
  intro w h; cases h
theorem linkLaneLoss (port : Nat) (loss : LaneLoss) : Statement (.linkLaneLoss port loss) := by
  intro w h; cases h
theorem linkRetrainDone (port : Nat) (ok : Bool) : Statement (.linkRetrainDone port ok) := by
  intro w h; cases h
theorem linkRecoveryTimer (port : Nat) : Statement (.linkRecoveryTimer port) := by
  intro w h; cases h
theorem llcWriteBack (stack : Nat) (line : Nat) : Statement (.llcWriteBack stack line) := by
  intro w h; cases h
theorem patrolScrub (w : CheckedWord) (r : ScrubResult) : Statement (.patrolScrub w r) := by
  intro w h; cases h
theorem walkerHandout (w : Nat) : Statement (.walkerHandout w) := by
  intro w h; cases h
theorem waitWordPoll (w : Nat) (k : Nat) : Statement (.waitWordPoll w k) := by
  intro w h; cases h
theorem ageingTick (nest : Nat) : Statement (.ageingTick nest) := by
  intro w h; cases h
theorem lpwaitExpiry (core : Nat) (slice : Nat) : Statement (.lpwaitExpiry core slice) := by
  intro w h; cases h
theorem haltRequest (h : Nat) (r : HaltReason) : Statement (.haltRequest h r) := by
  intro w h; cases h
theorem contextSave (h : Nat) : Statement (.contextSave h) := by
  intro w h; cases h
theorem owedWriteLand (k : Nat) (dataLost : Bool) : Statement (.owedWriteLand k dataLost) := by
  intro w h; cases h
theorem contextResume (w : Nat) : Statement (.contextResume w) := by
  intro w h; cases h
theorem coreRebind (core : Nat) (nest : Nat) : Statement (.coreRebind core nest) := by
  intro w h; cases h
theorem deadlineExpiry (nest : Nat) : Statement (.deadlineExpiry nest) := by
  intro w h; cases h
theorem nestStatusWrite (nest : Nat) : Statement (.nestStatusWrite nest) := by
  intro w h; cases h
theorem hostBarAccess (fn : Fn) (req : BarReq) : Statement (.hostBarAccess fn req) := by
  intro w h; cases h
theorem hostAtomicop (fn : Fn) (req : HostAtomic) : Statement (.hostAtomicop fn req) := by
  intro w h; cases h
theorem atsInvalidate (range : HostRange) (right : Option Bool) : Statement (.atsInvalidate range right) := by
  intro w h; cases h
theorem hostmodeWrite (v : BitVec 64) : Statement (.hostmodeWrite v) := by
  intro w h; cases h
theorem eventPost (fn : Fn) : Statement (.eventPost fn) := by
  intro w h; cases h
theorem keeperRequestServe (fn : Fn) : Statement (.keeperRequestServe fn) := by
  intro w h; cases h
theorem mailboxSensors (p : MailPort) : Statement (.mailboxSensors p) := by
  intro w h; cases h
theorem mailboxLogCopy (p : MailPort) : Statement (.mailboxLogCopy p) := by
  intro w h; cases h
theorem mailboxAttest (p : MailPort) : Statement (.mailboxAttest p) := by
  intro w h; cases h
theorem mailboxImageFetch (p : MailPort) (v : ImageCheck) : Statement (.mailboxImageFetch p v) := by
  intro w h; cases h
theorem mailboxFenceClear (p : MailPort) : Statement (.mailboxFenceClear p) := by
  intro w h; cases h
theorem mailboxActivate (p : MailPort) : Statement (.mailboxActivate p) := by
  intro w h; cases h
theorem mailboxPowerLimit (p : MailPort) : Statement (.mailboxPowerLimit p) := by
  intro w h; cases h
theorem mailboxRetrain (p : MailPort) : Statement (.mailboxRetrain p) := by
  intro w h; cases h
theorem mailboxReportRead (p : MailPort) : Statement (.mailboxReportRead p) := by
  intro w h; cases h
theorem i3cPrivateWrite (addr : BitVec 7) (data : List (BitVec 8)) : Statement (.i3cPrivateWrite addr data) := by
  intro w h; cases h
theorem i3cPrivateRead (addr : BitVec 7) (n : Nat) : Statement (.i3cPrivateRead addr n) := by
  intro w h; cases h
theorem i3cAddressAssign (addr : BitVec 7) : Statement (.i3cAddressAssign addr) := by
  intro w h; cases h
theorem sensorPoll (readings : List Sensor) : Statement (.sensorPoll readings) := by
  intro w h; cases h
theorem powerAdjust (watts : Nat) : Statement (.powerAdjust watts) := by
  intro w h; cases h
theorem deviceReset (passes : List BootPass) : Statement (.deviceReset passes) := by
  intro w h; cases h
theorem exchangeCommandComplete (h : Nat) : Statement (.exchangeCommandComplete h) := by
  intro w h; cases h
theorem storeQueueDrain (h : Nat) : Statement (.storeQueueDrain h) := by
  intro w h; cases h

end Sys2Proof.Laws.WordBound
end

