-- ==== Sys2Proof/Laws/Vector.lean ====
section
/-! SUPPORT. Vector instructions at the front end (07 R142): every one of them goes through one shared operation, and what that does. -/

namespace Sys2Proof.Machine

/-- Every vector instruction but xsend is the shared front-end operation on its shape registers and its operation. -/
theorem exec_vector (s : State) (i : Instr) (op : VOp) (hp : Powered s) (hx : ∀ d a b n m, i ≠ .xsend d a b n m)
    {f : Nat × Nat} (hf : shapeFields i = some f) (ho : vopOf s s.cur (vectorEntry s i) = some op) :
    exec i s = .next (commitVector i f.1 f.2 op s) := by
  cases i <;>
    first
    | (cases hf; done)
    | (exact absurd rfl (hx _ _ _ _ _))
    | (cases hf; cases ho; exact live_of s _ hp)

/-- The captures of an entry are those of its shape registers. -/
theorem vectorEntry_cap (s : State) (i : Instr) {f : Nat × Nat} (hf : shapeFields i = some f) :
    (vectorEntry s i).cap = captureOf s s.cur i f.1 f.2 := by simp [vectorEntry, hf]

/-- The operation of an entry does not read the lines that it names. -/
theorem vopOf_lines (s : State) (h : Nat) (e : VEntry) (l : List Nat) : vopOf s h { e with lines := l } = vopOf s h e := rfl

/-- An entry at the front end names the lines of its operation. -/
theorem vectorEntry_lines (s : State) (i : Instr) (op : VOp) (h : vopOf s s.cur (vectorEntry s i) = some op) :
    (vectorEntry s i).lines = opLines op (vectorEntry s i).cap := by
  have h' : vopOf s s.cur { vectorEntry s i with lines := [] } = some op := (vopOf_lines _ _ _ _).trans h
  have e : (vectorEntry s i).lines =
      ((vopOf s s.cur { vectorEntry s i with lines := [] }).map (fun op => opLines op (vectorEntry s i).cap)).getD [] := rfl
  rw [e, h']
  rfl

/-- An admitted instruction enters the VIQ; it runs on at once where nothing is older and the model does not run relaxed. -/
theorem commitVector_admitted (s : State) (i : Instr) (op : VOp) (h : Admitted s i op) {f : Nat × Nat} (hf : shapeFields i = some f) :
    commitVector i f.1 f.2 op s =
      if s.relaxed || !(curHart s).viq.isEmpty then vectorQueued s i else runEager op (vectorQueued s i) s.cur := by
  obtain ⟨_, _, hop, hv, hl, hs, hn, how⟩ := h
  have hlines := vectorEntry_lines s i op hop
  rw [vectorEntry_cap s i hf] at hl hs hlines
  have hn' : ¬ 32 ≤ (curHart s).viq.length := by omega
  have he : vectorEntry s i =
      { instr := i, pc := (curHart s).pc, cap := captureOf s s.cur i f.1 f.2, seq := (curHart s).vseq, prog := .sweep 0,
        issued := false, inflight := [], flags := 0, lines := opLines op (captureOf s s.cur i f.1 f.2), popped := 0, pushes := 0,
        entered := s.steps, cmds := (curHart s).eng.stamp } := by
    rw [← hlines]
    simp [vectorEntry, hf]
  simp only [commitVector, hv, hl, hs, hn', how, vectorQueued, he, Bool.or_self, Bool.not_true, Bool.false_eq_true, if_false, decide_false]

/-- An instruction that issues at once runs from the state of its issue; a synchronising read then returns. -/
theorem exec_issues (s s2 : State) (i : Instr) (op : VOp) (h : Issues s i op s2) (hx : ∀ d a b n m, i ≠ .xsend d a b n m) :
    exec i s = .next (syncReturn (runHead op s2 s.cur (vectorEntry s i)) s.cur) := by
  obtain ⟨ha, hr, hq, hrd, hcs, hpre, hi, _, _, _⟩ := h
  obtain ⟨f, hf⟩ := Option.isSome_iff_exists.1 ha.2.1
  rw [exec_vector s i op ha.1 hx hf ha.2.2.1, commitVector_admitted s i op ha hf, hr, hq]
  have hv : (getHart (vectorQueued s i) s.cur).viq = [vectorEntry s i] := by simp [vectorQueued, putCur, hq]
  simp only [runEager, hv, hrd, hcs, hpre, hi, List.isEmpty_nil, Bool.not_true, Bool.or_self, Bool.false_eq_true, if_false]

/-- An instruction that fails a check at capture, or meets a held image, is illegal. -/
theorem commitVector_illegal (s : State) (i : Instr) (op : VOp) {f : Nat × Nat} (hf : shapeFields i = some f)
    (h : (curHart s).vq = true ∨ op.legal (curHart s) (vectorEntry s i).cap = false ∨
      streamsOk (curHart s) op (vectorEntry s i).cap = false) :
    commitVector i f.1 f.2 op s = illegal s i := by
  rw [vectorEntry_cap s i hf] at h
  have e : ((curHart s).vq || !op.legal (curHart s) (captureOf s s.cur i f.1 f.2) ||
      !streamsOk (curHart s) op (captureOf s s.cur i f.1 f.2)) = true := by
    rcases h with h | h | h <;> simp [h]
  simp only [commitVector, e, if_true]

end Sys2Proof.Machine
end

