-- ==== Sys2Proof/Tests/Slice0.lean ====
section
/-! SUPPORT. Tests: ill-formed terms, words of every instruction, single steps with results from the manual, and for each statement a
witness of its hypotheses. -/

set_option Elab.async false

namespace Sys2Proof.Tests

open Sys2Proof Sys2Proof.Machine

/-! Small states. -/

/-- The first GiB mapped to itself for every access. -/
def page : TlbEntry :=
  { ctxid := 0, glb := false, vpage := 0, bits := 30, pa := 0, rd := true, wr := true, ex := true, usr := true, drt := true, cmp := false,
    mt := 0 }

/-- A core whose slices hart 0 holds, with that page. -/
def core : Core := { Core.reset with slices := Vector.replicate 4 (Slice.heldBy 0), tlb := [page] }

/-- A bound hart with some scalar registers. -/
def hart (rs : List (BitVec 5 × Word)) : Hart :=
  rs.foldl (fun x r => x.setS r.1 r.2) { Hart.reset with bound := true, ctx := 1, pc := 0x10000 }

/-- The state in which hart 0 is x and executes. -/
def st (x : Hart) : State :=
  { State.reset with harts := [(0, x)], cores := [(0, core)], boot := { Boot.reset with done := true, hostUp := true } }

/-- The same with bytes of memory, by physical address below 4 KiB of stack 0. -/
def stMem (x : Hart) (bs : List (Nat × Nat)) : State :=
  bs.foldl (fun s b => { s with mem := smSet 0 s.mem b.1 (BitVec.ofNat 8 b.2) }) (st x)

/-- x with the VIQ entry that vector instruction i makes in it. -/
def withEntry (x : Hart) (i : Instr) : Hart := { x with viq := [vectorEntry (st x) i] }

/-- The value of a success that passes a check. -/
def okAnd {ε α : Type} (r : Except ε α) (p : α → Bool) : Bool := match r with | .ok x => p x | .error _ => false

theorem okAnd_elim {ε α : Type} {r : Except ε α} {p : α → Bool} (h : okAnd r p = true) : ∃ x, r = .ok x ∧ p x = true := by
  cases r with
  | error t => cases h
  | ok x => exact ⟨x, rfl, h⟩

/-- A failure. -/
def errAnd {ε α : Type} (r : Except ε α) (p : ε → Bool) : Bool := match r with | .ok _ => false | .error t => p t

theorem errAnd_elim {ε α : Type} {r : Except ε α} {p : ε → Bool} (h : errAnd r p = true) : ∃ t, r = .error t ∧ p t = true := by
  cases r with
  | ok x => cases h
  | error t => exact ⟨t, rfl, h⟩

/-- A check of the next state of an outcome. -/
def nextAnd (o : Host.Outcome State Fault Refusal) (p : State → Bool) : Bool := match o with | .next t => p t | _ => false

theorem nextAnd_elim {o : Host.Outcome State Fault Refusal} {p : State → Bool} (h : nextAnd o p = true) :
    ∃ t, o = .next t ∧ p t = true := by
  cases o with
  | next t => exact ⟨t, rfl, h⟩
  | fault f => cases h
  | refused r => cases h

/-- Words of instructions with a major opcode of their own (03 Table 03.2). -/
theorem test_words_major_1 : ∀ p ∈ ([
    (0x0B8983DC, .addi 28 9 33756),
    (0x0CF48401, .andi 7 20 33793),
    (0x125F8426, .ori 18 31 33830),
    (0x17AA844B, .xori 29 10 33867),
    (0x19158470, .lhi 8 21 33904),
    (0x1E60B4B2, .cmpi 19 0 5 5298),
    (0x2BEC8529, .ldI8 31 12 34089),
    (0x2D57854E, .ldN8 10 23 34126),
    (0x32A28573, .ldI16 21 2 34163),
    (0x340D8598, .ldN16 0 13 34200),
    (0x397885BD, .ldI32 11 24 34237),
    (0x3EC385E2, .ldN32 22 3 34274),
    (0x402E8607, .ldI64 1 14 34311),
    (0x4599862C, .st8 12 25 34348),
    (0x4AE48651, .st16 23 4 34385),
    (0x4C4F8676, .st32 2 15 34422),
    (0x51BA869B, .st64 13 26 34459),
    (0x5B26872F, .beq 25 6 34607),
    (0x5C918754, .bne 4 17 34644),
    (0x61FC8779, .blt 15 28 34681),
    (0x6747879E, .bge 26 7 34718),
    (0x68B287C3, .bltn 5 18 34755),
    (0x6E1D87E8, .bgen 16 29 34792),
    (0x720007D3, .jmp 33556435),
    (0x760007F8, .jal 33556472),
    (0x7A3E8857, .jalr 17 30 34903),
    (0x7F89887C, .bstrip 28 9 34940),
    (0x80E088A1, .bvany 7 0 34977),
    (0x840088C6, .bvnone 0 0 35014),
    (0x9768A2C2, .setvl 27 8 5 2 3 0 1)] : List (Nat × Instr)),
    decodeWord p.1 = .ok p.2 ∧ encode p.2 = some p.1 := by decide

/-- Words of instructions with a major opcode of their own (03 Table 03.2). -/
theorem test_words_major_2 : ∀ p ∈ ([
    (0x98D31547, .vldseg 6 19 2 5 2 7),
    (0x9E3E10A0, .vstseg 17 30 2 0 5 0),
    (0xB15721C0, .vcvt 10 23 4 1 6),
    (0xD1DB4542, .vredAdd 14 27 8 5 2 2),
    (0xD72698A2, .vredMin 25 6 19 0 5 2),
    (0xD891F306, .vredMax 4 17 30 3 0 6),
    (0xE0B2FC26, .vld 5 18 31 4 1 6),
    (0xE61D5780, .vst 16 29 10 7 4 0),
    (0xEB68AAE0, .vlds 27 8 21 2 7 0),
    (0xECD30547, .vsts 6 19 0 5 2 7),
    (0xF23E58A0, .vldx 17 30 11 0 5 0),
    (0xF789B300, .vstx 28 9 22 3 0 0),
    (0xF8F40E6A, .vldw 7 20 1 6 3 10)] : List (Nat × Instr)),
    decodeWord p.1 = .ok p.2 ∧ encode p.2 = some p.1 := by decide

/-- Words of the family salu, from the encodings of the opcode table (03 R45 to R59). -/
theorem test_words_salu : ∀ p ∈ ([
    (0x05361800, .add 9 22 3),
    (0x06817001, .sub 20 1 14),
    (0x07ECC802, .mul 31 12 25),
    (0x05572003, .mulh 10 23 4),
    (0x06A27804, .mulhn 21 2 15),
    (0x040DD005, .div 0 13 26),
    (0x05782806, .divn 11 24 5),
    (0x06C38007, .rem 22 3 16),
    (0x042ED808, .remn 1 14 27),
    (0x05993009, .and 12 25 6),
    (0x06E4880A, .or 23 4 17),
    (0x044FE00B, .xor 2 15 28),
    (0x05BA380C, .sll 13 26 7),
    (0x0705900D, .srl 24 5 18),
    (0x0470E80E, .sra 3 16 29),
    (0x05DB400F, .min 14 27 8),
    (0x07269810, .max 25 6 19),
    (0x0491F011, .minn 4 17 30),
    (0x05FC4812, .maxn 15 28 9),
    (0x07470013, .clz 26 7),
    (0x04B20014, .ctz 5 18),
    (0x061D0015, .popc 16 29),
    (0x0768A856, .cmp 27 8 21 2),
    (0x04D30357, .csel 6 19 0 13),
    (0x063E5818, .lea 17 30 11 0)] : List (Nat × Instr)),
    decodeWord p.1 = .ok p.2 ∧ encode p.2 = some p.1 := by decide

/-- Words of the family shi, from the encodings of the opcode table (03 R45 to R59). -/
theorem test_words_shi : ∀ p ∈ ([
    (0x23CB003A, .slli 30 11 58),
    (0x2136007F, .srli 9 22 63),
    (0x228100A4, .srai 20 1 36)] : List (Nat × Instr)),
    decodeWord p.1 = .ok p.2 ∧ encode p.2 = some p.1 := by decide

/-- Words of the family amo, from the encodings of the opcode table (03 R45 to R59). -/
theorem test_words_amo : ∀ p ∈ ([
    (0x57059016, .amo 24 5 18 0 0 1 6),
    (0x5470E969, .cas 3 16 29 2 3 0),
    (0x540EDC20, .red 14 27 0 1 0 0)] : List (Nat × Instr)),
    decodeWord p.1 = .ok p.2 ∧ encode p.2 = some p.1 := by decide

/-- Words of the family csr, from the encodings of the opcode table (03 R45 to R59). -/
theorem test_words_csr : ∀ p ∈ ([
    (0x8BA00000, .csrr 29 0),
    (0x89150001, .csrw 8 21 0),
    (0x8A600002, .csrs 19 0 0),
    (0x8BCB0003, .csrc 30 11 0)] : List (Nat × Instr)),
    decodeWord p.1 = .ok p.2 ∧ encode p.2 = some p.1 := by decide

/-- Words of the family ctl, from the encodings of the opcode table (03 R45 to R59). -/
theorem test_words_ctl : ∀ p ∈ ([
    (0x8C000000, .endIter),
    (0x8C000541, .trap 42),
    (0x8C000002, .eret),
    (0x8C000203, .fence 2 0),
    (0x8C000004, .lsync),
    (0x8C0DD005, .waitm 0 13 26),
    (0x8C000006, .yield),
    (0x8EC30007, .lpreq 22 3),
    (0x8C2E0008, .forkl 1 14),
    (0x8C0C0009, .joinl 12),
    (0x8C00000A, .vrel),
    (0x8C02000B, .ctxsave 2),
    (0x8C0D000C, .ctxrest 13),
    (0x8C18280D, .tlbinvPage 24 5),
    (0x8C00182D, .tlbinvCtx 3),
    (0x8C00004D, .tlbinvAll),
    (0x8F26000E, .nest 25 6),
    (0x8C04000F, .nwithdraw 4),
    (0x8DFC0010, .nstat 15 28)] : List (Nat × Instr)),
    decodeWord p.1 = .ok p.2 ∧ encode p.2 = some p.1 := by decide

/-- Words of the family strm, from the encodings of the opcode table (03 R45 to R59). -/
theorem test_words_strm : ∀ p ∈ ([
    (0x93870000, .sbind 28 7),
    (0x93800001, .sfree 28),
    (0x9200E802, .sstat 16 29)] : List (Nat × Instr)),
    decodeWord p.1 = .ok p.2 ∧ encode p.2 = some p.1 := by decide

/-- Words of the family vint, from the encodings of the opcode table (03 R45 to R59). -/
theorem test_words_vint : ∀ p ∈ ([
    (0xA389B300, .vadd 28 9 22 3 0),
    (0xA0F40E61, .vsub 7 20 1 6 3),
    (0xA25F61C2, .vmul 18 31 12 1 6),
    (0xA3AABC23, .vmulh 29 10 23 4 1),
    (0xA1151784, .vmacc 8 21 2 7 4),
    (0xA2606AE5, .vsadd 19 0 13 2 7),
    (0xA3CBC546, .vssub 30 11 24 5 2),
    (0xA13618A7, .vmin 9 22 3 0 5),
    (0xA2817308, .vmax 20 1 14 3 0),
    (0xA3ECCE69, .vand 31 12 25 6 3),
    (0xA15721CA, .vor 10 23 4 1 6),
    (0xA2A27C2B, .vxor 21 2 15 4 1),
    (0xA00DD78C, .vsll 0 13 26 7 4),
    (0xA1782AED, .vsrl 11 24 5 2 7),
    (0xA2C3854E, .vsra 22 3 16 5 2),
    (0xA02ED8AF, .vmerge 1 14 27 0 5),
    (0xA0193310, .vcmpEq 0 25 6 3 0),
    (0xA0048E71, .vcmpNe 0 4 17 6 3),
    (0xA04FE1D2, .vcmpLt 2 15 28 1 6),
    (0xA01A3C33, .vcmpLe 0 26 7 4 1),
    (0xA0059794, .vcmpGt 0 5 18 7 4),
    (0xA070EAF5, .vcmpGe 3 16 29 2 7),
    (0xA1DB4556, .vnshrTz 14 27 8 5 2),
    (0xA32698B7, .vnshrHu 25 6 19 0 5),
    (0xA091F318, .vnshrHe 4 17 30 3 0),
    (0xA1FC4E79, .vnshrOd 15 28 9 6 3),
    (0xA347043A, .vmv 26 7 4 1),
    (0xA0B2079B, .vsplat 5 18 7 4),
    (0xA200055C, .vid 16 5 2),
    (0xA360055D, .viota 27 0 5 2)] : List (Nat × Instr)),
    decodeWord p.1 = .ok p.2 ∧ encode p.2 = some p.1 := by decide

/-- Words of the family vmov, from the encodings of the opcode table (03 R45 to R59). -/
theorem test_words_vmov : ∀ p ∈ ([
    (0xA4C00500, .mand 6 0 0 5),
    (0xA4000001, .mor 0 0 0 0),
    (0xA4000302, .mxor 0 0 0 3),
    (0xA4E00E03, .mandn 7 0 1 6),
    (0xA6400424, .mpop 18 0 4 1),
    (0xA7A00785, .mfirst 29 0 7 4),
    (0xA5151706, .vmovs 8 21 2 7),
    (0xA6606A07, .vins 19 0 13 2)] : List (Nat × Instr)),
    decodeWord p.1 = .ok p.2 ∧ encode p.2 = some p.1 := by decide

/-- Words of the family vxf, from the encodings of the opcode table (03 R45 to R59). -/
theorem test_words_vxf : ∀ p ∈ ([
    (0xABCBC540, .vperm 30 11 24 5 2),
    (0xA93618A1, .vslideUp 9 22 3 0 5),
    (0xAA817302, .vslideDn 20 1 14 3 0),
    (0xABEC0663, .vreshape 31 12 0 6 3),
    (0xA95721C4, .vbcast 10 23 4 1 6),
    (0xAAA20785, .vunpack 21 2 7 4),
    (0xA80DD786, .vlut 0 13 26 7 4),
    (0xA9780547, .vexpand 11 24 5 2),
    (0xAAC300A8, .vcompress 22 3 0 5)] : List (Nat × Instr)),
    decodeWord p.1 = .ok p.2 ∧ encode p.2 = some p.1 := by decide

/-- Words of the family vflt, from the encodings of the opcode table (03 R45 to R59). -/
theorem test_words_vflt : ∀ p ∈ ([
    (0xAC2ED8A0, .vfadd 1 14 27 0 5),
    (0xAD993301, .vfsub 12 25 6 3 0),
    (0xAEE48E62, .vfmul 23 4 17 6 3),
    (0xAC4FE1C3, .vfma 2 15 28 1 6),
    (0xADBA3C24, .vfms 13 26 7 4 1),
    (0xAF059785, .vfnma 24 5 18 7 4),
    (0xAC70EAE6, .vfdiv 3 16 29 2 7),
    (0xADDB00A7, .vfsqrt 14 27 0 5),
    (0xAF2698A8, .vfmin 25 6 19 0 5),
    (0xAC91F309, .vfmax 4 17 30 3 0),
    (0xAC1C4E6A, .vfcmpEq 0 28 9 6 3),
    (0xAC07A1CB, .vfcmpNe 0 7 20 1 6),
    (0xACB2FC2C, .vfcmpLt 5 18 31 4 1),
    (0xAC1D578D, .vfcmpLe 0 29 10 7 4),
    (0xAC08AAEE, .vfcmpGt 0 8 21 2 7),
    (0xACD3054F, .vfcmpGe 6 19 0 5 2),
    (0xAC1E58B0, .vfcmpUn 0 30 11 0 5),
    (0xAF89B311, .vfsgnJ 28 9 22 3 0),
    (0xACF40E72, .vfsgnJn 7 20 1 6 3),
    (0xAE5F61D3, .vfsgnJx 18 31 12 1 6),
    (0xAFAA0794, .vfclass 29 10 7 4),
    (0xAD1502F5, .vfrcp 8 21 2 7),
    (0xAE600556, .vfrsq 19 0 5 2),
    (0xAFCB00B7, .vfexp2 30 11 0 5),
    (0xAD360318, .vflog2 9 22 3 0),
    (0xAE810679, .vsettle 20 1 6 3),
    (0xAFEC01DA, .vtail 31 12 1 6)] : List (Nat × Instr)),
    decodeWord p.1 = .ok p.2 ∧ encode p.2 = some p.1 := by decide

/-- Words of the family vred, from the encodings of the opcode table (03 R45 to R59). -/
theorem test_words_vred : ∀ p ∈ ([
    (0xB6A27C20, .vredsumOrd 21 2 15 4 1),
    (0xB40D02E1, .vredsumTree 0 13 2 7),
    (0xB5780542, .vredmax 11 24 5 2),
    (0xB6C300A3, .vredmin 22 3 0 5),
    (0xB42E0304, .vargmax 1 14 3 0),
    (0xB5990665, .vscanAdd 12 25 6 3),
    (0xB6E401C6, .vscanMax 23 4 1 6),
    (0xB44F09C7, .vtopk 2 15 1 1 6)] : List (Nat × Instr)),
    decodeWord p.1 = .ok p.2 ∧ encode p.2 = some p.1 := by decide

/-- Words of the family veng, from the encodings of the opcode table (03 R45 to R59). -/
theorem test_words_veng : ∀ p ∈ ([
    (0xB9BA3C20, .rgen 13 26 7 4 1),
    (0xBB059781, .rgenTop 24 5 18 7 4),
    (0xB870EA02, .rmerge 3 16 29 2),
    (0xB9DB4543, .xsend 14 27 8 5 2),
    (0xBB2600A4, .mext 25 6 0 0 5),
    (0xB8910665, .mplane 4 17 6 3)] : List (Nat × Instr)),
    decodeWord p.1 = .ok p.2 ∧ encode p.2 = some p.1 := by decide

/-- Words of the family mtx, from the encodings of the opcode table (03 R45 to R59). -/
theorem test_words_mtx : ∀ p ∈ ([
    (0xC1FC0040, .settile 15 28 1),
    (0xC3400021, .mzero 26 1),
    (0xC0B2F922, .mmac 5 18 31 4 1),
    (0xC21D51C3, .mmaci 16 29 10 7 0),
    (0xC3680024, .mspill 27 8 1),
    (0xC0D30005, .mfill 6 19 0)] : List (Nat × Instr)),
    decodeWord p.1 = .ok p.2 ∧ encode p.2 = some p.1 := by decide

/-- Words of the family xch, from the encodings of the opcode table (03 R45 to R59). -/
theorem test_words_xch : ∀ p ∈ ([
    (0xC63E0000, .xopen 17 30),
    (0xC789B001, .xsplit 28 9 22),
    (0xC4F40802, .xpost 7 20 1),
    (0xC65F0003, .xend 18 31),
    (0xC7AA0004, .xstep 29 10),
    (0xC4080005, .xfence 8),
    (0xC6600006, .xstat 19 0 0),
    (0xC7CB0007, .xsample 30 11),
    (0xC5361827, .xsampleHost 9 22 3),
    (0xC6810008, .xclose 20 1)] : List (Nat × Instr)),
    decodeWord p.1 = .ok p.2 ∧ encode p.2 = some p.1 := by decide

/-- Words of the family lens, from the encodings of the opcode table (03 R45 to R59). -/
theorem test_words_lens : ∀ p ∈ ([
    (0xCBEC0000, .qopen 31 12),
    (0xC9572001, .qmap 10 23 4),
    (0xCAA27802, .qinit 21 2 15),
    (0xC80DD003, .qgate 0 13 26),
    (0xC9782804, .qdiag 11 24 5),
    (0xCAC38005, .qswap 22 3 16),
    (0xC82ED806, .qprob 1 14 27),
    (0xC9993007, .qproj 12 25 6),
    (0xCAE48808, .qread 23 4 17)] : List (Nat × Instr)),
    decodeWord p.1 = .ok p.2 ∧ encode p.2 = some p.1 := by decide

/-- Words of the family copy, from the encodings of the opcode table (03 R45 to R59). -/
theorem test_words_copy : ∀ p ∈ ([
    (0xCC4F0000, .dcopy 2 15),
    (0xCDBA0001, .dfill 13 26),
    (0xCF000022, .tread 24 1),
    (0xCC030003, .twait 3 0)] : List (Nat × Instr)),
    decodeWord p.1 = .ok p.2 ∧ encode p.2 = some p.1 := by decide

/-- Words of the family vmisc, from the encodings of the opcode table (03 R45 to R59). -/
theorem test_words_vmisc : ∀ p ∈ ([
    (0xDDFC0100, .vspill 15 28 1),
    (0xDF470401, .vfill 26 7 4)] : List (Nat × Instr)),
    decodeWord p.1 = .ok p.2 ∧ encode p.2 = some p.1 := by decide

/-! Ill-formed terms: one for each check of WellFormed, at a value next to its range (03 R47, R50). -/

theorem test_ill_formed : ∀ i ∈ ([
    .cmp 0 0 0 6, .cmpi 0 0 6 0, .amo 0 0 0 6 0 0 0, .amo 0 0 0 0 0 0 9, .cas 0 0 0 6 0 0, .red 0 0 6 0 0 0, .red 0 0 0 0 0 8,
    .fence 1 6, .fence 0 0, .bvany 8 0 0, .bvany 1 8 0, .bvnone 8 0 0, .bvnone 1 8 0, .csrr 0 0x015, .csrw 0 0 0x015, .csrs 0 0 0x015,
    .csrc 0 0 0x015, .sbind 27 0, .sfree 27, .sstat 0 27, .setvl 0 0 0 24 0 0 0, .vcmpEq 8 0 0 0 0, .vcmpNe 8 0 0 0 0,
    .vcmpLt 8 0 0 0 0, .vcmpLe 8 0 0 0 0, .vcmpGt 8 0 0 0 0, .vcmpGe 8 0 0 0 0, .vfcmpEq 8 0 0 0 0, .vfcmpNe 8 0 0 0 0,
    .vfcmpLt 8 0 0 0 0, .vfcmpLe 8 0 0 0 0, .vfcmpGt 8 0 0 0 0, .vfcmpGe 8 0 0 0 0, .vfcmpUn 8 0 0 0 0, .viota 0 8 0 0, .mand 8 0 2 0,
    .mand 0 8 2 0, .mand 0 0 8 0, .mor 8 0 2 0, .mor 0 8 2 0, .mor 0 0 8 0, .mxor 8 0 2 0, .mxor 0 8 2 0, .mxor 0 0 8 0,
    .mandn 8 0 2 0, .mandn 0 8 2 0, .mandn 0 0 8 0, .mpop 0 8 0 0, .mfirst 0 8 0 0, .vreshape 0 0 8 0 0, .vcvt 0 0 24 0 0,
    .vtopk 0 0 0 0 0, .vtopk 0 0 9 0 0, .vtopk 0 31 1 0 0, .mext 0 0 2 0 0, .mmaci 0 0 31 0 0, .xstat 0 0 10, .vld 0 0 0 0 0 24,
    .vld 0 31 0 0 0 17, .vst 0 0 0 0 0 24, .vst 0 0 0 0 0 17, .vlds 0 0 0 0 0 8, .vsts 0 0 0 0 0 8, .vldx 0 0 0 0 0 8,
    .vstx 0 0 0 0 0 8, .vldw 0 0 0 0 1 8, .vldw 0 0 0 0 0 2, .vldw 0 31 0 0 1 2, .vldseg 0 0 2 0 0 8, .vldseg 0 0 1 0 0 2,
    .vldseg 0 0 9 0 0 2, .vstseg 0 0 2 0 0 8, .vstseg 0 0 1 0 0 2, .vstseg 0 0 9 0 0 2, .vredAdd 0 0 0 0 0 4, .vredMin 0 0 0 0 0 4,
    .vredMax 0 0 0 0 0 4] : List Instr), i.wellFormed = false := by decide

/-- Words that spell such fields (csrr of 0x015, sbind of v27) are refused by name. -/
theorem test_ill_formed_word : decodeWord 0x88800150 = .error .fieldOutOfRange ∧ decodeWord 0x93600000 = .error .fieldOutOfRange := by decide

/-! Words and values that the manual gives as examples. -/

/-- The example words of 05, 06, 07, 08 and 09. -/
theorem test_example_words_memory : ∀ p ∈ ([
    (0x38E50008, .ldI32 7 5 8), (0x50FEFFF0, .st64 7 30 (-16)), (0xE085094C, .vld 4 5 1 1 2 12), (0xD105614C, .vredAdd 8 5 12 1 2 12),
    (0xDC1E0300, .vspill 0 30 3), (0x93860000, .sbind 28 6), (0x93A00001, .sfree 29), (0x9080E002, .sstat 4 28), (0xCC800042, .tread 4 2),
    (0xCC090003, .twait 9 0), (0xCD2A0000, .dcopy 9 10), (0x88800010, .csrr 4 1), (0x880700A1, .csrw 0 7 10),
    (0x8C0000A1, .trap 5), (0x04642800, .add 3 4 5), (0x5822FFFD, .beq 1 2 (-3)), (0x090886A0, .addi 8 8 (-31072))] : List (Nat × Instr)),
    decodeWord p.1 = .ok p.2 := by decide +kernel

theorem test_example_words_vector : ∀ p ∈ ([
    (0xA0821920, .vadd 4 2 3 1 1), (0xA0C42A18, .vnshrHe 6 4 5 2 0), (0xA4830004, .mpop 4 3 0 0), (0xA5221806, .vmovs 9 2 3 0),
    (0xA9480068, .vcompress 10 8 0 3), (0xAD021900, .vfadd 8 2 3 1 0), (0xAD442906, .vfdiv 10 4 5 1 0), (0xAC44290C, .vfcmpLt 2 4 5 1 0),
    (0xB0C45900, .vcvt 6 4 11 1 0), (0xAC840119, .vsettle 4 4 1 0), (0xB6041107, .vtopk 16 4 2 1 0), (0xC10A00C0, .settile 8 10 3),
    (0xC0000001, .mzero 0 0), (0xC1200021, .mzero 9 1), (0xC12C68E2, .mmac 9 12 13 3 1), (0xC12C68C3, .mmaci 9 12 13 3 0),
    (0xC1340004, .mspill 9 20 0), (0xC1340025, .mfill 9 20 1), (0xB8860105, .mplane 4 6 1 0), (0xAD021923, .vfma 8 2 3 1 1),
    (0xB5242900, .vredsumOrd 9 4 5 1 0), (0xB5240101, .vredsumTree 9 4 1 0)] : List (Nat × Instr)), decodeWord p.1 = .ok p.2 := by decide +kernel

/-- One step of li s8, 100000 (03 Table 03.9): the lhi, then the addi on a hart that holds the lhi's result. -/
theorem test_lhi : nextAnd (exec (.lhi 8 0 2) (st (hart []))) (fun s => (curHart s).getS 8 == 0x20000 && (curHart s).pc == 0x10004) = true := by
  decide +kernel
theorem test_addi : nextAnd (exec (.addi 8 8 (-31072)) (st (hart [(8, 0x20000)]))) (fun s => (curHart s).getS 8 == 100000) = true := by
  decide +kernel

/-- Results wrap (13 R278), and a division by zero does not trap (R279, Table 13.2). -/
theorem test_add_wraps : nextAnd (exec (.add 3 4 5) (st (hart [(4, BitVec.allOnes 64), (5, 2)]))) (fun s => (curHart s).getS 3 == 1) = true := by
  decide +kernel
theorem test_write_of_s0 : nextAnd (exec (.add 0 4 5) (st (hart [(4, 7), (5, 2)]))) (fun s => (curHart s).getS 0 == 0) = true := by
  decide +kernel

/-- trap 5 saves its own address, with TVAL 5 (13 R294). -/
theorem test_trap : nextAnd (exec (.trap 5) (st (hart []))) (fun s => (curHart s).csr.tval == 5) = true := by decide +kernel

/-- The worked interleaved address (04): stack 7, offset 0x2468ACABC, also by the stack-local window. -/
theorem test_interleaving : windowKey 0x1234567ABC = some (hbmKey 7 0x2468ACABC) ∧ windowKey 0xF2468ACABC = some (hbmKey 7 0x2468ACABC) := by
  decide +kernel

/-- The worked rounding chain of 02: vfma in carry mode, the narrowing to BF16, and the store as E4M3. -/
theorem test_carry_chain :
    let y := writeRto fFP32 (fMulAdd false (fFP32.value 0x3F800800 0) (fFP32.value 0x3F800800 0) (fFP32.value 0x3D7E0000 0)).1
    let z := writeRto fBF16 (fFP32.value y.code y.tail)
    let w := settle fE4M3 .even (fBF16.value z.code z.tail)
    y.code = 0x3F880000 ∧ y.tail = 2 ∧ z.code = 0x3F88 ∧ z.tail = 1 ∧ w.code = 0x39 ∧ w.flags = flagNX := by decide +kernel

theorem test_settle_chain : (settle fE4M3 .even (fBF16.value 0x3F88 0)).code = 0x38 := by decide +kernel

/-- The worked sums of 08, in order and as a tree, carried and settled at every write. -/
def summands : List (Nat × Elem) :=
  [(0, { Elem.zero with bits := 0x3F800000 }), (1, { Elem.zero with bits := 0x33800000 }), (2, { Elem.zero with bits := 0x33800000 }),
   (3, { Elem.zero with bits := 0xBF800000 })]

theorem test_sum_in_order :
    (foldSum 12 0 (Elem.zero, 0) summands).1.bits = 0x34000000 ∧ (foldSum 12 (BitVec.ofNat 64 8) (Elem.zero, 0) summands).1.bits = 0 := by
  decide +kernel

/-- The worked shifts of 07 R153. -/
theorem test_narrowing_shifts :
    shrTz 0xFA 2 = 62 ∧ shrHu 0xFA 2 = 63 ∧ shrHe 0xFA 2 = 62 ∧ shrOd 0xFA 2 = 63 ∧
    shrTz (-6) 2 = -1 ∧ shrHu (-6) 2 = -1 ∧ shrHe (-6) 2 = -2 ∧ shrOd (-6) 2 = -1 := by decide +kernel

/-- vfrcp of 3 (08). -/
theorem test_vfrcp_of_three : (estWrite 12 (rcpF (fFP32.value 0x40400000 0)).1).1.bits = 0x3EAAB000 := by decide +kernel

theorem witness_ScalarArithmetic : (st (hart [(4, BitVec.allOnes 64), (5, 2)])).keeper.off = false := by decide

/-! Witnesses: states and operands that meet the hypotheses of each statement, clause by clause. Encoding, steps and traps. -/

theorem witness_EncodeThenDecode : (Instr.add 31 31 31).wellFormed = true ∧ encode (.add 31 31 31) = some 0x07FFF800 ∧
    (Instr.csrr 0 0x300).wellFormed = true ∧ encode (.csrr 0 0x300) = some 0x88003000 := by decide

theorem witness_DecodeThenEncode : 0x8C0000A1 < 2 ^ 32 ∧ decodeWord 0x8C0000A1 = .ok (.trap 5) := by decide

theorem witness_ReservedWordsRefused :
    (∀ w ∈ [0x03FFFFFF, 0x24000000, 0xBC000001, 0xFC000000], w / 2 ^ 26 % 64 ∈ [0x00, 0x09, 0x2F, 0x3F]) ∧
    (18 < 19 ∧ 0 < 63 ∧ 63 < 64 ∧ 31 < 32) ∧ (0 < 19 ∧ 0 < 1 ∧ 1 < 64 ∧ 0 < 32) := by decide

/-- A state whose next step fetches `div s3, s4, s5`. -/
def divNext : State := State.reset.withFetchWord 32 0x04642805

theorem witness_StepKeepsMemoryFormed : Memory.wf divNext.mem = true ∧ nextAnd (step divNext) (fun _ => true) = true := by decide +kernel

theorem witness_StepRunsDecodedInstruction :
    divNext.keeper.off = false ∧ divNext.agenda = [] ∧ (nextEvent? divNext).isNone = true ∧ pickHart divNext = some 0 ∧
    (curHart (begin divNext 0)).role = .program ∧ okAnd (fetchWord (begin divNext 0) 0) (fun p => p.1 == 0x04642805) = true ∧
    decodeWord 0x04642805 = .ok (.div 3 4 5) ∧ 0 ∈ divNext.harts.map (fun p => p.1) ∧ Machine.issues divNext 0 = true := by decide +kernel

theorem witness_StepRunsDecodedInstruction_relaxed :
    let s := { divNext with relaxed := true, steps := 1 }
    s.keeper.off = false ∧ s.agenda = [] ∧ (s.relaxed = true ∧ s.steps % 2 = 1) ∧ pickHart s = some 0 ∧
    okAnd (fetchWord (begin s 0) 0) (fun p => p.1 == 0x04642805) = true := by decide +kernel

theorem witness_FetchAndIllegalWords :
    let s := State.reset.withFetchWord 32 0
    Memory.wf s.mem = true ∧ s.keeper.off = false ∧ s.agenda = [] ∧ (nextEvent? s).isNone = true ∧ pickHart s = some 0 ∧
    okAnd (fetchWord (begin s 0) 0) (fun p => p.1 == 0 && (curHart p.2).viq.isEmpty) = true ∧ decodeWord 0 = .error .reservedMajor ∧
    (let u := begin s 0
     let x := curHart u
     u.cur = 0 ∧ tlbFind u 0 x.csr.ptroot x.pc = none ∧ okAnd (walk u x.csr.ptroot x.pc .fetch) (fun _ => true) = true) := by
  decide +kernel

/-- A boot in which every step passes. -/
def goodBoot : BootPass :=
  { slotAOk := true, slotBOk := true, railsOk := true, fusesOk := true, trainFail := 0, zeroFail := 0, cachesOk := true, hostWidth := 16,
    portWide := 0, portNarrow := 0, timeNs := 0, packages := [], dispatchOk := true, cut := none }

theorem witness_StepRunsEvent :
    ({ State.reset with agenda := [.powerAdjust 0] }).keeper.off = false ∧
    ({ State.reset with keeper := { Keeper.reset with off := true } }).keeper.off ≠ false ∧ isReset (.powerAdjust 0) = false ∧
    isReset (.deviceReset [goodBoot]) = true := by decide

/-- A hart with an arithmetic vector instruction in its VIQ. -/
def busy : Hart := withEntry (hart []) (.vadd 4 2 3 1 1)

theorem witness_TrapEntry :
    faultToHost (st (hart [])) { cause := .trap, tval := 0, tval2 := 0 } = false ∧ (curHart (st (hart []))).viq = [] ∧
    (curHart (st busy)).viq ≠ [] ∧
    (curHart (st { hart [] with pending := some { trap := { cause := .trap, tval := 1, tval2 := 0 }, vec := none, tpc := 0x10000 } })).pending =
      some { trap := { cause := .trap, tval := 1, tval2 := 0 }, vec := none, tpc := 0x10000 } := by decide +kernel

/-- A state whose host repairs page faults (HOSTMODE.PF = 1), and a page fault of reason 0. -/
def repaired (x : Hart) : State := { st x with hostmode := 2 }
def pageFault : Trap := { cause := .loadpf, tval := 0x6000, tval2 := 0 }

theorem witness_TrapEntry_host :
    faultToHost (repaired (hart [])) pageFault = true ∧ (curHart (repaired (hart []))).viq = [] ∧ stopStands (hart []) = false ∧
    stopStands { hart [] with request := some .withdraw } = true ∧
    faultToHost (repaired busy) pageFault = true ∧ (getHart (repaired busy) 0).viq.length = 1 ∧ stopStands busy = false ∧
    stopStands { busy with request := some .withdraw } = true ∧ ∀ e ∈ (getHart (repaired busy) 0).viq, isSync e.instr = false := by decide +kernel

theorem witness_VectorTrapEntry :
    faultToHost (st busy) { cause := .poison, tval := 0, tval2 := 0 } = false ∧ (getHart (st busy) 0).viq.length = 1 ∧
    ∀ e ∈ (getHart (st busy) 0).viq, isSync e.instr = false := by decide +kernel

theorem witness_TrapInstruction :
    (st (hart [])).keeper.off = false ∧ (curHart (st (hart []))).viq = [] ∧ (curHart (st busy)).viq ≠ [] ∧ (curHart (st (hart []))).vq = false := by
  decide +kernel

/-- A hart whose handler returns to a held entry. -/
def holding : Hart :=
  { hart [] with
    held := [vectorEntry (st (hart [])) (.vadd 4 2 3 1 1)]
    csr := { Csrs.reset with tstatus := 4, residx := 4095, viqpos := viqposOf (vectorEntry (st (hart [])) (.vadd 4 2 3 1 1)).seq } }

theorem witness_EretReturns :
    (curHart (st (hart []))).user = false ∧ (curHart (st (hart []))).vq = false ∧ (curHart (st holding)).user = false ∧
    (curHart (st holding)).vq = true ∧ (curHart (st holding)).viq = [] ∧
    (∀ e ∈ (curHart (st holding)).held.take 1, viqposOf e.seq = (curHart (st holding)).csr.viqpos) ∧
    (hart []).lostAtoms = LostAtoms.none ∧ holding.lostAtoms = LostAtoms.none ∧
    ({ hart [] with lostAtoms := { waiting := [0x7000], inHand := true } } : Hart).lostAtoms.waiting = 0x7000 :: [] ∧
    ({ hart [] with lostAtoms := { waiting := [], inHand := true } } : Hart).lostAtoms = { waiting := [], inHand := true } ∧
    (hart []).viq = [] ∧ (hart []).pending = none ∧ (hart []).halted = none := by decide +kernel

/-- A hart in user mode. -/
def userHart : Hart := { hart [(1, 0x2000)] with csr := { Csrs.reset with tstatus := 1 } }

theorem witness_UserModeTraps :
    (curHart (st userHart)).user = true ∧ (curHart (st userHart)).viq = [] ∧ (0x100 ≤ (0x100#12).toNat ∧ (0x100#12).toNat ∈ csrNumbers) ∧
    (0x100 ≤ (0x300#12).toNat ∧ (0x300#12).toNat ∈ csrNumbers) := by
  decide +kernel

/-! Scalar instructions. -/

theorem witness_Powered : (st (hart [])).keeper.off = false := by decide

theorem witness_ScalarDivision :
    let x := hart [(1, 0x8000000000000000), (2, 0xFFFFFFFFFFFFFFFF)]
    (curHart (st x)).getS 1 = 0x8000000000000000#64 ∧ (curHart (st x)).getS 2 = 0xFFFFFFFFFFFFFFFF#64 := by decide +kernel

theorem witness_ScalarCompareAndCount : (0#3).toNat < 6 ∧ (5#3).toNat < 6 := by decide

theorem witness_BranchesAndJumpsGo :
    ((curHart (st (hart [(1, 0x2001)]))).getS 1 + (0x0003#16).signExtend 64).toNat % 4 = 0 ∧
    ((curHart (st (hart [(1, 0x2001)]))).getS 1 + (0xFFFE#16).signExtend 64).toNat % 4 ≠ 0 := by decide +kernel

/-- A hart at a bstrip that its record names. -/
def striking (n : Nat) : Hart := { hart [(1, 20), (2, 4)] with strip := { addr := 0x10000, count := 16, strikes := n } }

theorem witness_BstripPasses :
    ((curHart (st (hart [(1, 4), (2, 4)]))).getS 1).toNat - 4 = 0 ∧ (20 - 4 ≠ 0 ∧ (hart []).strip.addr ≠ (hart []).pc) ∧
    (∀ n ∈ [0, 1], (striking n).strip.addr = (striking n).pc ∧ (striking n).strip.count.toNat ≤ 16) ∧ (striking 0).strip.strikes ≠ 1 ∧
    (striking 1).strip.strikes = 1 := by decide +kernel

theorem witness_RegisterInstructionsFrame :
    registerOnly (.add 1 2 3) = some 1 ∧ nextAnd (exec (.add 1 2 3) (st (hart []))) (fun _ => true) = true ∧
    registerOnly (.jal 0) = some 31 ∧ nextAnd (exec (.jal 0) (st (hart []))) (fun _ => true) = true ∧
    registerOnly (.beq 1 2 0) = some 0 ∧ nextAnd (exec (.beq 1 2 0) (st (hart []))) (fun _ => true) = true := by decide +kernel

theorem witness_CsrReads : (st (hart [])).keeper.off = false ∧ (curHart (st (hart []))).viq = [] ∧ (curHart (st (hart []))).user = false ∧
    (curHart (st userHart)).user = true ∧ (0x013#12).toNat < 0x100 ∧ (curHart (st busy)).viq ≠ [] ∧ (0x013#12) ≠ 0x001 := by decide +kernel

theorem witness_CsrWrites : (curHart (st busy)).viq ≠ [] ∧ (curHart (st (hart []))).user = false ∧ (curHart (st (hart []))).viq = [] ∧
    (curHart (st userHart)).user = true ∧ (0x00F#12).toNat < 0x100 ∧
    ((0x00F#12, 0x1FFFFFFFF#64) : BitVec 12 × Word) ∈ ([(0x00F, 0x1FFFFFFFF)] : List (BitVec 12 × Word)) ∧
    ((0x300#12, 0xFFFFFFFF#64) : BitVec 12 × Word) ∈ ([(0x300, 0xFFFFFFFF)] : List (BitVec 12 × Word)) ∧
    (0x200#12) ∈ ([0x010, 0x011, 0x012, 0x013, 0x014, 0x200, 0x201, 0x202] : List (BitVec 12)) := by decide +kernel

/-! Scalar memory accesses. -/

/-- What the page lets an access at an address do. -/
def lets (s : State) (va n : Nat) (k : AKind) (clean : Bool) : Bool :=
  okAnd (access s (agentOf s s.cur) (BitVec.ofNat 64 va) n k .scalar) (fun p => isPoisoned (ownSettled p.2 s.cur p.1 n) p.1 != clean)

/-- A state with a poisoned chunk at 0x3000. -/
def spoilt : State := match windowKey 0x3000 with | some k => poisonChunk (st (hart [(1, 0x3000)])) k | none => st (hart [])

theorem witness_ScalarLoads :
    vmemPending (curHart (st (hart []))) = false ∧ (curHart (st (hart [(1, 0x2000)]))).getS 1 + (8#16).signExtend 64 = 0x2008 ∧
    ∀ n ∈ [1, 2, 4, 8], 0x2008 % n = 0 ∧ lets (st (hart [(1, 0x2000)])) 0x2008 n .load true = true := by decide +kernel

/-- A hart with a store pending to the chunk at 0x2000 in a relaxed run: a load of that chunk performs it first, one of the next does not. -/
def pendingStore : State := { st { hart [(1, 0x2000)] with storeQ := [bytesAt ((windowKey 0x2000).getD 0) 1 1] } with relaxed := true }

theorem witness_ScalarLoads_pending :
    okAnd (access pendingStore (agentOf pendingStore 0) 0x2008 8 .load .scalar)
      (fun p => ownPending (curHart pendingStore) p.1 8 && !isPoisoned (ownSettled p.2 0 p.1 8) p.1) = true ∧
    okAnd (access pendingStore (agentOf pendingStore 0) 0x2020 8 .load .scalar)
      (fun p => !ownPending (curHart pendingStore) p.1 8 && !isPoisoned (ownSettled p.2 0 p.1 8) p.1) = true ∧
    vmemPending (curHart pendingStore) = false := by decide +kernel

theorem witness_ScalarStores :
    (st (hart [])).relaxed = false ∧ Memory.wf (st (hart [])).mem = true ∧
    (∀ n ∈ [1, 2, 4, 8], okAnd (access (st (hart [])) (agentOf (st (hart [])) 0) 0x2008 n .store .scalar) (fun p => !p.2.relaxed) = true) ∧
    (let s := { st (hart []) with relaxed := true }
     okAnd (access s (agentOf s 0) 0x2008 8 .store .scalar) (fun p => p.2.relaxed) = true) ∧
    (getHart (st { hart [] with storeQ := [bytesAt 0 1 1] }) 0).storeQ = bytesAt 0 1 1 :: [] := by decide +kernel

theorem witness_ScalarAccessTraps :
    (0x2001 % 2 ≠ 0 ∧ 0x2007 % 8 ≠ 0) ∧
    errAnd (access (st (hart [])) (agentOf (st (hart [])) 0) 0x6000000000 8 .load .scalar)
      (fun e => e.trap.cause == .loadpf && !faultToHost e.state e.trap && (curHart e.state).viq.isEmpty) = true ∧
    errAnd (access (repaired (hart [])) (agentOf (repaired (hart [])) 0) 0x6000000000 8 .load .scalar) (fun e => faultToHost e.state e.trap) = true ∧
    stopStands (curHart (repaired (hart []))) = false ∧ lets spoilt 0x3000 8 .load false = true := by
  decide +kernel

theorem witness_Atomics :
    (curHart (st (hart [(1, 0x2000)]))).storeQ = [] ∧
    (∀ n ∈ [4, 8], ∀ b ∈ [true, false], 0x2000 % n = 0 ∧ lets (st (hart [(1, 0x2000)])) 0x2000 n (.atomic b) true = true) ∧
    okAnd (access (st (hart [])) (agentOf (st (hart [])) 0) 0x2000 8 (.atomic true) .scalar)
      (fun p => (pkgOfKey p.1).isNone && memNat p.2 p.1 8 == 0) = true := by decide +kernel

/-! Ordering, waiting, lanes, nests and streams. -/

/-- A state with 8-byte words at physical addresses of the first GiB. -/
def stWords (x : Hart) (ws : List (Nat × Nat)) : State := ws.foldl (fun s w => placeWord s w.1 w.2 8) (st x)

/-- A state whose hart 0 is x and whose core's slices are given. -/
def stSlices (x : Hart) (l : Vector Slice 4) : State := { st x with cores := [(0, { core with slices := l })] }

/-- A slice that hart slot 0 holds and slot 2 wants, and one that passes toward slot 0. -/
def wanted : Slice := { Slice.heldBy 0 with pend := true, req := 2 }
def coming : Slice := Slice.passing 0 none

theorem witness_FencesComplete :
    pathsBusy (st (hart [])) = false ∧ pathsBusy (st (withEntry (hart []) (.vld 4 5 0 1 0 12))) = true ∧
    (1#2 ≠ 0 ∧ (5#3).toNat < 6) ∧ (0#2 = 0 ∨ 6 ≤ (0#3).toNat) ∧ (1#2 = 0 ∨ 6 ≤ (6#3).toNat) := by decide +kernel

theorem witness_FencesComplete_tlbinv :
    (curHart (st (hart []))).user = false ∧ (curHart (st (hart []))).viq = [] ∧ page.covers 0 0x2000 = true ∧
    (!page.glb && page.ctxid == 0) = true := by decide +kernel

/-- A hart that waits at a waitm of s1, and the state it waits in. -/
def watching : State := st { hart [(1, 0x2000)] with wait := .waitm 3 1 2 }

theorem witness_HartsWait_waitm :
    okAnd (loadNat (stWords (hart [(1, 0x2000)]) [(0x2000, 7)]) (agentOf (st (hart [])) 0) 0x2000 8) (fun p => p.1 == 7) = true ∧
    BitVec.ofNat 64 7 ≠ (hart [(1, 0x2000)]).getS 2 ∧ BitVec.ofNat 64 7 = (hart [(1, 0x2000), (2, 7)]).getS 2 ∧
    vmemPending (hart [(1, 0x2000)]) = false ∧ ((hart [(1, 0x2000)]).getS 1).toNat % 8 = 0 ∧ (getHart watching 0).wait = .waitm 3 1 2 := by
  decide +kernel

/-- Its waitm looks at its word again, which is equal in memory of zeros and differs in the other. -/
theorem witness_HartsWait_recheck : ∀ ws ∈ [[], [(0x2000, 7)]],
    (let u := stWords { hart [(1, 0x2000)] with wait := .waitm 3 1 2 } ws
     let s := stWords (hart [(1, 0x2000)]) ws
     (getHart u 0).wait = .waitm 3 1 2 ∧ s = putHart { u with cur := 0 } 0 { getHart u 0 with wait := .none } ∧
     okAnd (loadNat s (agentOf s 0) 0x2000 8) (fun p => p.1 == if ws.isEmpty then 0 else 7) = true ∧ (curHart s).getS 2 = 0) := by
  decide +kernel

/-- Hart 0 at a yield that counts some harts of its core, where hart 1 is ready. -/
def yielding (l : List Nat) (time : Word) : State :=
  { st (hart []) with harts := [(0, { hart [] with wait := .yield l 0 }), (1, hart [])], time := time }

theorem witness_HartsWait_yield :
    (getHart (yielding [] 10) 0).wait = .yield [] 0 ∧ 10 ≤ ((yielding [] 10).time - 0).toNat ∧
    (getHart (yielding [1] 10) 0).wait = .yield [1] 0 ∧ ([1] : List Nat) ≠ [] ∧ ((yielding [] 9).time - 0).toNat < 10 ∧ 1 ≠ 0 := by
  decide +kernel

theorem witness_EndUnbindsHart :
    (curHart (st (hart []))).viq = [] ∧ (curHart (st (hart []))).kids = [] ∧ (st (hart [])).xctx = [] ∧
    (∀ w ∈ [EngX.copy, .mtx, .lens, .xch], ((curHart (st (hart []))).eng.line w).done = ((curHart (st (hart []))).eng.line w).issued ∧
      ((curHart (st (hart []))).eng.line w).reports = []) ∧ (curHart (st (hart []))).csr.cpyerr.getLsbD 63 = false := by decide +kernel

theorem witness_SetvlGrants :
    (∀ j ∈ [0, 1, 2, 3], ((getCore (st (hart [])) 0).slice j).pend = false) ∧
    (let s := stSlices (hart []) #v[wanted, coming, Slice.idle, Slice.heldBy 1]
     ((getCore s 0).slice 0).held = true ∧ ((getCore s 0).slice 0).owner.toNat = 0 ∧ ((getCore s 0).slice 0).pend = true ∧
     ((getCore s 0).slice 1).held = false ∧ ((getCore s 0).slice 1).pend = true ∧ ((getCore s 0).slice 1).req.toNat = 0 ∧
     (curHart s).viq = [] ∧ (curHart s).eng.mtxQ = []) ∧
    (curHart (stSlices busy #v[wanted, coming, Slice.idle, Slice.heldBy 1])).viq ≠ [] ∧ (23#5).toNat < 24 ∧ 24 ≤ (24#5).toNat := by
  decide +kernel

theorem witness_SlicesChangeHands_lpreq :
    let s := stSlices (hart [(1, 0xFF)]) #v[Slice.idle, Slice.heldBy 1, { Slice.heldBy 1 with pend := true, req := 0 }, coming]
    let y := fun j => (getCore s 0).slice j
    ((hart [(1, 0xFF)]).getS 1).getLsbD 3 = true ∧ ((hart [(1, 0xF0)]).getS 1).getLsbD 3 = false ∧
    ((hart [(1, 0xF0)]).getS 1).getLsbD 7 = true ∧ ((y 0).held = false ∧ (y 0).pend = false) ∧
    ((y 1).held = true ∧ (y 1).owner.toNat ≠ 0 ∧ (y 1).pend = false) ∧ ((y 2).pend = true ∧ (y 2).req.toNat = 0 ∧ (y 2).held = true) ∧
    ((y 3).pend = true ∧ (y 3).req.toNat = 0 ∧ (y 3).held = false) ∧ (getCore s 0).lpwait ≠ 0 := by decide +kernel

theorem witness_SlicesChangeHands_vrel :
    let s := stSlices (hart []) #v[wanted, Slice.heldBy 0, { Slice.heldBy 1 with pend := true, req := 0 }, coming]
    let y := fun j => (getCore s 0).slice j
    (curHart s).viq = [] ∧ (curHart s).eng.mtxQ = [] ∧ (curHart s).streams = [] ∧
    ((y 0).held = true ∧ (y 0).owner.toNat = 0 ∧ (y 0).pend = true ∧ (y 0).req.toNat ≠ 0) ∧
    ((y 1).held = true ∧ (y 1).owner.toNat = 0 ∧ (y 1).pend = false) ∧
    ((y 2).held = true ∧ (y 2).owner.toNat ≠ 0 ∧ (y 2).pend = true ∧ (y 2).req.toNat = 0) ∧
    ((y 3).held = false ∧ (y 3).pend = true ∧ (y 3).req.toNat = 0) ∧
    (let z := (getCore (stSlices (hart []) #v[Slice.idle, Slice.heldBy 1, Slice.idle, Slice.idle]) 0).slice 1
     (z.owner.toNat ≠ 0 ∨ z.held = false) ∧ (z.pend = false ∨ z.req.toNat ≠ 0)) := by decide +kernel

/-- A hart with a live child in slot 1 and one that has ended. -/
def parent (n : Word) : State :=
  { st { hart [(1, n)] with kids := [(1, 7), (2, 9)] } with
    harts := [(0, { hart [(1, n)] with kids := [(1, 7), (2, 9)] }), (1, { hart [] with ctx := 7, parent := some 1 })] }

theorem witness_ForkAndJoin :
    (curHart (st (hart [(1, 0x10000)]))).eng.mtxQ = [] ∧ ((hart [(1, 0x10000)]).getS 1).toNat % 4 = 0 ∧
    ([0, 1, 2, 3].filter (fun j => ((getCore (st (hart [])) 0).slice j).held)).length = 4 ∧
    (getHart (st (hart [])) 1).bound = false ∧ (getHart (st (hart [])) 0).bound = true ∧
    ([0, 1, 2, 3].filter (fun j => ((getCore (stSlices (hart []) #v[Slice.heldBy 0, Slice.idle, Slice.idle, Slice.idle]) 0).slice j).held)).length < 2 ∧
    (∀ k < 4, (getHart { st (hart []) with harts := [(0, hart []), (1, hart []), (2, hart []), (3, hart [])] } k).bound = true) ∧
    (∀ p ∈ (curHart (parent 0)).kids, BitVec.ofNat 64 (p.1 + 1) ≠ (curHart (parent 0)).getS 1 ∧ p.1 < 4) ∧
    (curHart (parent 2)).kids.find? (fun p => p.1 + 1 == ((curHart (parent 2)).getS 1).toNat) = some (1, 7) ∧
    liveCtx (parent 2) 7 = true ∧
    (curHart (parent 3)).kids.find? (fun p => p.1 + 1 == ((curHart (parent 3)).getS 1).toNat) = some (2, 9) ∧
    liveCtx (parent 3) 9 = false := by decide +kernel

/-- The record of a nest with one iteration, at 0x4000. -/
def nestWords : List (Nat × Nat) := [(0x4000, 0x10000), (0x4028, 1), (0x4058, 0x17001), (0x40C0, 1)]

theorem witness_NestsSubmitted :
    let s := stWords (hart [(1, 0x4000)]) nestWords
    (curHart s).viq = [] ∧ (curHart s).storeQ = [] ∧ ((curHart s).getS 1).toNat % 256 = 0 ∧
    okAnd (readWords s (submitterOf s).agent 0x4000 0x4000 32)
      (fun p => (nestError s.boot.fenced (bytesOfWords p.1)).isNone && decide (p.2.nests.length < 1024)) = true := by decide +kernel

/-- A nest that runs its one iteration. -/
def someNest : Nest :=
  newNest (st (hart [])) (submitterOf (st (hart []))) (nestRecOf (bytesOfWords [0x10000, 0, 0, 0, 0, 1, 0, 0, 0, 0, 0, 0x17001]))

theorem witness_NestsSubmitted_live :
    let s := { st (hart [(1, 5)]) with nests := [(5, someNest)] }
    findNest s 5 = some someNest ∧ findNest s 6 = none ∧ someNest.withdrawing = false ∧ (curHart s).nest ≠ 5 ∧ (curHart s).user = false ∧
    ({ someNest with withdrawing := true } : Nest).withdrawing = true ∧
    1024 ≤ ({ s with nests := (List.range 1024).map (fun n => (n, someNest)) }).nests.length := by decide +kernel

/-- A hart in user mode of nest 1, whose PRIO is 0, that submits a record of PRIO 5; id 2 is free between live ones. -/
def submitting : State :=
  { stWords { userHart.setS 1 0x4000 with nest := 1 } [(0x4000, 0x10000), (0x4028, 1), (0x4058, 0x15001), (0x40C0, 1)] with
    nests := [(1, { someNest with rc := { someNest.rc with ctrl := 0x10001 }, eprio := 0 }), (3, someNest)] }

theorem witness_NestsSubmitted_user :
    (curHart submitting).user = true ∧ (findNest submitting (curHart submitting).nest).any (fun m => m.rc.ctrl.toNat / 4096 % 8 == 0) = true ∧
    okAnd (readWords submitting (submitterOf submitting).agent 0x4000 0x4000 32)
      (fun p => (nestError submitting.boot.fenced (bytesOfWords p.1)).isNone && (bytesOfWords p.1).getD 89 0 == 0x50) = true ∧
    nextAnd (exec (.nest 2 1) submitting) (fun t => (findNest t 2).any (fun n => n.eprio == 0 && n.rc.ctrl == 0x10001) && (curHart t).getS 2 == 2) =
      true := by decide +kernel

/-- The descriptor of an in-stream of eight FP32 elements, at 0x5000. -/
def streamWords : List (Nat × Nat) := [(0x5000, 0x6000), (0x5010, 0x100000008), (0x5018, 0x100000001), (0x5030, 12)]

/-- That stream. -/
def someStream : Stream := streamOf (bytesOfWords [0x6000, 0, 0x100000008, 0x100000001, 0, 0, 12, 0]) 0 0

theorem witness_StreamsBound :
    let s := stWords (hart [(1, 0x5000)]) streamWords
    28 ≤ (28#5).toNat ∧ (27#5).toNat < 28 ∧ (curHart s).viq = [] ∧ (curHart s).streamAt 28 = none ∧ ((curHart s).getS 1).toNat % 64 = 0 ∧
    okAnd (readWords s (agentOf s 0) 0x5000 0x5000 8) (fun p => (streamDescError (bytesOfWords p.1)).isNone && p.2.cur == 0) = true ∧
    ((({ hart [] with streams := [(28, someStream)] } : Hart).streamAt 28).isSome) = true := by decide +kernel

/-- A hart with a stream bound to v28, and an out-stream that holds a pushed element. -/
def streaming (t : Stream) : State := st { hart [] with streams := [(28, t)] }
def pushedStream : Stream := { someStream with out := true, pushed := [bytesAt 0x6000 7 4] }

theorem witness_StreamsBound_moves :
    (getHart (streaming someStream) 0).streamAt 28 = some someStream ∧ someStream.out = false ∧
    someStream.pos + someStream.fetched.length < streamLen someStream ∧ someStream.fetched.length * streamElemBytes someStream < 4096 ∧
    okAnd (streamRead (streaming someStream) (agentOf (streaming someStream) 0) someStream (someStream.pos + someStream.fetched.length))
      (fun _ => true) = true ∧
    (getHart (streaming pushedStream) 0).streamAt 28 = some pushedStream ∧ pushedStream.pushed = bytesAt 0x6000 7 4 :: [] := by
  decide +kernel

/-- A hart whose copy timeline has issued two commands and completed some. -/
def timed (done : Word) : Hart :=
  { hart [(1, 2)] with eng := { Engines.zero with copy := { Timeline.zero with issued := 2, done := done, flags := [(1, 1), (2, 4)] } } }

theorem witness_TimelinesWaitedOn :
    (curHart (st (timed 1))).csr.cpyerr.getLsbD 63 = false ∧ ((curHart (st (timed 1))).eng.line (EngX.ofCode 0)).done.toNat < min 2 2 ∧
    min 2 2 ≤ ((curHart (st (timed 2))).eng.line (EngX.ofCode 0)).done.toNat ∧
    (∀ r ∈ ((curHart (st (timed 2))).eng.line (EngX.ofCode 0)).reports, 2 < r.num.toNat) := by decide +kernel

/-! ctxsave and ctxrest at a slot in a page of host memory, where an access moves no cache. The image's words are looked at one by one. -/

/-- A page of host memory at 0x40000000. -/
def hostPage : TlbEntry := { page with vpage := 1, pa := 0x8000000000000 }

/-- Who accesses the slot: hart h, or the engines of core 0. -/
def slotUser (h : Nat) : Agent := { core := 0, root := 0x6000000000, user := false, hart := h }

/-- System registers whose PTROOT names a hole, so that nothing but a TLB translates. -/
def rootless : Csrs := { Csrs.reset with ptroot := 0x6000000000 }

/-- The harts, nests, walkers, saved contexts, slices and poison of b, with bytes of host memory and pages in the translation cache. -/
def slotOver (b : State) (m : Memory) (pages : List Nat) : State :=
  { State.reset with
    harts := b.harts, nests := b.nests, walkers := b.walkers, saved := b.saved, poison := b.poison, mem := m, ats := pages.map (fun p => { page := p, write := true })
    rights := [{ page := 0, pages := 2 ^ 17, right := some true }]
    cores := [(0, { core with tlb := [hostPage], slices := (getCore b 0).slices })]
    boot := { Boot.reset with done := true, hostUp := true } }

/-- A hart that saves to, and restores from, a slot at 0x40000000. -/
def slotHart : State := st { hart [(1, 0x40000000)] with role := .dispatcher .pf, csr := rootless }
def slotState (m : Memory) (pages : List Nat) : State := slotOver slotHart m pages

theorem slot_translate (b : State) (h : Nat) (m : Memory) (p : List Nat) (off : Nat) (k : AKind) (hoff : off < 2 ^ 29) (hk : k = .store ∨ k = .load) :
    Machine.translate (slotOver b m p) (slotUser h) (BitVec.ofNat 64 (0x40000000 + off)) k = .ok (hostPage, slotOver b m p) := by
  have hv : (BitVec.ofNat 64 (0x40000000 + off)).toNat = 0x40000000 + off := by simp; omega
  have hc : canonical (BitVec.ofNat 64 (0x40000000 + off)) = true := by
    have : (0x40000000 + off) / 2 ^ 55 = 0 := by omega
    unfold canonical; simp only [hv, this]; decide
  have hf : tlbFind (slotOver b m p) 0 0x6000000000 (BitVec.ofNat 64 (0x40000000 + off)) = some hostPage := by
    have : (0x40000000 + off) % 2 ^ 56 / 2 ^ 30 = 1 := by omega
    have hcov : hostPage.covers 0 (BitVec.ofNat 64 (0x40000000 + off)) = true := by
      unfold TlbEntry.covers; rw [hv]; show (_ && ((0x40000000 + off) % 2 ^ 56 / 2 ^ 30 == 1)) = true; rw [this]; decide
    have hb : ((0x6000000000 : Word).toNat % 65536) = 0 := rfl
    unfold tlbFind
    rw [hb]
    show (match [hostPage].find? (fun (e : TlbEntry) => e.covers 0 _) with | some e => some e | none => _) = _
    simp only [List.find?, hcov]
  have hp : hostPage.permits k false = true := by rcases hk with rfl | rfl <;> decide
  unfold Machine.translate
  rw [hc]
  show (match tlbFind (slotOver b m p) 0 0x6000000000 _ with | some e => _ | none => _) = _
  rw [hf]
  have hu : (slotUser h).user = false := rfl
  have hd : hostPage.drt = true := rfl
  simp [hu, hp, hd]

/-- The pages of the translation cache once one is used. -/
def touched (p : List Nat) (n : Nat) : List Nat := if (p.map (fun p => AtsEntry.mk p true)).any (fun r => r.page == n) then p else (n :: p).take 4096

/-- The host admits every access to its first 512 MiB. -/
theorem slot_right (b : State) (m : Memory) (p : List Nat) (n : Nat) (h : n < 2 ^ 17) : hostRight (slotOver b m p) n = some true := by
  have e : ([HostRight.mk 0 (2 ^ 17) (some true)].find? (fun r => decide (r.page ≤ n) && decide (n < r.page + r.pages))) =
      some (HostRight.mk 0 (2 ^ 17) (some true)) := by
    have : n < 131072 := by omega
    simp [List.find?, this]
  unfold hostRight
  show (match [HostRight.mk 0 (2 ^ 17) (some true)].find? _ with | some r => r.right | none => _) = _
  rw [e]

theorem slot_admits (b : State) (m : Memory) (p : List Nat) (off : Nat) (w : Bool) (h : off < 2 ^ 29) : hostAdmits (slotOver b m p) off w = true := by
  have hr := slot_right b m p (off / 4096) (by omega)
  unfold hostAdmits
  have hu : (slotOver b m p).boot.hostUp = true := rfl
  rw [hu, hr, Bool.true_and]
  cases hf : (slotOver b m p).ats.find? (fun e => e.page == off / 4096) with
  | none => simp
  | some e =>
    have hm := List.mem_of_find?_eq_some hf
    obtain ⟨q, -, rfl⟩ := List.mem_map.1 hm
    simp

theorem slot_access (b : State) (pr : ∀ (m : Memory) (p : List Nat) (va : Word) (key : Nat), protection (slotOver b m p) va key = none)
    (h : Nat) (m : Memory) (p : List Nat) (off n : Nat) (k : AKind) (hoff : off + n < 2 ^ 29) (hk : k = .store ∨ k = .load) (pa : Path) :
    access (slotOver b m p) (slotUser h) (BitVec.ofNat 64 (0x40000000 + off)) n k pa =
      .ok (2 ^ 53 + off, slotOver b m (touched p (off / 4096))) := by
  have hpa : hostPage.paOf (BitVec.ofNat 64 (0x40000000 + off)) = 0x8000000000000 + off := by
    have hv : (BitVec.ofNat 64 (0x40000000 + off)).toNat = 0x40000000 + off := by simp; omega
    unfold TlbEntry.paOf; rw [hv]; simp [hostPage, page]; omega
  have hr : resolve (slotOver b m p) 0 (BitVec.ofNat 64 (0x40000000 + off)) (0x8000000000000 + off) k = .ok (2 ^ 53 + off) := by
    have ht : paTarget 0 (0x8000000000000 + off) = .host off := by
      unfold paTarget
      rw [if_neg (by omega), if_neg (by omega), if_neg (by simp; omega), if_neg (by simp; omega), if_neg (by simp; omega), if_pos (by omega)]
      simp
    unfold resolve
    rw [ht]
    have ha := fun w => slot_admits b m p off w (by omega)
    rcases hk with rfl | rfl <;> simp [hostKey, ha, AKind.hostOk]
  have hq : ∀ j, protection (slotOver b m p) (BitVec.ofNat 64 (0x40000000 + off)) (2 ^ 53 + off + j) = none := by
    exact fun j => pr m p _ _
  have hw : ∀ j, protectionRange (slotOver b m p) (BitVec.ofNat 64 (0x40000000 + off)) (2 ^ 53 + off) j = none := by
    intro j
    induction j with
    | zero => rfl
    | succ j ih => rw [protectionRange, ih]; exact hq j
  unfold access
  rw [slot_translate b h m p off k (by omega) hk]
  simp only [hpa]
  have ha : (slotUser h).core = 0 := rfl
  rw [ha, hr]
  simp only [hw, ite_self]
  have hcache : cacheTouch (slotOver b m p) 0 (2 ^ 53 + off) k pa hostPage =
      slotOver b m (touched p (off / 4096)) := by
    unfold cacheTouch
    rw [if_pos (Nat.le_add_right _ _)]
    have : (2 ^ 53 + off - 2 ^ 53) / 4096 = off / 4096 := by rw [Nat.add_sub_cancel_left]
    dsimp only
    rw [this]
    rw [slot_right b m p (off / 4096) (by omega)]
    show (if (p.map (fun p => AtsEntry.mk p true)).any (fun r => r.page == off / 4096) = true then _ else _) = _
    unfold touched
    split
    · rfl
    · simp [slotOver, List.map_take]
  rw [hcache]

/-- Poison of the slot's chunk 0x2000 alone, whose last byte nothing has replaced. -/
def Holed (po : SMap PoisonRec) : Prop := ∃ r : PoisonRec, po = [(2 ^ 48 + 256, r)] ∧ r.bits.toNat < 2 ^ 248

theorem slot_replace (b : State) (m : Memory) (q : List Nat) (po : SMap PoisonRec) (w key : Nat) (mask : Byte) :
    ∃ po', replacePoison (slotOver { b with poison := po } m q) w key mask = slotOver { b with poison := po' } m q ∧ (po = [] → po' = []) ∧
      (Holed po → 2 ^ 53 ≤ key → key ≠ 2 ^ 53 + 0x201F → Holed po') := by
  have hp : (slotOver { b with poison := po } m q).poison = po := rfl
  unfold replacePoison
  rw [hp]
  dsimp only
  cases hf : smFind po (poisonUnit key) with
  | none => exact ⟨po, rfl, id, fun h _ _ => h⟩
  | some r =>
    dsimp only
    have hne : ¬ po = [] := by rintro rfl; cases hf
    by_cases hh : Holed po ∧ 2 ^ 53 ≤ key ∧ key ≠ 2 ^ 53 + 0x201F
    · obtain ⟨⟨r0, rfl, hr0⟩, h1, h2⟩ := hh
      have hs : isScratch key = false := by simp [isScratch]; omega
      have hu : key / 32 = 2 ^ 48 + 256 := by
        simp only [poisonUnit, hs] at hf
        by_contra hc
        simp [smFind] at hf
        omega
      have hr : r0 = r := by simpa [smFind, poisonUnit, hs, hu] using hf
      subst hr
      have hk : key % 32 < 31 := by omega
      have hm : ∀ o : BitVec 256, o.toNat < 2 ^ 248 → (o ||| mask.setWidth 256 <<< (8 * (key % 32))).toNat < 2 ^ 248 := by
        intro o ho
        rw [BitVec.toNat_or]
        refine Nat.or_lt_two_pow ho ?_
        rw [BitVec.toNat_shiftLeft, BitVec.toNat_setWidth]
        refine Nat.lt_of_le_of_lt (Nat.mod_le _ _) ?_
        rw [Nat.shiftLeft_eq]
        have h8 : mask.toNat % 2 ^ 256 < 2 ^ 8 := Nat.lt_of_le_of_lt (Nat.mod_le _ _) mask.isLt
        calc _ < 2 ^ 8 * 2 ^ (8 * (key % 32)) := Nat.mul_lt_mul_of_pos_right h8 (Nat.two_pow_pos _)
          _ = 2 ^ (8 + 8 * (key % 32)) := (Nat.pow_add _ _ _).symm
          _ ≤ 2 ^ 248 := Nat.pow_le_pow_right (by decide) (by omega)
      have hn : poisonSpan key = 32 := by simp [poisonSpan, hs]
      have hx : poisonUnit key = 2 ^ 48 + 256 := by simp [poisonUnit, hs, hu]
      rw [hn, hx]
      generalize ho : (if ((w != 0 || (32 : Nat) == 8) && r0.writer == w) = true then r0.bits else 0) = o
      have hb := hm o (by rw [← ho]; split; exacts [hr0, by decide])
      rw [if_neg (by omega)]
      exact ⟨[(2 ^ 48 + 256, { writer := w, bits := o ||| mask.setWidth 256 <<< (8 * (key % 32)) })], rfl, fun h => absurd h hne,
        fun _ _ _ => ⟨_, rfl, hb⟩⟩
    · generalize (if ((w != 0 || poisonSpan key == 8) && r.writer == w) = true then r.bits else 0) = o
      split
      · exact ⟨smErase po (poisonUnit key), rfl, fun h => absurd h hne, fun a b c => absurd ⟨a, b, c⟩ hh⟩
      · exact ⟨smPut po (poisonUnit key) { writer := w, bits := o ||| mask.setWidth 256 <<< (8 * (key % poisonSpan key)) }, rfl,
          fun h => absurd h hne, fun a b c => absurd ⟨a, b, c⟩ hh⟩

theorem mem_bytesAt {e : MaskedByte} : ∀ (n : Nat) {key v : Nat}, e ∈ bytesAt key v n → key ≤ e.key ∧ e.key < key + n
  | 0, _, _, h => by cases h
  | n + 1, key, v, h => by
    rcases List.mem_cons.1 h with rfl | h
    · exact ⟨Nat.le_refl _, by dsimp only; omega⟩
    · have := mem_bytesAt n h
      omega

theorem slot_putAll (b : State) (w : Nat) (q : List Nat) :
    ∀ (bs : List MaskedByte) (m : Memory) (po : SMap PoisonRec), ∃ m' po', putAll (slotOver { b with poison := po } m q) w bs =
      slotOver { b with poison := po' } m' q ∧ (po = [] → po' = []) ∧
      (Holed po → (∀ e ∈ bs, 2 ^ 53 ≤ e.key ∧ e.key ≠ 2 ^ 53 + 0x201F) → Holed po')
  | [], m, po => ⟨m, po, rfl, id, fun h _ => h⟩
  | e :: bs, m, po => by
    obtain ⟨p1, h1, h2, h3⟩ := slot_replace b
      (smSet 0 m e.key ((memByte (slotOver { b with poison := po } m q) e.key &&& ~~~e.mask) ||| (e.val &&& e.mask))) q po w e.key e.mask
    obtain ⟨m', po', h4, h5, h6⟩ := slot_putAll b w q bs
      (smSet 0 m e.key ((memByte (slotOver { b with poison := po } m q) e.key &&& ~~~e.mask) ||| (e.val &&& e.mask))) p1
    have h : putMasked (slotOver { b with poison := po } m q) w e = _ := h1
    refine ⟨m', po', ?_, fun h => h5 (h2 h), fun hh ha => h6 (h3 hh (ha e List.mem_cons_self).1 (ha e List.mem_cons_self).2)
      (fun d hd => ha d (List.mem_cons_of_mem _ hd))⟩
    rw [putAll, List.foldl_cons, h]
    exact h4

theorem slot_writes (b : State)
    (pr : ∀ (po : SMap PoisonRec) (m : Memory) (p : List Nat) (va : Word) (key : Nat), protection (slotOver { b with poison := po } m p) va key = none)
    (h : Nat) (pa : Nat → Path) :
    ∀ (ps : List Piece) (m : Memory) (q : List Nat) (po : SMap PoisonRec), ps.all (fun p => decide (p.off + p.n < 2 ^ 29)) = true →
      ∃ m' q' po', writePieces (slotUser h) pa 0x40000000 ps (slotOver { b with poison := po } m q) =
          (slotOver { b with poison := po' } m' q', ps.map (fun p => 2 ^ 53 + p.off), none) ∧ (po = [] → po' = []) ∧
        (Holed po → ps.all (fun p => decide (p.off + p.n ≤ 0x201F ∨ 0x201F < p.off)) = true → Holed po')
  | [], m, q, po, _ => ⟨m, q, po, rfl, id, fun h _ => h⟩
  | p :: ps, m, q, po, hp => by
    rw [List.all_cons, Bool.and_eq_true, decide_eq_true_eq] at hp
    have hb : (0x40000000 : Word) + word p.off = BitVec.ofNat 64 (0x40000000 + p.off) := by
      apply BitVec.eq_of_toNat_eq; simp [word]
    obtain ⟨m1, p1, h1, h2, h3⟩ := slot_putAll b (2 ^ 54 + (slotOver { b with poison := po } m q).steps) (touched q (p.off / 4096))
      (bytesAt (2 ^ 53 + p.off) p.val p.n) m po
    obtain ⟨m2, q2, po', h4, h5, h6⟩ := slot_writes b pr h pa ps m1 (touched q (p.off / 4096)) p1 hp.2
    refine ⟨m2, q2, po', ?_, fun e => h5 (h2 e), fun hh ha => ?_⟩
    · rw [writePieces, hb, slot_access { b with poison := po } (pr po) h m q p.off p.n .store hp.1 (.inl rfl)]
      dsimp only
      rw [show putNat (slotOver { b with poison := po } m (touched q (p.off / 4096))) (2 ^ 54 + (slotOver { b with poison := po } m q).steps)
        (2 ^ 53 + p.off) p.val p.n = slotOver { b with poison := p1 } m1 (touched q (p.off / 4096)) from h1, h4]
      rfl
    · rw [List.all_cons, Bool.and_eq_true, decide_eq_true_eq] at ha
      refine h6 (h3 hh (fun e he => ?_)) ha.2
      have := mem_bytesAt _ he
      omega

theorem witness_ContextImages_save :
    waitAll (slotState [] []) = .passed (slotState [] []) ∧ ((curHart (slotState [] [])).getS 1).toNat % 4096 = 0 ∧
    (curHart (slotState [] [])).user = false ∧ (slotState [] []).cur = 0 ∧
    okAnd (translatePages (slotState [] []) (slotUser 0) 0x40000000 0x54010 .store (pageList 0x40000000 0x54010))
      (fun p => p.2 == slotState [] []) = true ∧
    (let u := takeBack (drainAll (slotState [] []) 0) 0
     let f := flushLines 0 (rectLines (getHart u 0).csr.hwm) u none
     u.cur = 0 ∧ settleStreams f.1 0 = slotState [] [] ∧ f.1.cur = 0 ∧ f.2 = none) := by decide +kernel

/-- Where the host refuses the pages of the slot, ctxsave traps. -/
theorem witness_ContextImages_refused :
    errAnd (translatePages { slotState [] [] with rights := [{ page := 0, pages := 2 ^ 17, right := none }] } (slotUser 0) 0x40000000 0x54010
      .store (pageList 0x40000000 0x54010)) (fun e => (curHart e.state).viq.isEmpty && !faultToHost e.state e.trap) = true := by decide +kernel

/-- What ctxsave writes: a hart with all four slices and every register but s1 zero (15 Table 15.5). -/
def savedParts : ImageParts :=
  { lost := false, slices := 4, home := 0, det := false, pc := 0x10004, copyDet := false, lensDet := false, xchDet := false, mtxQ := [],
    viq := [] }

theorem witness_ContextImages_written :
    ∃ (s5 : State) (keys : List Nat), s5.cur = 0 ∧ keys.any (isPoisoned s5) = false ∧
      writePieces (slotUser 0) (imagePath (getHart (slotState [] []) 0) (16 * slicesOf (slotState [] []) 0)) 0x40000000
        (imagePieces (slotState [] []) 0 savedParts) (slotState [] []) = (s5, keys, none) := by
  have h : (imagePieces (slotState [] []) 0 savedParts).all (fun p => decide (p.off + p.n < 2 ^ 29)) = true := by decide +kernel
  obtain ⟨m, q, po, e, hp, -⟩ := slot_writes slotHart (fun _ _ _ _ _ => rfl) 0 _ _ [] [] [] h
  rw [hp rfl] at e
  refine ⟨_, _, rfl, ?_, e⟩
  exact List.any_eq_false.2 (fun _ _ h => Bool.false_ne_true h)

/-- That state with the chunk at 0x2000 of its slot poisoned, half of which ctxsave writes: the header of an empty tile. -/
def spoiltSlot : State := { slotHart with poison := [(2 ^ 48 + 256, { writer := 0, bits := 0 })] }

theorem witness_ContextImages_lost :
    (let u := takeBack (drainAll (slotOver spoiltSlot [] []) 0) 0
     let f := flushLines 0 (rectLines (getHart u 0).csr.hwm) u none
     u.cur = 0 ∧ settleStreams f.1 0 = slotOver spoiltSlot [] [] ∧ f.1.cur = 0 ∧ f.2 = none) ∧
    waitAll (slotOver spoiltSlot [] []) = .passed (slotOver spoiltSlot [] []) ∧
    okAnd (translatePages (slotOver spoiltSlot [] []) (slotUser 0) 0x40000000 0x54010 .store (pageList 0x40000000 0x54010))
      (fun p => p.2 == slotOver spoiltSlot [] []) = true ∧
    ∃ (s5 : State) (keys : List Nat), s5.cur = 0 ∧ keys.any (isPoisoned s5) = true ∧
      writePieces (slotUser 0) (imagePath (getHart (slotOver spoiltSlot [] []) 0) (16 * slicesOf (slotOver spoiltSlot [] []) 0)) 0x40000000
        (imagePieces (slotOver spoiltSlot [] []) 0 savedParts) (slotOver spoiltSlot [] []) = (s5, keys, none) := by
  refine ⟨by decide +kernel, by decide +kernel, by decide +kernel, ?_⟩
  have h : (imagePieces (slotOver spoiltSlot [] []) 0 savedParts).all (fun p => decide (p.off + p.n < 2 ^ 29)) = true ∧
      (imagePieces (slotOver spoiltSlot [] []) 0 savedParts).all (fun p => decide (p.off + p.n ≤ 0x201F ∨ 0x201F < p.off)) = true ∧
      (imagePieces (slotOver spoiltSlot [] []) 0 savedParts).any (fun p => p.off == 0x2000) = true := by decide +kernel
  obtain ⟨m, q, po, e, -, hq⟩ := slot_writes slotHart (fun _ _ _ _ _ => rfl) 0 _ _ [] [] [(2 ^ 48 + 256, { writer := 0, bits := 0 })] h.1
  obtain ⟨r, rfl, -⟩ := hq ⟨_, rfl, by decide⟩ h.2.1
  refine ⟨_, _, rfl, ?_, e⟩
  obtain ⟨p, hp, hk⟩ := List.any_eq_true.1 h.2.2
  refine List.any_eq_true.2 ⟨2 ^ 53 + p.off, List.mem_map.2 ⟨p, hp, rfl⟩, ?_⟩
  rw [beq_iff_eq.1 hk]
  rfl

/-- A state with an image in the slot in which no register is set: its header and those of its tiles. -/
def imageMem : Memory := [(2 ^ 53, 1), (2 ^ 53 + 1, 8), (2 ^ 53 + 8196, 0x40), (2 ^ 53 + 180228, 0x40)]
def restoring : State := slotState imageMem [44, 2, 1, 0]

/-- The word at index i of that image. -/
def imageWord (i : Nat) : Nat := memNat restoring (2 ^ 53 + 8 * i) 8

theorem memNat_of_mem {s t : State} (h : s.mem = t.mem) (key : Nat) : ∀ n, memNat s key n = memNat t key n
  | 0 => rfl
  | n + 1 => by rw [memNat, memNat, memNat_of_mem h key n, memByte, memByte, h]

theorem readWords_image (b : State) (pr : ∀ (m : Memory) (p : List Nat) (va : Word) (key : Nat), protection (slotOver b m p) va key = none)
    (po : b.poison = []) (h : Nat) (sq : (getHart b h).storeQ = []) :
    ∀ m j : Nat, j + m ≤ 1024 → readWords (slotOver b imageMem [44, 2, 1, 0]) (slotUser h) 0x40000000 (BitVec.ofNat 64 (0x40000000 + 8 * j)) m =
      .ok ((List.range' j m).map imageWord, slotOver b imageMem [44, 2, 1, 0])
  | 0, _, _ => rfl
  | m + 1, j, hj => by
    have hq : access (slotOver b imageMem [44, 2, 1, 0]) (slotUser h) (BitVec.ofNat 64 (0x40000000 + 8 * j)) 8 .load .front =
        .ok (2 ^ 53 + 8 * j, slotOver b imageMem [44, 2, 1, 0]) := by
      have ht : touched [44, 2, 1, 0] (8 * j / 4096) = [44, 2, 1, 0] := by
        have : 8 * j / 4096 = 0 ∨ 8 * j / 4096 = 1 := by omega
        rcases this with e | e <;> rw [e] <;> decide
      have := slot_access b pr h imageMem [44, 2, 1, 0] (8 * j) 8 .load (by omega) (.inr rfl) .front
      rw [ht] at this
      exact this
    have hn : BitVec.ofNat 64 (0x40000000 + 8 * j) + 8 = BitVec.ofNat 64 (0x40000000 + 8 * (j + 1)) := by
      apply BitVec.eq_of_toNat_eq; simp; omega
    have hr := readWords_image b pr po h sq m (j + 1) (by omega)
    have hc : isPoisoned (slotOver b imageMem [44, 2, 1, 0]) (2 ^ 53 + 8 * j) = false := by
      unfold isPoisoned; rw [show (slotOver b imageMem [44, 2, 1, 0]).poison = [] from po]; rfl
    rw [readWords, readNat, hq]
    dsimp only
    have hs : (getHart (slotOver b imageMem [44, 2, 1, 0]) h).storeQ = [] := sq
    have hw : memNat (slotOver b imageMem [44, 2, 1, 0]) (2 ^ 53 + 8 * j) 8 = imageWord j := memNat_of_mem rfl _ _
    rw [show (slotUser h).hart = h from rfl, ownSettled_of_none hs, hc, hn, if_neg (by decide)]
    dsimp only
    rw [hr]
    show Except.ok (memNat (slotOver b imageMem [44, 2, 1, 0]) (2 ^ 53 + 8 * j) 8 :: _, _) = _
    rw [hw, List.range'_succ, List.map_cons]

theorem image_checks :
    (let ws := (List.range' 0 1024).map imageWord
     (restError (curCore restoring) 0 ws).isNone = true ∧
     okAnd (loadTiles restoring 0 (slotUser 0) 0x40000000 (16 * slicesOf restoring 0)) (fun _ => true) = true ∧
     waitAll restoring = .passed restoring ∧ flushLines 0 (liveLines (curHart restoring)) (takeBack restoring 0) none = (restoring, none) ∧
     okAnd (loadOwnImage (freeStreams restoring 0) 0x40000000 ws) (fun _ => true) = true) := by decide +kernel

theorem witness_ContextImages_restore :
    ∃ ws : List Nat, readWords restoring (slotUser 0) 0x40000000 0x40000000 1024 = .ok (ws, restoring) ∧
      restError (curCore restoring) 0 ws = none ∧
      (∃ u, loadTiles restoring 0 (slotUser 0) 0x40000000 (16 * slicesOf restoring 0) = .ok u) ∧
      waitAll restoring = .passed restoring ∧ flushLines 0 (liveLines (curHart restoring)) (takeBack restoring 0) none = (restoring, none) ∧
      (∃ u, loadOwnImage (freeStreams restoring 0) 0x40000000 ws = .ok u) ∧ vmemPending (curHart restoring) = false ∧
      drainOwn restoring = restoring := by
  obtain ⟨h1, h2, h3, h4, h5⟩ := image_checks
  obtain ⟨u, hu, -⟩ := okAnd_elim h2
  obtain ⟨v, hv, -⟩ := okAnd_elim h5
  exact ⟨_, readWords_image slotHart (fun _ _ _ _ => rfl) rfl 0 rfl 1024 0 (by decide), Option.isNone_iff_eq_none.mp h1, ⟨u, hu⟩, h3, h4, ⟨v, hv⟩, rfl, rfl⟩

/-- An image whose header is not one. -/
theorem witness_ContextImages_bad :
    (restError (curCore restoring) 0 (List.replicate 1024 0)) = some 96 ∧ (curHart restoring).viq = [] := by decide +kernel

/-- A store to the host window while the model runs relaxed (12 R275). -/
theorem witness_ScalarStores_host :
    let s := { slotState [] [] with relaxed := true }
    okAnd (access s (agentOf s 0) 0x40000008 8 .store .scalar) (fun p => p.2.relaxed && decide (2 ^ 53 ≤ p.1)) = true ∧
    Memory.wf s.mem = true ∧ vmemPending (curHart s) = false := by decide +kernel

/-! Vector instructions. -/

/-- Whether vector instruction i is admitted, runs at once and issuesTo, in a state that passes a check. -/
def issuesTo (s : State) (i : Instr) (p : State → Bool) : Bool :=
  let e := vectorEntry s i
  match vopOf s s.cur e with
  | none => false
  | some op =>
    !s.keeper.off && (shapeFields i).isSome && !(curHart s).vq && op.legal (curHart s) e.cap && streamsOk (curHart s) op e.cap &&
      !owedFor s (curHart s).ctx && !s.relaxed && (curHart s).viq.isEmpty && op.ready (vectorQueued s i) s.cur e && canStart (vectorQueued s i) s.cur e.lines &&
      (op.pre (vectorQueued s i) s.cur e).isNone &&
      okAnd (issueEntry op (vectorQueued s i) s.cur e) (fun s2 =>
        (getHart s2 s.cur).viq == [e] && (getHart s2 s.cur).streams.isEmpty && (getHart s2 s.cur).sync.isNone &&
          ((getHart s2 s.cur).storeQ.isEmpty && p s2))

theorem issues_elim {s : State} {i : Instr} {p : State → Bool} (h : issuesTo s i p = true) :
    ∃ op s2, Issues s i op s2 ∧ storesDone s2 s.cur = s2 ∧ p s2 = true := by
  unfold issuesTo at h
  dsimp only at h
  split at h
  · cases h
  · rename_i op hop
    simp only [Bool.and_eq_true, Bool.not_eq_true', List.isEmpty_iff, Option.isNone_iff_eq_none] at h
    obtain ⟨⟨⟨⟨⟨⟨⟨⟨⟨⟨⟨hp, hs⟩, hv⟩, hl⟩, hst⟩, ho⟩, hr⟩, hq⟩, hrd⟩, hcs⟩, hpre⟩, hi⟩ := h
    obtain ⟨s2, h2, hc⟩ := okAnd_elim hi
    simp only [Bool.and_eq_true, beq_iff_eq, List.isEmpty_iff, Option.isNone_iff_eq_none] at hc
    obtain ⟨⟨⟨hviq, hstr⟩, hsy⟩, hsq, hnp⟩ := hc
    exact ⟨op, s2, ⟨⟨hp, hs, hop, hv, hl, hst, by rw [hq]; decide, ho⟩, hr, hq, hrd, hcs, hpre, h2, hviq, hstr, hsy⟩, by simp [storesDone, hsq], hnp⟩

/-- No container of the executing hart is poisoned. -/
def clean (s : State) : Bool := (curHart s).vreg.all (fun p => !cPsn p.2)

theorem clean_elim {s : State} (h : clean s = true) : NoPoison (curHart s) := by
  intro p hp
  have := List.all_eq_true.mp h p hp
  simpa using this

/-- A hart with shape registers: sh1 16 I32 elements of which one pads, sh2 16 FP32, sh3 16 I16, sh4 16 I8, sh5 no element, sh6 16 I4; s1 to s3 hold addresses
and a stride. -/
def vhart : Hart :=
  let x := hart [(1, 0x2000), (2, 4), (3, 0x3000), (4, 0)]
  (((((x.setSh 1 (shapeOf 16 1 2 0 0 0)).setSh 2 (shapeOf 16 0 12 0 0 0)).setSh 3 (shapeOf 16 0 1 0 0 0)).setSh 4 (shapeOf 16 0 0 0 0 0)).setSh 5
    (shapeOf 0 0 2 0 0 0)).setSh 6 (shapeOf 16 0 8 0 0 0)

/-- The state in which it executes. -/
def vst : State := st vhart


theorem witness_IntegerElements : ∀ i ∈ ([
      .vadd 4 6 8 1 1, .vsub 4 6 8 1 1, .vmul 4 6 8 1 1, .vmulh 4 6 8 1 1, .vsadd 4 6 8 1 1, .vssub 4 6 8 1 1,
      .vmin 4 6 8 1 1, .vmax 4 6 8 1 1, .vand 4 6 8 1 1, .vor 4 6 8 1 1, .vxor 4 6 8 1 1, .vsll 4 6 8 1 1, .vsrl 4 6 8 1 1,
      .vsra 4 6 8 1 1] : List Instr),
    issuesTo vst i clean = true ∧ (integerLaw i).isSome = true := by decide +kernel

theorem witness_IntegerElements_widths : ∀ i ∈ ([
      .vmacc 4 6 8 3 1, .vnshrTz 4 6 8 3 1, .vnshrHu 4 6 8 3 1, .vnshrHe 4 6 8 3 1, .vnshrOd 4 6 8 3 1] : List Instr),
    issuesTo vst i clean = true ∧ (widthLaw i).isSome = true := by decide +kernel

theorem witness_ElementsMoved_placed : ∀ i ∈ ([
      .vmv 4 6 1 1, .vmerge 4 6 8 1 1, .vsplat 4 1 1 1, .vid 4 1 1, .viota 4 2 1 1] : List Instr),
    issuesTo vst i clean = true ∧ (placeLaw i).isSome = true := by decide +kernel

theorem witness_ElementsMoved_permuted : ∀ i ∈ ([
      .vperm 4 6 8 1 1, .vslideUp 4 6 2 1 1, .vslideDn 4 6 2 1 1, .vbcast 4 6 2 1 1, .vreshape 4 6 1 1 1, .vunpack 4 6 6 1,
      .vlut 4 6 8 4 1, .vexpand 4 6 1 1, .vcompress 4 6 1 1] : List Instr),
    issuesTo vst i clean = true ∧ (permuteLaw i).isSome = true := by decide +kernel

theorem witness_MasksWritten_compares : ∀ i ∈ ([
      .vcmpEq 2 6 8 1 1, .vcmpNe 2 6 8 1 1, .vcmpLt 2 6 8 1 1, .vcmpLe 2 6 8 1 1, .vcmpGt 2 6 8 1 1, .vcmpGe 2 6 8 1 1,
      .vfcmpEq 2 6 8 2 1, .vfcmpNe 2 6 8 2 1, .vfcmpLt 2 6 8 2 1, .vfcmpLe 2 6 8 2 1, .vfcmpGt 2 6 8 2 1,
      .vfcmpGe 2 6 8 2 1, .vfcmpUn 2 6 8 2 1] : List Instr),
    issuesTo vst i clean = true ∧ (compareLaw i).isSome = true := by decide +kernel

theorem witness_MasksWritten_masks : ∀ i ∈ ([
      .mand 2 3 4 1, .mor 2 3 4 1, .mxor 2 3 4 1, .mandn 2 3 4 1] : List Instr),
    issuesTo vst i clean = true ∧ (maskLaw i).isSome = true := by decide +kernel

theorem witness_FloatElements : ∀ i ∈ ([
      .vfadd 4 6 8 2 1, .vfsub 4 6 8 2 1, .vfmul 4 6 8 2 1, .vfma 4 6 8 2 1, .vfms 4 6 8 2 1, .vfnma 4 6 8 2 1,
      .vfdiv 4 6 8 2 1, .vfsqrt 4 6 2 1] : List Instr),
    issuesTo vst i clean = true ∧ (floatLaw i).isSome = true := by decide +kernel

theorem witness_FloatElements_moves : ∀ i ∈ ([
      .vfmin 4 6 8 2 1, .vfmax 4 6 8 2 1, .vfsgnJ 4 6 8 2 1, .vfsgnJn 4 6 8 2 1, .vfsgnJx 4 6 8 2 1, .vfclass 4 6 2 1,
      .vfrcp 4 6 2 1, .vfrsq 4 6 2 1, .vfexp2 4 6 2 1, .vflog2 4 6 2 1, .vsettle 4 6 2 1, .vtail 4 6 2 1, .vcvt 4 6 2 2 1] : List Instr),
    issuesTo vst i clean = true ∧ (floatMoveLaw i).isSome = true := by decide +kernel

theorem witness_RowsReduced : ∀ i ∈ ([
      .vredsumOrd 4 6 8 2 1, .vredsumTree 4 6 2 1, .vredmax 4 6 1 1, .vredmin 4 6 2 1, .vredmax 4 6 5 1] : List Instr),
    issuesTo vst i clean = true ∧ (reduceLaw i).isSome = true := by decide +kernel

theorem witness_RowsReduced_scans : ∀ i ∈ ([
      .vscanAdd 4 6 1 1, .vscanMax 4 6 2 1, .vscanAdd 4 6 5 1] : List Instr),
    issuesTo vst i clean = true ∧ (scanLaw i).isSome = true := by decide +kernel

theorem witness_ElementsMoved_vins : issuesTo vst (.vins 4 1 2 1) clean = true ∧ issuesTo vst (.vins 4 1 1 1) clean = true ∧
    fmtPacked (shFmt (vectorEntry vst (.vmv 4 6 1 1)).cap.shape) = false := by decide +kernel

theorem witness_SyncReadsReturn : ∀ i ∈ ([.mpop 5 2 1 0, .mfirst 5 2 1 0, .vmovs 5 6 4 1, .vargmax 5 6 1 0, .bvany 2 1 5, .bvnone 2 1 5] : List Instr),
    issuesTo vst i clean = true := by decide +kernel

theorem witness_RowsReduced_topk_RunsSorted : ∀ i ∈ ([.vtopk 16 4 2 2 1, .rgen 10 4 6 1 1, .rgenTop 10 4 6 1 1, .rmerge 10 4 6 1] : List Instr),
    issuesTo vst i clean = true := by decide +kernel

/-- A hart with a poisoned element 0 of v6. -/
def poisonedHart : Hart := vhart.setC 6 0 (mkC true 0 1)

theorem witness_VectorChecks_poison : ∀ i ∈ ([.vadd 4 6 8 1 0, .vmul 4 6 8 1 0, .vsll 4 6 8 1 0, .vfadd 4 6 8 2 0, .vfma 4 6 8 2 0,
      .vfmin 4 6 8 2 0, .vcmpLt 2 6 8 1 0] : List Instr),
    issuesTo (st poisonedHart) i (fun t => decide (0 < realLen (vectorEntry (st poisonedHart) i).cap.shape) && (curHart t).maskBit 0 0 &&
      ((curHart t).elem (shFmt (vectorEntry (st poisonedHart) i).cap.shape) 6 0).psn) = true := by decide +kernel

/-- What capture finds: an operation, whether it is legal, and whether its streams agree. -/
def captured (s : State) (i : Instr) : Option (Bool × Bool) :=
  let e := vectorEntry s i
  (vopOf s s.cur e).map (fun op => (op.legal (curHart s) e.cap, streamsOk (curHart s) op e.cap))

/-- A hart whose VIQ holds n entries. -/
def queued (n : Nat) : Hart := { vhart with viq := List.replicate n (vectorEntry vst (.vadd 4 6 8 1 1)) }

theorem witness_VectorEntersQueue :
    captured (st (queued 1)) (.vadd 4 6 8 1 1) = some (true, true) ∧ (queued 1).viq.length < 32 ∧ (queued 1).viq ≠ [] ∧
    owedFor (st (queued 1)) (queued 1).ctx = false ∧ (queued 1).vq = false ∧
    captured { vst with relaxed := true } (.vadd 4 6 8 1 1) = some (true, true) ∧
    captured (st (queued 32)) (.vadd 4 6 8 1 1) = some (true, true) ∧ 32 ≤ (queued 32).viq.length := by decide +kernel

theorem witness_VectorChecks_illegal :
    captured vst (.vfadd 4 6 8 1 1) = some (false, true) ∧ vst.harts.all (fun p => p.2.viq.isEmpty) = true ∧
    (captured (st { vhart with csr := { Csrs.reset with tstatus := 4 } }) (.vadd 4 6 8 1 1)).isSome = true ∧
    ({ vhart with csr := { Csrs.reset with tstatus := 4 } } : Hart).vq = true ∧
    (captured (st { vhart with streams := [(28, someStream)] }) (.vadd 28 6 8 2 1)).any (fun p => !p.2) = true := by decide +kernel

theorem witness_TileVectors :
    issuesTo vst (.mext 4 4 0 2 1) (fun _ => true) = true ∧ issuesTo vst (.mplane 4 4 1 1) clean = true := by decide +kernel

/-- The trap of the checks at issue. -/
def refusedAt (s : State) (i : Instr) : Option Trap :=
  let e := vectorEntry s i
  (vopOf s s.cur e).bind (fun op => if op.ready (vectorQueued s i) s.cur e then op.pre (vectorQueued s i) s.cur e else none)

theorem witness_TileVectors_refused :
    captured (st (vhart.setS 4 300)) (.mext 4 4 0 2 1) = some (true, true) ∧ (refusedAt (st (vhart.setS 4 300)) (.mext 4 4 0 2 1)).isSome = true ∧
    captured (st (vhart.setS 4 (BitVec.allOnes 64))) (.mplane 4 4 1 1) = some (true, true) ∧
    (refusedAt (st (vhart.setS 4 (BitVec.allOnes 64))) (.mplane 4 4 1 1)).isSome = true := by decide +kernel

/-! Sweeps over memory that succeed at every position, with the steps of the statements. -/

/-- The step of a load. -/
def loadStep (s : State) (i : Instr) (d : BitVec 5) (fields : Nat) (m : BitVec 3) (f : BitVec 5) (t : State) (r k : Nat) : Option State :=
  let c := (vectorEntry s i).cap
  let x := getHart t s.cur
  if realLen c.shape ≤ k then
    some (putHart t s.cur ((List.range fields).foldl
      (fun (y : Hart) j => y.setElemIn (shFmt c.shape) (d.toNat + j * shRows c.shape + r) k Elem.zero (loadFills x (vectorEntry s i))) x))
  else if x.maskBit m.toNat k then
    ((loadPlaces i c x r k).foldl (fun (o : Option (List LoadDatum × State)) q =>
       o.bind (fun w =>
         match readDatum w.2 s.cur f.toNat r k q.1 q.2.1 q.2.2.1 q.2.2.2.1 (loadRoute i (vectorEntry s i) w.2 s.cur fields k m f q.2.2.2.2) with
         | .ok (q1, t1) => some (w.1 ++ [q1], t1)
         | .error _ => none)) (some ([], t))).map
      (fun w => putHart w.2 s.cur (w.1.foldl (fun y q =>
        let z := landDatum d f.toNat y (vectorEntry s i) q
        if (match i with | .vldw .. => true | _ => false) then z.setM m.toNat (withBit (z.getM m.toNat) q.elem false) else z) (getHart w.2 s.cur)))
  else some t

/-- Whether a load issuesTo and every position succeeds. -/
def loads (i : Instr) : Bool :=
  match loadFields i with
  | none => false
  | some (d, n, m, f) =>
    issuesTo vst i (fun t => clean t && (sweepTo (vectorEntry vst i).cap.shape (loadStep vst i d n m f) t).isSome &&
      (f.toNat < 17 || (vectorEntry vst i).cap.sa1.toNat % 2 == 0))

theorem witness_VectorLoads : ∀ i ∈ ([.vld 4 1 0 1 0 2, .vlds 4 1 2 1 0 2, .vldx 4 1 6 1 0 2, .vldseg 4 1 2 1 0 2, .vldw 4 1 6 1 1 2,
      .vld 4 1 0 2 0 17] : List Instr), loads i = true := by decide +kernel

/-- The step of a store. -/
def storeStep (s : State) (i : Instr) (d : BitVec 5) (m : BitVec 3) (f : BitVec 5) (t : State) (r k : Nat) : Option State :=
  let e := vectorEntry s i
  let c := e.cap
  let x := getHart t s.cur
  if realLen c.shape ≤ k ∨ x.maskBit m.toNat k = false then some t
  else
    ((storePlaces i c x r k).foldl (fun (o : Option (List MaskedByte × Flags × State)) q =>
       o.bind (fun w =>
         match storeDatum w.2.2 s.cur e f.toNat (d.toNat + q.1 * shRows c.shape + r) k q.2.1 q.2.2 (storeRoute i e w.2.2 s.cur k m f q.2.1 q.2.2) with
         | .ok (bs, fl, t1) => some (w.1 ++ bs, w.2.1 ||| fl, t1)
         | .error _ => none)) (some ([], 0, t))).map
      (fun w => performStores w.2.2 s.cur e w.1 w.2.1)

/-- Whether a store issuesTo and every position succeeds. -/
def stores (i : Instr) : Bool :=
  match storeFields i with
  | none => false
  | some (d, m, f) => issuesTo vst i (fun t => clean t && (sweepTo (vectorEntry vst i).cap.shape (storeStep vst i d m f) t).isSome)

theorem witness_VectorStores : ∀ i ∈ ([.vst 4 1 0 1 0 2, .vsts 4 1 2 1 0 2, .vstx 4 1 6 1 0 2, .vstseg 4 1 2 1 0 2] : List Instr),
    stores i = true := by decide +kernel

theorem witness_VectorLoads_fill :
    (let e := vectorEntry vst (.vfill 4 1 1)
     issuesTo vst (.vfill 4 1 1) (fun s2 => e.cap.sa.toNat % 4 == 0 && (sweepTo e.cap.shape (fun (t : State) (r k : Nat) =>
       match fillSome t 0 e r k (spillCs e k) with
       | .ok (qs, t1) => some (putHart t1 0 (qs.foldl (fun y q =>
           y.setC (4 + q.row) q.fld (mkC q.psn (q.bits / 2 ^ 32) q.bits)) (getHart t1 0)))
       | .error _ => none) s2).isSome)) = true := by decide +kernel

theorem witness_VectorStores_spill :
    (let e := vectorEntry vst (.vspill 4 1 1)
     issuesTo vst (.vspill 4 1 1) (fun s2 => e.cap.sa.toNat % 4 == 0 && (sweepTo e.cap.shape (fun (t : State) (r k : Nat) =>
       match spillSome t 0 e (4 + r) r (spillCs e k) with
       | .error _ => none
       | .ok (bs, ks, t1) =>
         match spillZeros t1 0 e r (if k + 1 = shVL e.cap.shape then spillRest e.cap else []) with
         | .error _ => none
         | .ok (cs, t2) => some (ks.foldl poisonChunk (performStores t2 0 e (bs ++ cs) 0))) s2).isSome)) = true := by decide +kernel

theorem witness_VectorStores_reductions : ∀ i ∈ ([.vredAdd 4 1 6 1 0 2, .vredMin 4 1 6 1 0 2, .vredMax 4 1 6 1 0 2] : List Instr),
    (match vredFields i with
     | none => false
     | some (kind, d, b, m, f) =>
       let c := (vectorEntry vst i).cap
       issuesTo vst i (fun s2 => clean s2 && (curHart s2).storeQ.isEmpty && (sweepTo c.shape (fun (w : State) (r k : Nat) =>
         let x := getHart w 0
         let va := addInt c.sa (signedOf 32 (cData (x.getC (b.toNat + r) k)) * (fmtBytes f.toNat : Nat))
         if realLen c.shape ≤ k ∨ x.maskBit m.toNat k = false then some w
         else if va.toNat % fmtBytes f.toNat ≠ 0 then none
         else
           match access w (agentOf w 0) va (fmtBytes f.toNat) (.atomic false)
             (storePath (vecAlloc x (gatherFoot w 0 (vectorEntry vst i) f.toNat b.toNat m.toNat k) true) 0 [] 0 0) with
           | .error _ => none
           | .ok (key, w1) =>
             if isPoisoned w1 key = true ∨ (pkgOfKey key).isSome = true then none
             else
               let z := vredUpdate kind f.toNat c.fpctl (memNat w1 key (fmtBytes f.toNat)) (x.elem f.toNat (d.toNat + r) k)
               some (setHead (writeNat w1 0 key z.1 (fmtBytes f.toNat)) 0 (fun q => { q with flags := q.flags ||| z.2 }))) s2).isSome)) = true := by
  decide +kernel

/-! Engine commands at the front end. -/

/-- A tile of 16 rows and 64 columns of A8 by dense T8 (09 Table 09.1), as settile asks for it. -/
def tileAsk : Nat := 16 * 2 ^ 48 + 64 * 2 ^ 57

/-- A hart with that tile in sh7. -/
def tiler : Hart := (hart [(1, BitVec.ofNat 64 tileAsk), (2, 0x2000), (5, 0), (6, 0), (7, 0x2000), (8, 4)]).setSh 7 (BitVec.ofNat 64 (16 * 2 ^ 21 + 64))

/-- n matrix commands waiting. -/
def backlog (n : Nat) : Hart := { tiler with eng := { Engines.zero with mtxQ := List.replicate n (newCmd tiler (.mzero 0 0) 0 0 0 0) } }

theorem witness_CommandsQueued_settile :
    (tileAsk % 2 ^ 20 = 0 ∧ tileAsk / 2 ^ 29 % 8 = 0 ∧ tileAsk / 2 ^ 20 % 32 ∈ [0, 1, 8, 9, 20, 21, 22, 23] ∧ tileAsk / 2 ^ 27 % 4 < 2 ∧
      tileAsk.testBit 26 = false) ∧
    ((curHart (st tiler)).getS 1).toNat = tileAsk ∧ ¬ (2 ^ 20 * 2 / 2 ^ 20 % 32 ∈ [0, 1, 8, 9, 20, 21, 22, 23]) ∧
    ¬ ((2 ^ 20 + 1) % 2 ^ 20 = 0) ∧ (curHart (st tiler)).viq = [] ∧ shFmt (tiler.getSh 7) < 24 ∧
    24 ≤ shFmt ((tiler.setSh 7 (BitVec.ofNat 64 (24 * 2 ^ 13))).getSh 7) := by decide +kernel

theorem witness_CommandsQueued_matrix :
    16 ≤ (curHart (st (backlog 16))).eng.mtxQ.length ∧ (curHart (st (backlog 15))).eng.mtxQ.length < 16 ∧
    vmemPending (backlog 15) = false ∧ vmemPending { backlog 15 with viq := [vectorEntry (st tiler) (.vld 4 1 0 1 0 2)] } = true ∧
    macCheck (st { backlog 15 with viq := [vectorEntry (st tiler) (.vld 4 1 0 1 0 2)] }) 0 (tiler.getSh 7) (tiler.getS 5) (tiler.getS 6) = none ∧
    macCheck (st tiler) 0 (tiler.getSh 7) (tiler.getS 5) (tiler.getS 6) = none ∧
    (macCheck (st tiler) 0 (tiler.getSh 7) (tiler.getS 5) (tiler.getS 8)).isSome = true ∧ (6#5 ≠ 31) ∧ (tiler.getS (6 + 1)).toNat % 4 = 0 ∧
    okAnd (access (st tiler) (agentOf (st tiler) 0) (tiler.getS (6 + 1)) 4 .load .front) (fun p => curHart p.2 == tiler && p.2.cur == 0) = true ∧
    (tiler.getS 2).toNat % 16 = 0 ∧
    (let bytes := 16 + 10 * spillRows tiler 0 * (16 * slicesOf (st tiler) 0)
     okAnd (translatePages (st tiler) (agentOf (st tiler) 0) (tiler.getS 2) bytes .store (pageList (tiler.getS 2).toNat bytes))
       (fun p => curHart p.2 == tiler && p.2.cur == 0) = true) := by decide +kernel

/-- A state with the image of a tile of one row and 16 columns at 0x2000. -/
def imageAt : State := stWords tiler [(0x2000, 2 ^ 16 + 16 * 2 ^ 32)]

theorem witness_CommandsQueued_mfill :
    okAnd (readWords imageAt (agentOf imageAt 0) 0x2000 0x2000 2) (fun p => p.1 == [2 ^ 16 + 16 * 2 ^ 32, 0] &&
      imageHeaderOk (2 ^ 16 + 16 * 2 ^ 32) 0 (16 * slicesOf imageAt 0) &&
      okAnd (translatePages p.2 (agentOf p.2 0) 0x2000 176 .load (pageList 0x2000 176)) (fun q => curHart q.2 == tiler && q.2.cur == 0)) = true := by
  decide +kernel

/-- A copy of 16 bytes of memory to scratchpad offset 64, described at 0x5000; and a fill with a stride in its source. -/
def copyWords : List (Nat × Nat) := [(0x5000, 0x2000), (0x5008, 64), (0x5010, 0x100000010), (0x5018, 0x100000001), (0x5038, 2)]
def badFill : List (Nat × Nat) := [(0x5020, 1)]

theorem witness_CommandsQueued_copy :
    let x := hart [(1, 0x5000)]
    let s := stWords x copyWords
    (x.getS 1).toNat % 64 = 0 ∧ vmemPending x = false ∧ vmemPending (withEntry x (.vld 4 1 0 1 0 2)) = true ∧
    okAnd (readWords s (agentOf s 0) 0x5000 0x5000 8) (fun p =>
      let c := copyOfDesc p.2 false (bytesOfWords p.1)
      (copyDescError false (bytesOfWords p.1)).isNone && curHart p.2 == x && p.2.cur == 0 && !c.sscr && c.dscr &&
        decide (0 ≤ (copySpan c.daddr c.cnt c.dstep).1) && decide ((copySpan c.daddr c.cnt c.dstep).2 < (scratchBytes p.2 0 : Int)) &&
        c.cnt == [16, 1, 1, 1]) = true ∧
    okAnd (readWords (stWords x badFill) (agentOf s 0) 0x5000 0x5000 8) (fun p => copyDescError true (bytesOfWords p.1) == some 32 && curHart p.2 == x) = true := by
  decide +kernel

/-- The member of rank 0 that context 1 is, and an exchange of it alone. -/
def member : XMember := XMember.fresh 0 0 0 1 none
def exchange : XCtx :=
  { tag := 9, nmem := 1, nrecv := 1, keyw := 1, plen := 1, ptype := 2, comb := 0, drnd := 0, pin := false, samp := 31, splits := [],
    pendHw := none, step := 3, members := [member], flight := [], tails := [], away := [], landed := [], injected := [], samples := [], lastSamples := [4, 2],
    hist := [], lastHist := [], isPartial := false, forLens := false }

/-- A hart whose s1 names the exchange, in a state that holds it with a member. -/
def xhart : Hart := hart [(1, 63), (2, 0x5000)]
def xst (f : XMember → XMember) : State := { st xhart with xctx := [(63, { exchange with members := [f member] })] }

theorem witness_ExchangeCommands :
    ((curHart (xst id)).getS 1).toNat = 63 ∧ (smFind (xst id).xctx 63).isSome = true ∧ exchange.forLens = false ∧
    exchange.memberOf (curHart (xst id)).ctx = some member ∧ exchange.isPartial = false ∧ ({ exchange with isPartial := true }).isPartial = true ∧
    vmemPending (curHart (xst id)) = false ∧ vmemPending (withEntry xhart (.vld 4 1 0 1 0 2)) = true ∧ drainOwn (xst id) = xst id ∧
    (curHart (xst id)).viq = [] ∧ (curHart (xst id)).eng.xchQ = [] ∧ member.ended = false ∧ member.sent = 0 ∧
    ({ member with ended := true }).ended = true ∧ ({ member with waiting := some 2 }).waiting = some 2 ∧ 2 < exchange.step ∧ exchange.step ≤ 3 ∧
    (9#4).toNat < 10 := by decide +kernel

theorem witness_ExchangeCommands_reads :
    let s := xst id
    okAnd (readSplits s (agentOf s 0) 0x5000 32 1) (fun p => curHart p.2 == xhart && p.2.cur == 0) = true ∧
    okAnd (readBuf s (agentOf s 0) 0x5000) (fun p => curHart p.2 == xhart && p.2.cur == 0) = true ∧
    okAnd (loadNat s (agentOf s 0) 0x5000 4) (fun p =>
      okAnd (translatePages p.2 (agentOf p.2 0) 0x5000 24 .store (pageList 0x5000 24)) (fun q => curHart q.2 == xhart && q.2.cur == 0)) = true ∧
    (16 + 4 * 1 + 7) / 8 * 8 = 24 := by decide +kernel

/-- Descriptors of an exchange of two members (of keys alone) and of a Lens state of eight amplitudes at 0x6000, at 0x5000. -/
def xopenWords : List (Nat × Nat) := [(0x5000, 2 * 2 ^ 32 + 9), (0x5008, 2 ^ 32)]
def qopenWords : List (Nat × Nat) := [(0x5000, 3 * 2 ^ 32 + 9), (0x5008, 1), (0x5010, 0x6000)]

theorem witness_CollectivesOpen :
    let x := hart [(1, 0x5000)]
    let o : OpenResult := { ctx := 1, lens := false, value := 63, trap := none }
    okAnd (readWords (stWords x xopenWords) (agentOf (st x) 0) 0x5000 0x5000 8) (fun p =>
      (xopenDescError (bytesOfWords p.1)).isNone && curHart p.2 == x && p.2.opened.isEmpty && p.2.xgather.isEmpty) = true ∧
    okAnd (readWords (stWords x qopenWords) (agentOf (st x) 0) 0x5000 0x5000 8) (fun p =>
      (qopenDescError (bytesOfWords p.1)).isNone && curHart p.2 == x && p.2.qgather.isEmpty &&
        okAnd (regionPages p.2 (agentOf p.2 0) 0x6000 64 (pageList 0x6000 64)) (fun q =>
          q.1.all (fun w => inRegionWindow w.pa) && curHart q.2 == x && q.2.cur == 0)) = true ∧
    ({ st x with opened := [o] } : State).opened.find? (fun p => p.ctx == x.ctx && (p.lens == false)) = some o ∧ o.trap = none ∧ x.getS 1 ≠ 0 ∧
    ({ st x with opened := [{ o with lens := true }] } : State).opened.find? (fun p => p.ctx == x.ctx && (p.lens == true)) = some { o with lens := true } ∧
    (hart []).getS 1 = 0 ∧ (hart []).eng.lensQ = [] ∧ vmemPending x = false ∧ x.storeQ = [] ∧
    vmemPending (withEntry x (.vld 4 1 0 1 0 2)) = true := by decide +kernel

/-- A vector hart whose s1 names the exchange. -/
def sender : Hart := vhart.setS 1 63

theorem witness_RecordsSent :
    let s : State := { st sender with xctx := [(63, exchange)] }
    okAnd (xcheck s (sender.getS 1) true false) (fun p => p.1 == 63 && p.2.1 == exchange && p.2.2 == some member) = true ∧
    xsendMisfit (curHart s) exchange (shFmt (vectorEntry s (.xsend 1 4 6 1 0)).cap.shape) 6 = false ∧
    issuesTo s (.xsend 1 4 6 1 0) (fun t => (sweepTo (vectorEntry s (.xsend 1 4 6 1 0)).cap.shape (fun (t : State) (_ k : Nat) =>
      let x := getHart t 0
      match smFind t.xctx 63 with
      | none => some t
      | some c =>
        match c.memberOf x.ctx with
        | none => some t
        | some w =>
          let key := keyWord 2 false (x.elem 2 4 k)
          let r := (c.splits.filter (fun p => p ≤ key)).length
          if k = 0 ∧ w.ended = true then none
          else if 15 ≤ k ∨ x.maskBit 0 k = false ∨ c.isPartial = true then some t
          else if (x.elem 2 4 k).psn = true ∨ (∃ l ∈ w.lastKey, key < l) ∨ 2 ^ 32 ≤ smGet 0 w.trains r + 1 then none
          else
            match (if c.comb = 4 then .ok [mkC false 0 1] else payloadFrom x c.ptype k (groupRegs 6 (payloadRegs c))) with
            | .error _ => none
            | .ok cs =>
              let z := c.setMember w.rank (fun y =>
                { y with sent := y.sent + 1, lastKey := some key, trains := smPut y.trains r (smGet 0 w.trains r + 1) })
              some (putX t 63 { z with
                flight := c.flight ++ [{ sender := w.rank, recv := r, key := key, no := w.sent, elems := cs, psn := false, flags := 0 }]
                hist := smPut c.hist r (smGet 0 c.hist r + 1) })) t).isSome) = true := by decide +kernel

theorem witness_RecordsSent_order :
    let s : State := { st sender with xctx := [(63, { exchange with members := [{ member with lastKey := some (2 ^ 32 - 1) }] })] }
    okAnd (xcheck s (sender.getS 1) true false) (fun p => p.1 == 63) = true ∧
    issuesTo s (.xsend 1 4 6 1 0) (fun t => (curHart t).maskBit 0 0 && !((curHart t).elem 2 4 0).psn &&
      decide (keyWord 2 false ((curHart t).elem 2 4 0) < 2 ^ 32 - 1) && decide (0 < realLen (vectorEntry s (.xsend 1 4 6 1 0)).cap.shape)) = true := by
  decide +kernel

/-- The member of rank 0 of a Lens state of three qubits that context 1 is, and that state. -/
def lmember : LMember := { rank := 0, pkg := 0, hart := 0, ctx := 1, pages := [{ page := 0, pa := 0, cmp := false }], base := 0x6000, left := false, done := false, issued := [] }
def lens : LensState :=
  { tag := 9, n := 3, p := 1, wrnd := 0, members := [lmember], map := [0, 1, 2], failed := false, next := 0, run := false, swap := [], inbox := [], xslot := none }

/-- A hart whose s1 names that state, with bytes of the record at s2 in the scratchpad. -/
def lhart : Hart := hart [(1, 63), (2, 8)]
def lst (bs : List Nat) : State :=
  (List.zip (List.range bs.length) bs).foldl (fun s b => { s with mem := smSet 0 s.mem (scrKey 0 (8 + b.1)) (BitVec.ofNat 8 b.2) })
    { st lhart with lens := [(63, lens)] }

/-- Whether the record that is in the scratchpad is one for the command. -/
def lensReady (s : State) (i : Instr) : Bool :=
  let bs := (List.range (recordHead i)).map (fun k => memByte s (scrKey 0 (8 + k)))
  (List.range (recordHead i)).all (fun k => !isPoisoned s (scrKey 0 (8 + k))) &&
    decide (8 + recordHead i + matrixBytes i (recByte bs 0) ≤ scratchBytes s 0) && recordOk lens i bs &&
    okAnd (readPages s i bs) (fun p => curHart p.2 == lhart && p.2.cur == 0)

theorem witness_LensCommandsQueued :
    vmemPending lhart = false ∧ vmemPending (withEntry lhart (.vld 4 1 0 1 0 2)) = true ∧ drainOwn (lst []) = lst [] ∧ lhart.storeQ = [] ∧ (lhart.getS 1).toNat < 64 ∧ (lhart.getS 2).toNat % 8 = 0 ∧
    smFind (lst []).lens 63 = some lens ∧ (lens.memberOf lhart.ctx).isSome = true ∧
    (∀ i ∈ ([.qmap 5 1 2, .qinit 5 1 2, .qswap 5 1 2, .qprob 5 1 2, .qproj 5 1 2, .qread 5 1 2] : List Instr), lensReady (lst []) i = true) ∧
    (∀ i ∈ ([.qgate 5 1 2, .qdiag 5 1 2] : List Instr), lensReady (lst [1, 0, 255, 255, 255, 255]) i = true ∧
      recordOk lens i ((List.range (recordHead i)).map (fun k => memByte (lst []) (scrKey 0 (8 + k)))) = false) ∧
    (4#64).toNat % 8 ≠ 0 ∧ scratchBytes (lst []) 0 < 2 ^ 20 + recordHead (.qinit 5 1 2) ∧ smFind (lst []).lens 62 = none ∧
    lens.memberOf 2 = none ∧ 64 ≤ (64#64).toNat := by decide +kernel

/-! Steps of the other units. -/

/-- The one VIQ entry of a vector instruction in vst, as queued. -/
def entryOf (i : Instr) : VEntry := vectorEntry vst i

/-- vst with that entry in the VIQ of its hart. -/
def running (e : VEntry) : State := st { vhart with viq := [e] }

/-- A check of the operation of an entry that stands alone in the VIQ. -/
def opOf (e : VEntry) (p : VOp → Bool) : Bool := (vopOf (running e) 0 e).any p

/-- An entry whose lines are in. -/
def issuedEntry (i : Instr) : VEntry := { entryOf i with issued := true, prog := .beats 0 }

theorem witness_VectorUnitSteps_issue :
    opOf (entryOf (.vadd 4 6 8 1 1)) (fun op =>
      let e := entryOf (.vadd 4 6 8 1 1)
      !e.issued && op.ready (running e) 0 e && canStart (running e) 0 e.lines && !owedFor (running e) 1 && (op.pre (running e) 0 e).isNone &&
        okAnd (issueEntry op (running e) 0 e) (fun t => (getHart t 0).viq == [e])) = true := by decide +kernel

theorem witness_VectorUnitSteps_beat :
    opOf (issuedEntry (.vadd 4 6 8 1 1)) (fun op =>
      let e := issuedEntry (.vadd 4 6 8 1 1)
      let b := e.issuedBeats
      let ps := (allPositions op e).filter (fun p => beatOfPos op e p == b)
      e.issued && op.byBeats && !op.mem && !headOnly (getHart (running e) 0) e op && decide (b < totalBeats op e) &&
        (sweepOver (onePos op 0 e) (positionsLeft op e) (running e)).2.isNone &&
        (match op.run with | .pos _ => (getHart (sweepOver (onePos op 0 e) ps (running e)).1 0).viq == [e] | _ => false)) = true := by
  decide +kernel

theorem witness_VectorUnitSteps_loads :
    opOf (issuedEntry (.vld 4 1 0 1 0 2)) (fun op =>
      let e := issuedEntry (.vld 4 1 0 1 0 2)
      let b := e.issuedBeats
      let ps := (allPositions op e).filter (fun p => beatOfPos op e p == b)
      e.issued && op.byBeats && op.mem && (getHart (running e) 0).storeQ.isEmpty && !headOnly (getHart (running e) 0) e op &&
        decide (b < totalBeats op e) && (sweepOver (onePos op 0 e) (positionsLeft op e) (running e)).2.isNone &&
        (match op.run with
         | .load fetch land =>
           let f := fetchBeat fetch 0 e (shVL (op.sweep e.cap)) ps (running e)
           (getHart f.2 0).viq == [e] && !f.1.isEmpty && (f.1.foldl (fun y q => land y e q) (getHart (running e) 0)).viq == [e]
         | _ => false)) = true := by decide +kernel

theorem witness_VectorUnitSteps_complete :
    opOf { issuedEntry (.vadd 4 6 8 1 1) with prog := .beats 1 } (fun op =>
      let e := { issuedEntry (.vadd 4 6 8 1 1) with prog := .beats 1 }
      op.byBeats && decide (totalBeats op e ≤ e.issuedBeats - e.inflight.length) && (op.fin (getHart (running e) 0) e).viq == [e]) = true ∧
    (∀ i ∈ ([.mpop 5 2 1 0, .mfirst 5 2 1 0, .vmovs 5 6 4 1, .vargmax 5 6 1 0, .bvany 2 1 5, .bvnone 2 1 5] : List Instr),
      (vopOf (running (entryOf i)) 0 (entryOf i)).isSome = true ∧ ({ vhart with viq := [entryOf i], sync := some 3 } : Hart).sync = some 3) := by
  decide +kernel

/-- A copy of 16 bytes from 0x2000 to scratchpad offset 64. -/
def someCopy : CopyCmd :=
  copyOfDesc (st (hart [])) false (bytesOfWords [0x2000, 64, 0x100000010, 0x100000001, 0, 0, 0, 2])

/-- A hart with a copy command. -/
def copying (c : CopyCmd) : State := st { hart [] with eng := { Engines.zero with copyQ := [c] } }

theorem witness_EngineSteps_copies :
    copyReady (copying someCopy) (.hart 0) someCopy = true ∧ someCopy.byte < someCopy.total ∧ copyPkg (copying someCopy) someCopy 0 = none ∧
    (let l := copyReadAll someCopy someCopy.total 0 (copying someCopy)
     l.1.any (fun o => o.isNone) = false ∧ (copyBytes false 512 0 (l.1.drop 0) someCopy l.2).byte = 16 ∧
       (copyBytes false 512 0 (l.1.drop 0) someCopy l.2).bad.isNone = true) ∧
    copyReady (copying { someCopy with byte := 16 }) (.hart 0) { someCopy with byte := 16 } = true ∧
    copyUnsure (copying { someCopy with byte := 16 }) 1 = false ∧ (hart []).ctx = 1 ∧
    copyUnsure { copying { someCopy with byte := 16 } with ports := [(0, { Port.reset with unacked := [{ head := 0, payload := [], crc := 0, what := [.copy 1 0] }] })] } 1 = true ∧
    ({ someCopy with byte := 16 } : CopyCmd).total ≤ 16 := by decide +kernel

/-- A copy that has moved its 16 bytes to offsets 64 to 79 while port 2 holds a flit of it from byte 8 on: the port's loss stops it there, with reason
2 (05 R123, Table 05.6; 16 R349). -/
theorem test_lost_copy :
    (let c := { someCopy with byte := 16, src := some (List.replicate 16 (some (5, false))) }
     let p := { Port.reset with lanes := 4, unacked := [{ head := 0, payload := [], crc := 0, what := [.copy 1 8] }] }
     let t := portDown { copying c with ports := [(2, p)] } 2
     (getHart t 0).csr.cpyerr = 0xC800000000000008 ∧ (getHart t 0).eng.copyQ.map (fun c => c.byte) = [8]) := by decide +kernel

/-- A byte behind an area that the span window of the own package names (04 Table 04.2, 06 R132): its offset in the 64 KiB named. -/
theorem test_span_alias : windowOffset 0x10000 ((windowKey 0x10008).getD 0) = some 8 ∧
    windowOffset 0x20000 ((windowKey 0x10008).getD 0) = none := by decide +kernel

/-- A hart with an exchange command. -/
def exchanging (k : XKind) : State :=
  { xst id with harts := [(0, { xhart with eng := { Engines.zero with xchQ := [{ num := 1, kind := k, pages := [] }] } })] }

theorem witness_EngineSteps_exchange :
    (∀ k ∈ [XKind.post 63 3, .xend 63 2 0, .sampleHost 0x5000 [0] [] 0],
      (getHart (exchanging k) 0).eng.xchQ = [{ num := 1, kind := k, pages := [] }]) ∧
    (smFind (exchanging (.xend 63 2 0)).xctx 63).any (fun z => decide (2 < z.step)) = true := by decide +kernel

/-- A hart with a matrix command at its head. -/
def multiplying (c : MtxCmd) : State := st { tiler with eng := { Engines.zero with mtxQ := [c] } }

/-- A multiply of one K-block, and one by record. -/
def someMac : MtxCmd := { newCmd tiler (.mmac 9 5 6 7 0) (BitVec.ofNat 64 (2 ^ 32)) 0 0 (tiler.getSh 7) with recKey := 64 }
def someMaci : MtxCmd := { someMac with instr := .mmaci 9 5 6 7 0 }

theorem witness_EngineSteps_matrix :
    mtxReady (multiplying someMac) 0 someMac = true ∧ isMac someMac.instr = true ∧ someMac.polls = false ∧ someMac.finished = false ∧
    (let z := newCmd tiler (.mzero 0 0) 0 0 0 0
     mtxReady (multiplying z) 0 z = true ∧ z.started = false) ∧
    (let c := { newCmd tiler (.mspill 0 2 0) 0x2000 0 0 0 with started := true, nrows := 1 }
     mtxReady (multiplying c) 0 c = true ∧ c.kdone < c.nrows) ∧
    (∀ i ∈ ([.mspill 0 2 0, .mfill 0 2 0] : List Instr),
      mtxReady (multiplying (newCmd tiler i 0x2000 0 0 0)) 0 (newCmd tiler i 0x2000 0 0 0) = true ∧ (newCmd tiler i 0x2000 0 0 0).started = false) ∧
    someMaci.polls = true ∧ mtxReady (multiplying someMaci) 0 someMaci = true ∧
    (let s := { multiplying someMaci with mem := [(67, 0x80)] }
     isPoisoned s 64 = false ∧ (memNat s 64 4).testBit 31 = true) ∧
    ({ someMac with started := true, kdone := 1 } : MtxCmd).finished = true ∧ ({ hart [] with colMoves := 3 } : Hart).colMoves = 2 + 1 := by
  decide +kernel

/-! Exchange, Lens and link steps. -/

/-- The arrival of context c on a hart, of rank r among n. -/
def arriving (c h r n : Nat) : Arrival :=
  { ctx := c, pkg := 0, hart := h, desc := bytesOfWords [n * 2 ^ 32 + 9, 2 ^ 32 + r, 0, 0, 0, 0, 0, 0], user := false, root := 0, pages := [], splits := [],
    room := true, held := 0 }

/-- A complete gathering of two members of this package, and one whose ranks agree. -/
def gathered : Gathering := { tag := 9, arrivals := [arriving 1 0 0 2, arriving 2 1 1 2] }
def clashing : Gathering := { tag := 9, arrivals := [arriving 1 0 0 2, arriving 2 1 0 2] }

theorem witness_ExchangeAndLensSteps_xopen :
    let s := { st (hart []) with xgather := [gathered] }
    let u := { st (hart []) with xgather := [clashing] }
    s.xgather.find? (fun g => g.tag == 9 && xFull g) = some gathered ∧
    xopenFailure { s with xgather := s.xgather.erase gathered } gathered.arrivals = none ∧
    (List.range 64).find? (fun n => (smFind s.xctx n).isNone) = some 0 ∧ (∃ a ∈ gathered.arrivals, isRemote a.ctx = false) ∧
    u.xgather.find? (fun g => g.tag == 9 && xFull g) = some clashing ∧
    xopenFailure { u with xgather := u.xgather.erase clashing } clashing.arrivals = some (-3) := by decide +kernel

/-- A record of key 5 for receiver 0, and exchanges that hold it, with and without a buffer. -/
def someRecord : XRecord := { sender := 0, recv := 0, key := 5, no := 0, elems := [mkC false 0 7], psn := false, flags := 0 }
def someBuf : XBuf := { prim := 0x6000, pcap := 2, ocap := 0, ovf := 0, root := 0, user := false, core := 0, pages := [{ page := 0, pa := 0, cmp := false }] }
def merging (b : Option XBuf) : XCtx := { exchange with flight := [someRecord], members := [{ member with cur := b }] }

/-- The same with a combiner, all of whose records have landed but two of one key. -/
def combining : XCtx := { merging (some someBuf) with comb := 1, flight := [someRecord, { someRecord with no := 1 }], landed := [(0, 0)] }

theorem witness_ExchangeAndLensSteps_merge :
    let s := { st (hart []) with xctx := [(63, merging (some someBuf))] }
    smFind s.xctx 63 = some (merging (some someBuf)) ∧ (merging none).isPartial = false ∧ (merging none).comb = 0 ∧
    lowestRecord (merging none) 0 = some someRecord ∧ mayPass (merging none) 0 5 false = true ∧
    (merging (some someBuf)).members.find? (fun m => m.rank == 0) = some { member with cur := some someBuf } ∧
    isRemote member.ctx = false ∧ (0 : Nat) < someBuf.pcap ∧ placeMapped s 0 someBuf 0x6000 (recordBytes 1) = true ∧
    (merging none).members.find? (fun m => m.rank == 0) = some { member with cur := none } ∧
    (∀ r ∈ [someRecord], ∀ k ∈ (merging none).members, k.rank = r.sender → isRemote k.ctx = false) ∧
    (let b := { someBuf with ocap := 1, ovf := 0x7000 }
     placeMapped s 0 b 0x7000 (recordBytes 1) = true ∧ 2 < b.pcap + b.ocap ∧ ¬ 3 < b.pcap + b.ocap ∧
       placeMapped s 0 { b with pages := [] } 0x7000 (recordBytes 1) = false) ∧
    combining.comb ≠ 0 ∧ lowestRecord combining 0 = some someRecord ∧ mayPass combining 0 5 true = true ∧
    combining.flight.filter (fun r => r.recv == 0 && r.key == 5) = combining.flight := by decide +kernel

/-- An exchange whose member has ended and arrived, its tail on the way, or landed. -/
def closing (tails : List (Nat × Nat)) : XCtx :=
  { exchange with tails := tails, members := [{ member with ended := true, arrived := true, waiting := some 3 }] }

theorem witness_ExchangeAndLensSteps_beacon :
    smFind [(63, closing [(0, 0)])] 63 = some (closing [(0, 0)]) ∧ (0, 0) ∈ (closing [(0, 0)]).tails ∧ (∀ m ∈ (closing [(0, 0)]).members, isRemote m.ctx = false) ∧ (closing [(0, 0)]).flight = [] ∧
    (closing []).tails = [] ∧ (closing []).away = [] ∧ (closing []).flight = [] ∧ (closing []).isPartial = false ∧ (∃ m ∈ (closing []).members, m.left = false) ∧
    (∀ m ∈ (closing []).members, m.left = true ∨ (m.arrived = true ∧ m.ended = true)) := by decide +kernel

/-- Lens gatherings: one member, and two whose ranks agree. -/
def lensArriving (c h r p : Nat) : Arrival :=
  { arriving c h r p with desc := bytesOfWords [3 * 2 ^ 32 + 9, r * 2 ^ 32 + p, 0x6000, 0, 0, 0, 0, 0], pages := [{ page := 0, pa := 0, cmp := false }] }
def lensGathered : Gathering := { tag := 9, arrivals := [lensArriving 1 0 0 1] }
def lensClashing : Gathering := { tag := 9, arrivals := [lensArriving 1 0 0 2, lensArriving 2 1 0 2] }

theorem witness_ExchangeAndLensSteps_qopen :
    let s := { st (hart []) with qgather := [lensGathered] }
    let u := { st (hart []) with qgather := [lensClashing] }
    s.qgather.find? (fun g => g.tag == 9 && qFull g) = some lensGathered ∧
    qopenFailure { s with qgather := s.qgather.erase lensGathered } lensGathered.arrivals = none ∧
    (List.range 64).find? (fun n => (smFind s.lens n).isNone) = some 0 ∧
    u.qgather.find? (fun g => g.tag == 9 && qFull g) = some lensClashing ∧
    qopenFailure { u with qgather := u.qgather.erase lensClashing } lensClashing.arrivals = some (-3) := by decide +kernel

/-- A Lens command as queued, with a record. -/
def lensCmd (i : Instr) (record : List Byte) : LensCmd :=
  { num := 1, instr := i, slot := 63, off := 8, record := record, coll := some 0, pages := [], started := false, noop := false, core := 0,
    matrix := [], flags := 0, report := none }

/-- A hart of context k with a Lens command. -/
def commanding (k : Nat) (c : LensCmd) : Hart := { lhart with ctx := k, eng := { Engines.zero with lensQ := [c] } }

/-- A state with a qinit at the head of its member's queue, and one of two members whose commands differ. -/
def qinitCmd : LensCmd := lensCmd (.qinit 5 1 2) (List.replicate 8 0)
def oneMember (c : LensCmd) (l : LensState) : State := { st (commanding 1 c) with lens := [(63, l)] }
def nearMember : LMember := { lmember with rank := 1, hart := 1, ctx := 2 }
def twoMembers (c d : LensCmd) (l : LensState) : State := { st (commanding 1 c) with harts := [(0, commanding 1 c), (1, commanding 2 d)], lens := [(63, l)] }

/-- A state of three members, of which two are here and one, which has sent its command, in another package. -/
def farIssue (c : LensCmd) : LensIssue :=
  { fn := lensFn c.instr, record := comparedBytes c, matrix := startMatrix (st lhart) c, s0 := none, s1 := none, bad0 := none, bad1 := none }
def farMember (c : LensCmd) : LMember := { lmember with rank := 2, pkg := 1, ctx := 2 ^ 40, issued := [farIssue c] }
def shared (c : LensCmd) : LensState := { lens with n := 4, p := 2, map := [0, 1, 2, 3], members := [lmember, nearMember, farMember c] }

/-- Commands that a state of four qubits and two members meets at, and one whose swap stage finds no local bit free: three of four qubits control. -/
def metCmds : List LensCmd :=
  [lensCmd (.qmap 5 1 2) [0, 0, 0, 0, 0, 0, 0, 0, 1, 0, 2, 3], qinitCmd, lensCmd (.qgate 5 1 2) ([1, 3] ++ List.replicate 14 0),
   lensCmd (.qdiag 5 1 2) ([1, 3] ++ List.replicate 14 0), lensCmd (.qswap 5 1 2) [0, 3, 0, 0, 0, 0, 0, 0], lensCmd (.qprob 5 1 2) (List.replicate 16 0),
   lensCmd (.qproj 5 1 2) (List.replicate 16 0)]
def crowded : LensCmd := lensCmd (.qgate 5 1 2) ([1, 3, 0, 0, 0, 0, 0, 0, 7] ++ List.replicate 7 0)

/-- The premises of LENS_COMMAND_START for both members here, and whether the commands agree. -/
def meets (s : State) (l : LensState) (c d : LensCmd) (agree : Bool) : Bool :=
  smFind s.lens 63 == some l && !l.run && !l.failed && l.members.filter (fun m => !m.left && !isRemote m.ctx) == [lmember, nearMember] &&
    lensHead s 1 == some c && lensHead s 2 == some d &&
    [c, d].all (fun e => e.slot == 63 && e.coll == some l.next && !e.started) &&
    (l.members.filter (fun m => isRemote m.ctx)).all (fun m => m.issued.head? == some (farIssue c)) &&
    ((lensFn c.instr, comparedBytes c, startMatrix s c) == (lensFn d.instr, comparedBytes d, startMatrix s d)) == agree

theorem witness_ExchangeAndLensSteps_start :
    (∀ c ∈ crowded :: metCmds, meets (twoMembers c c (shared c)) (shared c) c c true = true) ∧
    choosePairs (shared crowded) (busyBits (shared crowded) crowded.record) (targetsOf crowded.record) = none ∧
    (let c := lensCmd (.qgate 5 1 2) ([1, 3] ++ List.replicate 14 0)
     choosePairs (shared c) (busyBits (shared c) c.record) (targetsOf c.record) = some [(0, 3)]) := by decide +kernel

theorem witness_ExchangeAndLensSteps_differ :
    (let d := lensCmd (.qinit 5 1 2) (1 :: List.replicate 7 0)
     meets (twoMembers qinitCmd d (shared qinitCmd)) (shared qinitCmd) qinitCmd d false = true) := by decide +kernel

theorem witness_ExchangeAndLensSteps_finish :
    let l := { lens with run := true }
    let c := { qinitCmd with started := true }
    (let z : LensState := { l with swap := [(0, 2)] }
     z.swap ≠ [] ∧ z.failed = false ∧ z.members.filter (fun m => !isRemote m.ctx) = [lmember] ∧
       ((swapTraffic z [lmember]).filter (fun p => p.2 != 0)) = [] ∧ ((([] : List (Nat × Nat)).map (fun p => p.2)).sum = 16 * z.inbox.length)) ∧
    (match c.instr with | .qswap .. => false | _ => true) = true ∧ l.run = true ∧ (getHart (oneMember c l) 0).eng.lensQ = [c] ∧
    smFind (oneMember c l).lens c.slot = some l ∧ l.memberOf (getHart (oneMember c l) 0).ctx = some lmember ∧ c.started = true ∧ l.swap = [] ∧
    c.noop = false ∧ ({ c with noop := true } : LensCmd).noop = true ∧
    (let d := { lensCmd (.qswap 5 1 2) [0, 1, 0, 0, 0, 0, 0, 0] with started := true, matrix := [0] }
     (getHart (oneMember d l) 0).eng.lensQ = [d] ∧ smFind (oneMember d l).lens d.slot = some l ∧
       l.memberOf (getHart (oneMember d l) 0).ctx = some lmember ∧ d.noop = false ∧ l.local = 3) := by decide +kernel

/-- A Lens state over this package and another, where the pair exchanged lies across the two: what leaves here, while no port leads there. -/
def spread : LensState :=
  { lens with
    p := 2, run := true, swap := [(0, 2)], inbox := List.replicate 2 (0, 0, false)
    members := [lmember, { lmember with rank := 1, pkg := 1, ctx := 2 ^ 40 }] }

/-- Without a present package no port leads anywhere. -/
theorem noPort {s : State} (h : s.span = []) (p : Nat) : portTo s p = none := by
  unfold portTo
  cases hr : routeTo s p with
  | none => rfl
  | some r =>
    have hw := List.find?_some (show List.find? (routeWorks s) _ = some r from hr)
    cases r with
    | nil => rfl
    | cons a l => simp [routeWorks, hopsWork, h] at hw

theorem witness_ExchangeAndLensSteps_apart :
    let s := { st (hart []) with lens := [(63, spread)] }
    let ms := spread.members.filter (fun m => !isRemote m.ctx)
    let out := (swapTraffic spread ms).filter (fun p => p.2 != 0)
    smFind s.lens 63 = some spread ∧ (out.map (fun p => p.2)).sum = 16 * spread.inbox.length ∧ (∀ p ∈ out, linkStalled s p.1 0 p.2 = false) ∧
    (∃ p ∈ out, portTo s p.1 = none) := by
  refine ⟨rfl, by decide +kernel, fun p _ => by unfold linkStalled; rw [noPort rfl], ?_⟩
  exact ⟨(1, 32), by decide +kernel, noPort rfl 1⟩

/-! Links, the buoy, patrol scrubs and the LLC's write backs. -/

/-- A flit that follows the last one received, and one that does not. -/
def flit (n : Nat) : Flit :=
  { head := BitVec.ofNat 64 n, payload := List.replicate 240 0, crc := crcOf (BitVec.ofNat 64 n) (List.replicate 240 0), records := [] }

/-- A state whose port 2 is p. -/
def ported (p : Port) : State := { State.reset with ports := [(2, p)] }

theorem flit_sound (n : Nat) : flitSound (flit n) = true := by
  unfold flitSound flit
  dsimp only
  generalize crcOf (BitVec.ofNat 64 n) (List.replicate 240 0) = c
  simp only [List.length_replicate, beq_self_eq_true, Bool.and_self]

theorem witness_LinkSteps_flit :
    let p := getPort (ported Port.reset) 2
    p.lanes ≠ 0 ∧ p.training = none ∧ flitSound { flit 0 with payload := [] } = false ∧ flitSound (flit 0) = true ∧
    headSeq (flit 5).head ≠ p.rxLast + 1 ∧ headSeq (flit 0).head = p.rxLast + 1 := by
  exact ⟨by decide +kernel, by decide +kernel, rfl, flit_sound 0, by decide +kernel, by decide +kernel⟩

theorem witness_LinkSteps_lanes :
    let p := getPort (ported { Port.reset with resend := true, replays := 7 }) 2
    let d := getPort (ported { Port.reset with lanes := 2, replays := 8 }) 2
    let q := getPort (ported { Port.reset with lanes := 2, training := some 4 }) 2
    let r := getPort (ported { Port.reset with lanes := 2 }) 2
    p.lanes ≠ 0 ∧ p.training = none ∧ p.resend = true ∧ p.lanes = 4 ∧ p.lost = 0 ∧ p.replays = 7 ∧ Port.reset.replays < 7 ∧ d.lanes = 2 ∧ d.unacked = [] ∧
    8 ≤ d.replays ∧ d.filling = [] ∧ 8 ≤ (getPort (ported { Port.reset with replays := 8 }) 2).replays ∧
    q.training = some 4 ∧ q.lanes ≠ 4 ∧
    (let s := { ported { Port.reset with lanes := 2 } with time := BitVec.ofNat 64 (10 ^ 10) }
     s.hostmode.getLsbD 2 = false ∧ (getPort s 2).lanes ≠ 4 ∧ (getPort s 2).training = none ∧ r.since + 10 ^ 10 ≤ s.time.toNat) := by
  decide +kernel

/-- A port with a package at its other end and one without. -/
theorem witness_LinkSteps_joined :
    portJoined { ported { Port.reset with lanes := 2, training := some 4 } with span := [portPeer 2] } 2 = true ∧
    (getPort (ported { Port.reset with lanes := 2, training := some 4 }) 2).training = some 4 ∧ portJoined (ported { Port.reset with lanes := 0 }) 2 = false ∧
    (getPort (ported { Port.reset with lanes := 0 }) 2).lanes = 0 := by
  refine ⟨?_, by decide, rfl, by decide⟩
  show [portPeer 2].contains (portPeer 2) = true
  simp

/-- A port with a byte in an open flit, and one with none, and one whose buffer is nearly full. -/
theorem witness_LinkSteps_ack :
    (let p := getPort (ported { Port.reset with filling := [(2, { bytes := [1], what := [] })] }) 2
     p.unacked.length ≤ 509 ∧ ∃ c ∈ [0, 2, 3], (p.open c).bytes ≠ []) ∧
    (∀ c ∈ [0, 2, 3], ((getPort (ported Port.reset) 2).open c).bytes = []) ∧
    509 < ({ Port.reset with unacked := List.replicate 510 { head := 0, payload := [], crc := 0, what := [] } } : Port).unacked.length := by
  decide +kernel

/-- Two queues. -/
def queueA : QueueId := { pkg := 0, num := 3 }
def queueB : QueueId := { pkg := 0, num := 4 }

theorem witness_LinkSteps_buoy :
    let s := putBuoy State.reset queueA { seq := 1, out := true, grants := 0 }
    tokenOrigin (tokenOf queueA 0 0) = queueNo queueA ∧ (getBuoy s queueA).out = true ∧
    tokenSeq (tokenOf queueA 0 0) + 1 = (getBuoy s queueA).seq ∧
    tokenOrigin (tokenOf queueB 0 0) ≠ queueNo queueA ∧ tokenHops (tokenOf queueB 0 0) < 254 := by decide +kernel

theorem witness_LinkSteps_memory :
    let l : LlcLine := { valid := 15, dirty := 3, cmp := true, packed := false, hot := false, since := 0, used := 0 }
    let s := { State.reset with caches := { State.reset.caches with llc := [(7, l)] } }
    isHbm (32 * 5) = true ∧ State.reset.boot.fenced.getLsbD (stackOfKey (32 * 5)) = false ∧ isPoisoned State.reset (32 * 5) = false ∧
    isPoisoned (poisonChunk State.reset (32 * 5)) (32 * 5) = true ∧ 8 * 3 < scratchBytes State.reset 0 ∧
    isHbm (8 * 448) = true ∧ s.caches.holds (8 * 448 / 512) = true ∧ smFind s.caches.llc 7 = some l ∧ l.dirty ≠ 0 ∧ l.cmp = true ∧
    ({ l with hot := true } : LlcLine).hot = true := by decide +kernel

/-- A hart with a resident line of v0, and an exchange with a record on the way. -/
theorem witness_LinkSteps_checks :
    (getHart (st { hart [] with vlines := [(0, .resident false 0)] }) 0).line 0 = .resident false 0 ∧ 71 < 72 ∧
    smFind [(63, merging none)] 63 = some (merging none) ∧ someRecord ∈ (merging none).flight := by decide +kernel

/-! The scheduler. -/

/-- A nest of three iterations on one slice with the pool as it stands, whose first wait entry is a word at 0x100. -/
def record : NestRec :=
  { entry := 0x20000, param := 7, stack := 0x30000000, back := 0, save := 0, cnt := [3, 0, 0, 0], ind := [0, 0, 0, 0], ctrl := 0x10201,
    stksz := 4096, preg := 128, pscr := 64, pl1 := 64, age := 5, dline := 9, waita := [0x100, 0, 0, 0], waitn := [1, 0, 0, 0], cblk := 0,
    place := 2 ^ 80 - 1 }
def nest : Nest :=
  { rc := record, ptroot := 0, tvec := 0, resthr := 0, user := false, submitter := 0, core := 0, fn := none, dispatch := false, accepted := 1,
    walker := some 0, waitsOk := [true, true, true, true], walk := Walk.fresh 1, ordinal := 0, out := 0, expn := 0, badref := false,
    stopped := false, withdrawing := false, draining := false, eprio := 0, ageFrom := 0 }

/-- A state with that nest, held by walker 0, and no bound hart. -/
def nested (n : Nest) : State :=
  { st (hart []) with harts := [], nests := [(1, n)], walkers := [(0, { nest := some 1, cursor := 0 })] }

theorem witness_SchedulerSteps_handout :
    let s := { nested { nest with rc := { record with dline := 0 } } with cores := [(0, Core.reset)] }
    let n := { nest with rc := { record with dline := 0 } }
    let n1 := { n with ordinal := 1, walk := { n.walk with started := true, bounds := [3], prefOrd := [1] } }
    (getWalker s 0).nest = some 1 ∧ findNest s 1 = some n ∧ readyUnit s 0 = some (1, n, .iteration, 0) ∧ turnOf s = some 0 ∧
    walkEmpty s n = false ∧ walkTake s n = (some ([0], 0), n1, s) ∧ coreTriple (getCore s 0) = n1.rc.triple ∧
    freeSlot s 0 = some 0 := by decide +kernel

theorem witness_SchedulerSteps_wait :
    let n := { nest with waitsOk := [false, true, true, true] }
    let s := nested n
    let u := { nested n with mem := [(0x100, 1)] }
    (getWalker s 0).nest = some 1 ∧ findNest s 1 = some n ∧ n.withdrawing = false ∧ n.waitsOk.getD 0 true = false ∧
    (nestRead s n (n.rc.waita.getD 0 0) 8).1 = some 0 ∧ bitOf n.rc.wstat 0 = false ∧ 0 < (n.rc.waitn.getD 0 0).toNat ∧
    (nestRead u n (n.rc.waita.getD 0 0) 8).1 = some 1 ∧ (n.rc.waitn.getD 0 0).toNat ≤ 1 := by decide +kernel

theorem witness_SchedulerSteps_times :
    let n := { nest with walker := none, ageFrom := 4 }
    let s := { nested n with time := 9 }
    findNest s 1 = some n ∧ n.rc.age ≠ 0 ∧ n.eprio < 7 ∧ n.walker = none ∧ n.ageFrom + n.rc.age ≤ s.time.toNat ∧ n.rc.dline ≠ 0 ∧
    n.rc.dline ≤ s.time.toNat ∧ n.withdrawing = false ∧ n.walk.finished = false ∧ hasSaved s 1 = false ∧ n.rc.hard = false := by
  decide +kernel

theorem witness_SchedulerSteps_status :
    let n := { nest with walk := { nest.walk with finished := true } }
    let m := { n with rc := { record with cblk := 0x200 } }
    n.walk.finished = true ∧ hasRunning (nested n) 1 = false ∧ hasSaved (nested n) 1 = false ∧ n.withdrawing = false ∧ n.rc.cblk = 0 ∧
    m.walk.finished = true ∧ hasRunning (nested m) 1 = false ∧ hasSaved (nested m) 1 = false ∧ m.withdrawing = false ∧ m.rc.cblk ≠ 0 ∧
    okAnd (access (nested m) m.agent (m.rc.cblk + 8) 8 .store .engine) (fun p => !isPoisoned p.2 p.1) = true := by decide +kernel

/-- A nest that its walker holds with a ready unit. -/
theorem witness_SchedulerSteps_ageing :
    (let s := { nested { nest with ageFrom := 4 } with time := 9 }
     nest.open = true ∧ nest.withdrawing = false ∧ nextUnit s 1 { nest with ageFrom := 4 } = some .iteration ∧ s.saved = []) := by decide +kernel

/-- A core on which hart 1 waits for slice 0, which hart 0 holds. -/
def awaited : State :=
  { st (hart []) with cores := [(0, { core with slices := Vector.replicate 4 { Slice.heldBy 0 with pend := true, req := 1 } })], time := 6554 }

theorem witness_SchedulerSteps_expiry :
    let y := (getCore awaited 0).slice 0
    y.held = true ∧ y.pend = true ∧ 5 * (getCore awaited 0).lpwait.toNat ≤ 8 * (awaited.time - y.since).toNat ∧
    (getHart awaited (0 + y.owner.toNat)).bound = true ∧ (getHart awaited 0).request = none ∧
    (∀ p ∈ awaited.harts, p.1 = 0 → p.2 = getHart awaited 0) ∧ 0 ∈ awaited.harts.map (fun p => p.1) := by decide +kernel

theorem witness_SchedulerSteps_rebind :
    let s := { nested nest with cores := [(0, { core with rebind := some 1 })] }
    (getCore s 0).rebind = some 1 ∧ lanedHarts s 0 = [] ∧ findNest s 1 = some nest ∧
    (∀ v ∈ s.saved, v.home ≠ some 0 ∧ v.nest ≠ 1) ∧ nest.walk.finished = false ∧ nest.rc.slices ≠ 0 ∧ boundSlots s 0 = [] := by decide +kernel

/-! Halts, saves and resumptions. -/

theorem witness_SchedulerSteps_halt :
    let s := st { hart [] with request := some .preempt }
    (getHart s 0).bound = true ∧ (getHart s 0).request = some .preempt ∧ HaltReason.preempt ≠ .parity ∧ haltStops .preempt = false ∧
    (getHart s 0).halted = none ∧ (getHart s 0).pending = none ∧ (endNow s 0).isNone = true ∧
    (endNow (stWords { hart [] with request := some .preempt } [(0x10000, 0x8C000000)]) 0).isSome = true := by decide +kernel

/-- A halted hart with the slot as its save slot. -/
def halted : State :=
  slotOver (st { hart [(1, 5)] with role := .dispatcher .pf, csr := rootless, halted := some .preempt, saveSlot := 0x40000000 }) [] []

/-- What its save works on. -/
def saving : State :=
  let u := quiesce (requestHalt halted 0 .preempt) 0
  let v := takeBack (drainAll u 0) 0
  settleStreams (flushLines 0 (rectLines (getHart v 0).csr.hwm) v none).1 0

theorem saving_eq :
    saving = slotOver (st { hart [(1, 5)] with role := .dispatcher .pf, csr := rootless, halted := some .preempt, saveSlot := 0x40000000,
                                               request := some .preempt }) [] [] := by decide +kernel

/-- What its save writes. -/
def savingParts : ImageParts :=
  let x := getHart saving 0
  let g := x.parted
  { lost := false, slices := slicesOf saving 0, home := coreOf 0, det := g.copy.detached || g.lens.detached || g.xch.detached, pc := x.pc,
    copyDet := g.copy.detached, lensDet := g.lens.detached, xchDet := g.xch.detached, mtxQ := g.mtxQ, viq := if x.vq then x.held else x.viq }

theorem witness_SchedulerSteps_save :
    (getHart halted 0).bound = true ∧ (getHart halted 0).halted = some .preempt ∧ (getHart halted 0).request = none ∧
    ∃ s3 keys, writePieces (slotAgent (coreOf 0) (getHart saving 0).csr.ptroot) (fun _ => .engine) (getHart saving 0).saveSlot
      (imagePieces saving 0 savingParts) saving = (s3, keys, none) ∧ keys.any (isPoisoned s3) = false := by
  have h : (imagePieces saving 0 savingParts).all (fun q => decide (q.off + q.n < 2 ^ 29)) = true := by decide +kernel
  refine ⟨by decide +kernel, by decide +kernel, by decide +kernel, ?_⟩
  rw [saving_eq] at h ⊢
  obtain ⟨m, q, po, e, hp, -⟩ := slot_writes (st { hart [(1, 5)] with
    role := .dispatcher .pf, csr := rootless, halted := some .preempt, saveSlot := 0x40000000, request := some .preempt })
    (fun _ _ _ _ _ => rfl) 4096 _ _ [] [] [] h
  rw [hp rfl] at e
  refine ⟨_, _, e, ?_⟩
  exact List.any_eq_false.2 (fun _ _ h => Bool.false_ne_true h)

/-- A load in progress whose first element is owed. -/
def loadEntry : VEntry := vectorEntry vst (.vld 4 1 0 1 0 2)
def loadDatum : LoadDatum := { row := 0, elem := 0, fld := 0, bits := 77, scale := 0, psn := false }

theorem witness_SchedulerSteps_land :
    let o : Owed := { ctx := 9, slot := 0x40000000, entry := loadEntry, data := [loadDatum], vback := 0x10000, root := 0, core := 0 }
    let s := { st (hart []) with owed := [o] }
    (s.owed.drop 0).head? = some o ∧ (∀ q ∈ o.data, q.psn = false) ∧ (vopOf s 4096 o.entry).isSome = true ∧
    (match mergeOwed { s with owed := [] } o with | .ok _ => true | .error _ => false) = true := by decide +kernel

/-- A saved context of nest 1 in the slot, and a state whose walker holds that nest. -/
def savedContext : Saved :=
  { slot := 0x40000000, hart := 0, ctx := 9, nest := 1, ordinal := 0, parent := none, area := 0, famBase := 0, home := none, group := none,
    slices := 4, eng := Engines.zero, root := 0x6000000000, core := 0, wait := .none, viq := [], kids := [], vseq := 0, lost := none, lostAtoms := LostAtoms.none, hostWait := false,
    hostRec := none }
def resuming : State :=
  slotOver { nested { nest with rc := { record with dline := 0 } } with saved := [savedContext], cores := [(0, Core.reset)] } imageMem [44, 2, 1, 0]

/-- The same context as the host repairs a page for it, and has said that it is done (16 R346). -/
def awaitsHost : Saved := { savedContext with hostWait := true, hostRec := some (.pf, 0) }

theorem witness_SchedulerSteps_hostwait :
    (let p := (reservedPage (st (hart [])) .pf).getD 0
     let s := { nested nest with saved := [awaitsHost], mem := [(eventKey p 0 + 31, 0x80)] }
     nest.rc.age ≠ 0 ∧ findNest s 1 = some nest ∧ s.saved.find? (fun v => v.nest == 1) = some awaitsHost ∧
       familySaved s awaitsHost = [awaitsHost] ∧ awaitsHost.hostWait = true ∧ hostReady s awaitsHost = true ∧ nest.walker ≠ none) ∧
    (let n := { nest with walker := none }
     let s := { nested n with saved := [awaitsHost], mem := [(eventKey ((reservedPage (st (hart [])) .pf).getD 0) 0 + 31, 0x80)], time := 5 }
     findNest s 1 = some n ∧ n.eprio < 7 ∧ n.ageFrom + n.rc.age ≤ s.time.toNat ∧ hostReady s awaitsHost = true ∧
       familySaved s awaitsHost = [awaitsHost]) := by decide +kernel

theorem witness_SchedulerSteps_resume_ready :
    readyUnit resuming 0 = some (1, { nest with rc := { record with dline := 0 } }, .resume [savedContext], 0) ∧
    turnOf resuming = some 0 ∧ savedContext.group = none ∧ savedCtx resuming 9 = some savedContext ∧
    lowestHart resuming 0 = 0 ∧ (getCore resuming 0).idle.take savedContext.slices = [0, 1, 2, 3] := by decide +kernel


/-- The state in which its image is read: all four slices of core 0 given to hart 0. -/
def resumeGiven : State := putCore resuming 0 ((getCore resuming 0).give 0 [0, 1, 2, 3])

theorem resumeGiven_eq : resumeGiven = slotOver resumeGiven imageMem [44, 2, 1, 0] := by decide +kernel

/-- The resumption from its image on. -/
def resumeFrom (ws : List Nat) : Bool :=
  headerOk ws && imgSlices ws == ((getCore resumeGiven 0).free 0).length && !bitOf (ws.getD 0 0) 8 &&
    okAnd (loadTiles (putHart resumeGiven 0 { loadRegs (resumeBase resuming savedContext) ws with pc := imgW ws 1 }) 0 (slotUser 4096) 0x40000000 64)
      (fun s2 => okAnd (resumeQueues s2 savedContext 0 ws) (fun _ => true))

theorem resumeImage : resumeFrom ((List.range' 0 1024).map imageWord) = true := by decide +kernel

theorem witness_SchedulerSteps_resume :
    ∃ u, resumeAt resuming savedContext (lowestHart resuming 0) ((getCore resuming 0).idle.take savedContext.slices) = some u := by
  obtain ⟨-, -, -, -, h1, h2⟩ := witness_SchedulerSteps_resume_ready
  have hr := readWords_image resumeGiven (fun _ _ _ _ => rfl) rfl 4096 rfl 1024 0 (by decide)
  rw [← resumeGiven_eq] at hr
  have hr' : readWords resumeGiven (slotUser 4096) 0x40000000 0x40000000 1024 = .ok ((List.range' 0 1024).map imageWord, resumeGiven) := hr
  have hi := resumeImage
  revert hi hr'
  generalize (List.range' 0 1024).map imageWord = ws
  intro hr' hi
  simp only [resumeFrom, Bool.and_eq_true, beq_iff_eq, Bool.not_eq_true'] at hi
  obtain ⟨⟨⟨hh, hc⟩, hb⟩, ht⟩ := hi
  obtain ⟨v, hv, hq⟩ := okAnd_elim ht
  obtain ⟨w, hw, -⟩ := okAnd_elim hq
  have ha : slotAgent (coreOf 0) savedContext.root = slotUser 4096 := rfl
  have hg : putCore resuming (coreOf 0) ((getCore resuming (coreOf 0)).give (0 % 4) [0, 1, 2, 3]) = resumeGiven := rfl
  have hs : savedContext.slot = 0x40000000 := rfl
  have hn : 16 * savedContext.slices = 64 := rfl
  have hz : coreOf 0 = 0 := rfl
  rw [h1, h2, resumeAt, ha, hg, hs, hn]
  dsimp only
  rw [hr']
  simp only [hz, Nat.zero_mod, hh, hc, hv, hw, hb, Bool.not_true, bne_self_eq_false, Bool.or_self, Bool.false_eq_true, if_false]
  exact ⟨_, rfl⟩

/-! The host port, the Keeper and reset. -/

/-- The queue page of the physical function. -/
def pfPage : Nat := (reservedPage (st (hart [])) .pf).getD 0

/-- A request slot with a new SEQ, an OP and an argument, whose dispatcher is bound and runs nest 5, and a nest record at address 0. -/
def requested (op v : Nat) : State :=
  [(pfPage, 1), (pfPage + 8, op), (pfPage + 16, v)].foldl (fun s b => { s with mem := smSet 0 s.mem b.1 (BitVec.ofNat 8 b.2) })
    { stWords { hart [] with role := .dispatcher .pf, nest := 5 } (nestWords.map (fun w => (w.1 - 0x4000, w.2))) with
      hostmode := 1, nests := [(5, someNest)] }

theorem witness_HostAndKeeperSteps_bar :
    let s := st (hart [])
    let p := poisonChunk s 0x100
    s.keeper.off = false ∧ s.boot.hostUp = true ∧
    (∀ i < 8, barPlace s .pf false i ≠ .unsupported ∧ ∀ key, barPlace s .pf false i = .mem key → isPoisoned s key = false) ∧
    (barPlace s .pf true (2 ^ 40) = .unsupported ∧ placeRefused s (barPlace s .pf true (2 ^ 40)) = true) ∧
    (barPlace p .pf true 0x100 = .mem 0x100 ∧ isPoisoned p 0x100 = true) ∧
    (barPlace s .pf true 0x100 = .mem 0x100 ∧ protection s 0 0x100 = none ∧ barAddress s .pf true 0x100 = 0x8000000100) ∧
    mailQueue s (.fn .pf) = [] := by
  refine ⟨by decide, by decide, ?_, by decide +kernel, by decide +kernel, by decide +kernel, by decide +kernel⟩
  have h : ∀ i < 8, barPlace (st (hart [])) .pf false i = .devid i := by decide +kernel
  intro i hi
  rw [h i hi]
  exact ⟨by simp, fun key e => by cases e⟩

theorem witness_HostAndKeeperSteps_atomic :
    let s := st (hart [])
    let r : HostAtomic := { op := .cas, wide := true, offset := 0x100, operand := 5, compare := 0, failed := false }
    s.boot.hostUp = true ∧ bar2Place s .pf r.offset = .mem 0x100 ∧ r.offset % (if r.wide then 8 else 4) = 0 ∧ isPoisoned s 0x100 = false ∧
    protectionRange s 0 0x100 8 = none := by decide +kernel

theorem witness_HostAndKeeperSteps_events :
    let e : HostEvent := { fn := .pf, kind := 1, addr := 2, tval := 3, extra := 4, ctx := none }
    let s := { st (hart []) with events := [e] }
    let u := { s with mem := [(pfPage + 0x40, 32)] }
    s.events.find? (fun e => e.fn == .pf) = some e ∧ reservedPage s .pf = some pfPage ∧ e.ctx = none ∧
    (∀ i < 4096, isPoisoned s (pfPage + i) = false) ∧
    (memNat s (pfPage + 0x40) 8 + 2 ^ 64 - memNat s (pfPage + 0x48) 8) % 2 ^ 64 ≠ 32 ∧
    (memNat u (pfPage + 0x40) 8 + 2 ^ 64 - memNat u (pfPage + 0x48) 8) % 2 ^ 64 = 32 ∧
    memNat s (pfPage + 0x40) 8 = memNat s (pfPage + 0x48) 8 := by
  refine ⟨by decide +kernel, by decide +kernel, by decide, fun i _ => ?_, by decide +kernel, by decide +kernel, by decide +kernel⟩
  rfl

theorem witness_HostAndKeeperSteps_request :
    (st (hart [])).hostmode.getLsbD 0 = false ∧
    (∀ op ∈ [0, 1, 2, 3, 4, 5],
      (let s := requested op 0
       s.hostmode.getLsbD 0 = true ∧ reservedPage s .pf = some pfPage ∧ isPoisoned s pfPage = false ∧ memNat s pfPage 8 = 1 ∧
         smGet 0 s.keeper.seen (fnIx .pf) = 0 ∧ memNat s (pfPage + 8) 8 = op ∧ memNat s (pfPage + 16) 8 = 0)) ∧
    (let s := requested 1 0
     dispatcherOf s .pf = some 0 ∧ dispatcherOf { s with harts := [] } .pf = none ∧ okAnd (submitNest s (serverOf s .pf) 0) (fun _ => true) = true ∧
       errAnd (submitNest s (serverOf s .pf) 1) (fun e => e.trap.cause == .align) = true) ∧
    (let s := requested 2 5
     memNat s (pfPage + 16) 8 = (serverOf s .pf).nest ∧ findNest s (serverOf s .pf).nest = some someNest ∧ someNest.withdrawing = false) := by
  decide +kernel

/-- A command of sequence number 1 with some arguments. -/
def request (code : Nat) (args : List Nat) : MailReq := { cmd := BitVec.ofNat 64 (256 + code), args := (args.map (bytesOf · 8)).flatten }

/-- A state in which a mailbox of the physical function, one of a virtual function and the out-of-band one hold that command. -/
def mailed (code : Nat) (args : List Nat) : State :=
  [MailPort.fn .pf, .fn (.vf 2), .oob].foldl (fun s p => putMailQueue s p [request code args]) (st (hart []))

theorem witness_HostAndKeeperSteps_mail :
    (∀ c ∈ [1, 2, 3, 4, 5, 6, 7, 8, 9], (request c []).code = c ∧ mailPending (st (hart [])) (.fn .pf) c = false ∧
      (∀ p ∈ [MailPort.fn .pf, .fn (.vf 2), .oob], mailQueue (mailed c []) p = [request c []])) := by decide +kernel

theorem witness_HostAndKeeperSteps_attest :
    (mailed 3 []).keeper.off = false ∧ (request 3 []).arg 4 = 0 ∧ (request 3 [0, 0, 0, 0, 1, 0]).arg 4 ≠ 0 ∧
    (request 3 [0, 0, 0, 0, 1, 0]).arg 5 < reportLen := by
  refine ⟨by decide, by decide +kernel, by decide +kernel, ?_⟩
  have h : (request 3 [0, 0, 0, 0, 1, 0]).arg 5 = 0 := by decide +kernel
  rw [h]
  unfold reportLen
  omega

/-- The digest of "abc", as FIPS 180-4 gives it in its examples (16 R356). -/
theorem test_sha384_abc : sha384 [0x61, 0x62, 0x63] =
    [0xCB, 0x00, 0x75, 0x3F, 0x45, 0xA3, 0x5E, 0x8B, 0xB5, 0xA0, 0x3D, 0x69, 0x9A, 0xC6, 0x50, 0x07, 0x27, 0x2C, 0x32, 0xAB, 0x0E, 0xDE, 0xD1, 0x63,
     0x1A, 0x8B, 0x60, 0x5A, 0x43, 0xFF, 0x5B, 0xED, 0x80, 0x86, 0x07, 0x2B, 0xA1, 0xE7, 0xCC, 0x23, 0x58, 0xBA, 0xEC, 0xA1, 0x34, 0xC8, 0x25, 0xA7] := by decide +kernel

theorem witness_HostAndKeeperSteps_images :
    let s := mailed 6 []
    let k := s.keeper
    let t := { s with keeper := { k with slotB := { k.slotB with verified := true } } }
    let v : ImageCheck := { rsaOk := true, slhOk := true, digestOk := true, svn := 64 }
    (k.image false).verified = false ∧ (t.keeper.image false).verified = true ∧
    ((request 4 [0, 4096]).arg 1 ≤ 22 * 2 ^ 20 ∧ v.rsaOk = true ∧ v.slhOk = true ∧ v.digestOk = true ∧ k.fuses ≤ v.svn) ∧
    ¬ (request 4 [0, 23 * 2 ^ 20]).arg 1 ≤ 22 * 2 ^ 20 := by decide +kernel

theorem witness_HostAndKeeperSteps_i3c :
    (∀ i < [(0 : Byte)].length, 8 ≤ (((16 : Byte).toNat + 256 * (0 : Byte).toNat) % 4096 + i) % 4096) ∧
    (∃ i < [(0 : Byte)].length, (((0 : Byte).toNat + 256 * (0 : Byte).toNat) % 4096 + i) % 4096 < 8) := by decide +kernel

theorem witness_ResetBoots :
    let s := State.reset
    let act := if s.keeper.switchNext then !s.keeper.activeB else s.keeper.activeB
    let sound := fun (b : BootPass) (second : Bool) =>
      if second then b.slotBOk && s.keeper.slotB.verified && decide (s.keeper.fuses ≤ s.keeper.slotB.svn)
      else b.slotAOk && s.keeper.slotA.verified && decide (s.keeper.fuses ≤ s.keeper.slotA.svn)
    let fails := fun (b : BootPass) (i : Nat) => b.trainFail.getLsbD i || b.zeroFail.getLsbD i
    let fenced := fun (b : BootPass) (i : Nat) => decide (0 < smGet 0 s.boot.fences i) || (fails b i && s.boot.retried.getLsbD i)
    let starts := fun (b : BootPass) => (sound b act = true ∨ sound b (!act) = true) ∧ b.railsOk = true ∧ b.fusesOk = true
    let runs := fun (b : BootPass) => starts b ∧ b.cachesOk = true ∧ b.dispatchOk = true ∧ ∃ i < 8, fenced b i = false
    goodBoot.cut = none ∧ (∀ i < 8, fails goodBoot i = false) ∧ runs goodBoot ∧ ¬ runs { goodBoot with railsOk := false } ∧
    (let b := { goodBoot with trainFail := 4 }
     starts b ∧ b.trainFail &&& ~~~skippedStacks s &&& ~~~s.boot.retried ≠ 0) ∧
    (let u := { s with boot := { s.boot with retried := 4 } }
     (∀ i < 8, ({ goodBoot with trainFail := 4 }).trainFail.getLsbD i = true → smGet 0 u.boot.fences i > 0 ∨ u.boot.retried.getLsbD i = true) ∧
     ({ goodBoot with trainFail := 6 }).trainFail &&& ~~~skippedStacks u &&& ~~~u.boot.retried = 2) := by decide +kernel

end Sys2Proof.Tests
end

section
/-! Timelines (05 R117 to R119): the word of tread, the number that a twait waits for, what a wait at a timeline answers when no copy has
stopped, and what tread and twait do. -/

namespace Sys2Proof.Machine

/-! The word of tread (03 Table 03.6). -/

/-- The tables' word of tread: the fields d and X added to the opcode and function. -/
theorem encode_tread (d : BitVec 5) (x : BitVec 2) :
    encode (.tread d x) = some (0xCC000002 + 2 ^ 21 * d.toNat + 32 * x.toNat) := by
  have hput : put d 21 (put x 5 0xCC000002) = 0xCC000002 + 2 ^ 21 * d.toNat + 32 * x.toNat := by
    simp only [put]; omega
  rw [← hput]
  rfl

/-- A field reads as v where the word's bits from `lo` up are v's. -/
theorem at'_eq_of_div {n w lo : Nat} {v : BitVec n} (h : w / 2 ^ lo % 2 ^ n = v.toNat) : (at' w lo : BitVec n) = v :=
  BitVec.eq_of_toNat_eq ((BitVec.toNat_ofNat _ _).trans h)

/-- The word of tread decodes to it, its unused fields being zero. -/
theorem decodeWord_tread (d : BitVec 5) (x : BitVec 2) :
    decodeWord (0xCC000002 + 2 ^ 21 * d.toNat + 32 * x.toNat) = .ok (.tread d x) := by
  have hd := d.isLt
  have hx := x.isLt
  generalize hw : 0xCC000002 + 2 ^ 21 * d.toNat + 32 * x.toNat = w
  have hmajor : fld w 26 6 = 0x33 := by simp only [fld]; omega
  have hfn : fld w 0 5 = 2 := by simp only [fld]; omega
  have hunused : fld w 7 14 = 0 := by simp only [fld]; omega
  have hatd : (at' w 21 : BitVec 5) = d := at'_eq_of_div (by omega)
  have hatx : (at' w 5 : BitVec 2) = x := at'_eq_of_div (by omega)
  have hcopy : decodeCopy w = .ok (.tread d x) := by
    simp only [decodeCopy, hfn, hunused, hatd, hatx, zeroField, if_true]
  have hfields : decodeFields w = .ok (.tread d x) := by
    simp only [decodeFields, hmajor, hcopy]
  simp only [decodeWord, hfields]
  rfl

/-! Reading a timeline (05 R118). -/

/-- The meaning of tread. -/
theorem exec_eq_execTread (s : State) (d : BitVec 5) (x : BitVec 2) : exec (.tread d x) s = execTread d x s := rfl

/-- tread writes the completion counter of its context. -/
theorem exec_tread (s : State) (d : BitVec 5) (x : BitVec 2) (h : Powered s) :
    exec (.tread d x) s = .next (scalarResult s d ((curHart s).eng.line (EngX.ofCode x)).done) := by
  rw [exec_eq_execTread, execTread, live_of s _ h, retireS_eq]
  rfl

/-! Waiting at a timeline (05 R119). -/

/-- The number that a wait for `asked` waits for: at most the count of issued commands. -/
def Timeline.awaited (t : Timeline) (asked : Word) : Word := if t.issued.toNat < asked.toNat then t.issued else asked

theorem Timeline.toNat_awaited (t : Timeline) (asked : Word) : (t.awaited asked).toNat = min asked.toNat t.issued.toNat := by
  unfold Timeline.awaited
  split <;> omega

/-- While CPYERR.V is 0 no copy stands at a fault (05 R123). -/
theorem copyFault_none {x : Hart} (h : x.csr.cpyerr.getLsbD 63 = false) : copyFault x = none := by
  simp only [copyFault, h, Bool.not_false, if_true]

/-- Without a stopped copy, a wait for commands that have not all completed waits on. -/
theorem twaitOn_waits {s : State} {w : EngX} {asked : Word} (hv : (curHart s).csr.cpyerr.getLsbD 63 = false)
    (hdone : ((curHart s).eng.line w).done.toNat < (((curHart s).eng.line w).awaited asked).toNat) :
    twaitOn s w asked = .waits := by
  unfold Timeline.awaited at hdone
  simp only [twaitOn, copyFault_none hv, ite_self, hdone, if_true]

/-- Without a stopped copy, a wait for completed commands none of which has a report passes, their flags merged. -/
theorem twaitOn_passed {s : State} {w : EngX} {asked : Word} (hv : (curHart s).csr.cpyerr.getLsbD 63 = false)
    (hdone : (((curHart s).eng.line w).awaited asked).toNat ≤ ((curHart s).eng.line w).done.toNat)
    (hrep : ∀ r ∈ ((curHart s).eng.line w).reports, (((curHart s).eng.line w).awaited asked).toNat < r.num.toNat) :
    twaitOn s w asked = .passed (mergeCovered s w (((curHart s).eng.line w).awaited asked)) := by
  have hfind : ((curHart s).eng.line w).reports.find?
      (fun r => decide (r.num.toNat ≤ (((curHart s).eng.line w).awaited asked).toNat)) = none :=
    List.find?_eq_none.2 (fun r hr => by simpa using hrep r hr)
  have hnot := Nat.not_lt.2 hdone
  unfold Timeline.awaited at hfind hnot ⊢
  simp only [twaitOn, copyFault_none hv, ite_self, hnot, if_false, hfind]

/-- The meaning of twait. -/
theorem exec_eq_execTwait (s : State) (a : BitVec 5) (x : BitVec 2) : exec (.twait a x) s = execTwait a x s := rfl

/-- A twait that waits changes nothing. -/
theorem exec_twait_waits {s : State} {a : BitVec 5} {x : BitVec 2} (h : Powered s)
    (hw : twaitOn s (EngX.ofCode x) ((curHart s).getS a) = .waits) : exec (.twait a x) s = .next s := by
  rw [exec_eq_execTwait, execTwait, live_of s _ h, hw]

/-- A twait that passes goes on from the state that its merged flags leave. -/
theorem exec_twait_passed {s u : State} {a : BitVec 5} {x : BitVec 2} (h : Powered s)
    (hw : twaitOn s (EngX.ofCode x) ((curHart s).getS a) = .passed u) : exec (.twait a x) s = .next (passed u) := by
  rw [exec_eq_execTwait, execTwait, live_of s _ h, hw]
  rfl

/-! The hart and memory after the flags of covered commands are merged (02 R37). -/

@[simp] theorem mergeCovered_pc (s : State) (w : EngX) (n : Word) : (curHart (mergeCovered s w n)).pc = (curHart s).pc := by
  simp [mergeCovered]

@[simp] theorem mergeCovered_gpr (s : State) (w : EngX) (n : Word) : (curHart (mergeCovered s w n)).gpr = (curHart s).gpr := by
  simp [mergeCovered]

@[simp] theorem mergeCovered_mem (s : State) (w : EngX) (n : Word) : (mergeCovered s w n).mem = s.mem := rfl

theorem mergeCovered_csr (s : State) (w : EngX) (n : Word) :
    (curHart (mergeCovered s w n)).csr = { (curHart s).csr with fpflags := (curHart s).csr.fpflags |||
      (((((curHart s).eng.line w).flags.filter (fun p => p.1.toNat ≤ n.toNat)).foldl (fun f p => f ||| p.2) 0) &&& 0x3F) } := by
  simp [mergeCovered]

@[simp] theorem curHart_passed (s : State) : curHart (passed s) = { curHart s with pc := (curHart s).pc + 4 } := curHart_putCur s _

@[simp] theorem passed_mem (s : State) : (passed s).mem = s.mem := rfl

/-- Settles O36: the word of tread by its fields; tread reads the counter of the context that its code names; twait by what its wait at the
timeline answers. -/
theorem timelinesWaitedOn : Obligations.TimelinesWaitedOn := by
  refine ⟨fun d x => ⟨encode_tread d x, decodeWord_tread d x⟩, decodeWord_tread 4 2, fun s d hp => ?_, fun s a x hp => ?_⟩
  · exact ⟨exec_tread s d 0 hp, exec_tread s d 1 hp, exec_tread s d 2 hp, exec_tread s d 3 hp⟩
  · intro t n hv
    have hn : (t.awaited ((curHart s).getS a)).toNat = n := t.toNat_awaited _
    rw [← hn]
    constructor
    · intro hdone
      exact exec_twait_waits hp (twaitOn_waits hv hdone)
    · intro hdone hrep
      refine ⟨_, exec_twait_passed hp (twaitOn_passed hv hdone hrep), ?_⟩
      exact ⟨by simp, by simp, (congrArg Hart.csr (curHart_passed _)).trans (mergeCovered_csr s _ _), by simp⟩

end Sys2Proof.Machine
end

section
/-! Division (13 R278, R279): a register-register instruction answers its function of the two operands, and the four functions of division are
those of Table 13.2. -/

namespace Sys2Proof.Machine

/-- With power on a register-register instruction writes its function of the two operands. -/
theorem salu_powered {s : State} (d a b : BitVec 5) (g : Word → Word → Word) (h : Powered s) :
    salu d a b g s = .next (scalarResult s d (g ((curHart s).getS a) ((curHart s).getS b))) := by
  rw [salu, live_of s _ h, retireS_eq]

theorem exec_div {s : State} (d a b : BitVec 5) (h : Powered s) :
    exec (.div d a b) s = .next (scalarResult s d (sdivWord ((curHart s).getS a) ((curHart s).getS b))) :=
  salu_powered d a b sdivWord h

theorem exec_divn {s : State} (d a b : BitVec 5) (h : Powered s) :
    exec (.divn d a b) s = .next (scalarResult s d (udivWord ((curHart s).getS a) ((curHart s).getS b))) :=
  salu_powered d a b udivWord h

theorem exec_rem {s : State} (d a b : BitVec 5) (h : Powered s) :
    exec (.rem d a b) s = .next (scalarResult s d (sremWord ((curHart s).getS a) ((curHart s).getS b))) :=
  salu_powered d a b sremWord h

theorem exec_remn {s : State} (d a b : BitVec 5) (h : Powered s) :
    exec (.remn d a b) s = .next (scalarResult s d (uremWord ((curHart s).getS a) ((curHart s).getS b))) :=
  salu_powered d a b uremWord h

/-! The functions of division, by bit vectors: −2^63 / −1 wraps on both sides, so that only the zero divisor stands apart. -/

theorem sdivWord_eq (p q : Word) : sdivWord p q = if q = 0 then 0xFFFFFFFFFFFFFFFF#64 else p.sdiv q := by
  have hquot : wordOfInt (p.toInt.tdiv q.toInt) = p.sdiv q :=
    BitVec.eq_of_toInt_eq ((BitVec.toInt_ofInt _).trans (BitVec.toInt_sdiv p q).symm)
  rw [sdivWord, hquot]
  rfl

theorem sremWord_eq (p q : Word) : sremWord p q = if q = 0 then p else p.srem q := by
  rw [sremWord, wordOfInt, ← BitVec.toInt_srem, BitVec.ofInt_toInt]

theorem udivWord_eq (p q : Word) : udivWord p q = if q = 0 then 0xFFFFFFFFFFFFFFFF#64 else p / q := by
  rw [udivWord, word, ← BitVec.udiv_def]
  rfl

theorem uremWord_eq (p q : Word) : uremWord p q = if q = 0 then p else p % q := by
  rw [uremWord, word, ← BitVec.umod_def]

/-- The second row of Table 13.2, for `div`. -/
theorem sdivWord_min_neg_one : sdivWord 0x8000000000000000#64 0xFFFFFFFFFFFFFFFF#64 = 0x8000000000000000#64 := by decide

/-- The second row of Table 13.2, for `rem`. -/
theorem sremWord_min_neg_one : sremWord 0x8000000000000000#64 0xFFFFFFFFFFFFFFFF#64 = 0 := by decide

/-- Settles O16: each instruction answers its function of the operands, whose value Table 13.2 gives. -/
theorem scalarDivision : Obligations.ScalarDivision := by
  intro s d a b h
  refine ⟨?_, ?_, ?_, ?_, fun (hp : (curHart s).getS a = _) (hq : (curHart s).getS b = _) => ⟨?_, ?_⟩⟩
  · rw [exec_div d a b h, sdivWord_eq]
  · rw [exec_divn d a b h, udivWord_eq]
  · rw [exec_rem d a b h, sremWord_eq]
  · rw [exec_remn d a b h, uremWord_eq]
  · rw [exec_div d a b h, hp, hq, sdivWord_min_neg_one]
  · rw [exec_rem d a b h, hp, hq, sremWord_min_neg_one]

end Sys2Proof.Machine
end

section
/-! The trap instruction (13 R294): its word, the trap that it takes at once or leaves pending, and the return of a handler that resumes
behind it (13 R295). -/

namespace Sys2Proof.Machine

/-! The word of trap (03 Table 03.3). -/

/-- The tables' word of trap: the field n added to the opcode and function. -/
theorem encode_trap (n : BitVec 6) : encode (.trap n) = some (0x8C000001 + 32 * n.toNat) := by
  have hput : put n 5 0x8C000001 = 0x8C000001 + 32 * n.toNat := by
    simp only [put]; omega
  rw [← hput]
  rfl

/-- The word of trap decodes to it, its unused fields being zero. -/
theorem decodeWord_trap (n : BitVec 6) : decodeWord (0x8C000001 + 32 * n.toNat) = .ok (.trap n) := by
  have hn := n.isLt
  generalize hw : 0x8C000001 + 32 * n.toNat = w
  have hmajor : fld w 26 6 = 0x23 := by simp only [fld]; omega
  have hfn : fld w 0 5 = 1 := by simp only [fld]; omega
  have hunused : fld w 11 15 = 0 := by simp only [fld]; omega
  have hatn : (at' w 5 : BitVec 6) = n := at'_eq_of_div (by omega)
  have hctl : decodeCtl w = .ok (.trap n) := by
    simp only [decodeCtl, hfn, hunused, hatn, zeroField, if_true]
  have hfields : decodeFields w = .ok (.trap n) := by
    simp only [decodeFields, hmajor, hctl]
  simp only [decodeWord, hfields]
  rfl

/-! The trap that it takes (15 R322). -/

/-- The trap that trap n raises. -/
def trapOf (n : BitVec 6) : Trap := { cause := .trap, tval := n.setWidth 64, tval2 := 0 }

/-- It is no page fault, so the host never takes it (16 R346). -/
theorem faultToHost_trapOf (s : State) (n : BitVec 6) : faultToHost s (trapOf n) = false :=
  faultToHost_other s _ (by simp [trapOf])

/-- A trap at the executing hart's instruction with an older VIQ entry waits. -/
theorem trapHere_later (s : State) (t : Trap) (hq : (curHart s).viq ≠ []) :
    trapHere s t = putCur s { curHart s with pending := some { trap := t, vec := none, tpc := (curHart s).pc } } := by
  have hbusy : (curHart s).viq.isEmpty = false := by simpa using hq
  simp only [trapHere, trapAt, hbusy, Bool.false_eq_true, if_false]

/-- With power on trap n raises its trap at its own address. -/
theorem exec_trap {s : State} (n : BitVec 6) (h : Powered s) : exec (.trap n) s = .next (trapHere s (trapOf n)) := by
  have hword : word n.toNat = n.setWidth 64 := BitVec.ofNat_toNat 64 n
  change execTrap n s = _
  rw [execTrap, live_of s _ h, hword]
  rfl

/-- A pending trap is delivered, once no VIQ entry is left, as the same trap raised with none would be. -/
theorem takeTrap_pending {s : State} {p : PendTrap} (hp : (curHart s).pending = some p) (hq : (curHart s).viq = []) :
    takeTrap s s.cur = trapAt s p.tpc p.trap := by
  have hp' : (getHart s s.cur).pending = some p := hp
  have hq' : (getHart s s.cur).viq = [] := hq
  simp only [takeTrap, trapAt, curHart, hp', hq', List.isEmpty_nil, if_true]

theorem exec_takeTrap {s : State} (h : Nat) (hp : Powered s) : exec (.takeTrap h) s = .next (takeTrap s h) :=
  live_of s (fun s => takeTrap s h) hp

/-! The fields of TSTATUS (06 Table 06.5). -/

theorem tstatusOf_mode : ∀ vq pmode mode : Bool, (tstatusOf vq pmode mode).getLsbD 0 = mode := by decide

theorem tstatusOf_pmode : ∀ vq pmode mode : Bool, (tstatusOf vq pmode mode).getLsbD 1 = pmode := by decide

theorem tstatusOf_vq : ∀ vq pmode mode : Bool, (tstatusOf vq pmode mode).getLsbD 2 = vq := by decide

/-! The hart in its handler. -/

section
variable (s : State) (c : Cause) (tpc tval tval2 : Word)

theorem powered_trapTaken {s : State} (h : Powered s) : Powered (trapTaken s c tpc tval tval2) := h

@[simp] theorem trapTaken_lostAtoms : (curHart (trapTaken s c tpc tval tval2)).lostAtoms = (curHart s).lostAtoms := by
  simp [trapTaken]

@[simp] theorem trapTaken_tpc : (curHart (trapTaken s c tpc tval tval2)).csr.tpc = tpc &&& ~~~3#64 := by
  simp [trapTaken]

theorem trapTaken_tstatus :
    (curHart (trapTaken s c tpc tval tval2)).csr.tstatus = tstatusOf (curHart s).vq (curHart s).user false := by
  simp [trapTaken, tstatusOf]

@[simp] theorem trapTaken_user : (curHart (trapTaken s c tpc tval tval2)).user = false := by
  rw [Hart.user, trapTaken_tstatus, tstatusOf_mode]

@[simp] theorem trapTaken_vq : (curHart (trapTaken s c tpc tval tval2)).vq = (curHart s).vq := by
  rw [Hart.vq, trapTaken_tstatus, tstatusOf_vq]

/-- PMODE holds the mode that the trap left. -/
theorem trapTaken_pmode : (curHart (trapTaken s c tpc tval tval2)).csr.tstatus.getLsbD 1 = (curHart s).user := by
  rw [trapTaken_tstatus, tstatusOf_pmode]

end

/-! The return (13 R295, 15 R324). -/

/-- With power on, in supervisor mode, and with no lost atomic that waits, eret returns. -/
theorem exec_eret_putCur {s : State} {x : Hart} (h : Powered s) (hu : x.user = false) (hl : x.lostAtoms = LostAtoms.none) :
    exec .eret (putCur s x) = .next (putCur s x.eret) := by
  have hp : Powered (putCur s x) := h
  change execEret (putCur s x) = _
  rw [execEret, live_of _ _ hp]
  simp only [curHart_putCur, putCur_putCur, hu, hl, Bool.false_eq_true, if_false, beq_self_eq_true, if_true]

/-- With no held image the return sets the pc and the mode alone. -/
theorem Hart.eret_of_not_vq {x : Hart} (h : x.vq = false) :
    x.eret = { x with
      pc := x.csr.tpc &&& ~~~3#64, csr := { x.csr with tstatus := if x.csr.tstatus.getLsbD 1 then 3 else 0 } } := by
  have hmode : ∀ m : Bool, tstatusOf false m m = if m then 3 else 0 := by decide
  simp only [Hart.eret, h, hmode, Bool.false_eq_true, if_false]

theorem toNat_and_not_three (v : Word) : (v &&& ~~~3#64).toNat = v.toNat / 4 * 4 := by
  have hmask : ~~~3#64 = BitVec.allOnes 64 <<< 2 := by decide
  have hv := v.isLt
  rw [hmask, ← BitVec.shiftLeft_ushiftRight, BitVec.toNat_shiftLeft, BitVec.toNat_ushiftRight, Nat.shiftLeft_eq, Nat.shiftRight_eq_div_pow]
  omega

/-- The address behind a word-aligned one is word-aligned. -/
theorem aligned_add_four (v : Word) : ((v &&& ~~~3#64) + 4) &&& ~~~3#64 = (v &&& ~~~3#64) + 4 := by
  apply BitVec.eq_of_toNat_eq
  have hfour : (4 : Word).toNat = 4 := rfl
  rw [toNat_and_not_three, BitVec.toNat_add, toNat_and_not_three, hfour]
  omega

/-- A handler that adds 4 to TPC returns behind the instruction that trapped, in its mode. -/
theorem exec_eret_behind {s : State} (c : Cause) (tval tval2 : Word) (h : Powered s) (hvq : (curHart s).vq = false)
    (hl : (curHart s).lostAtoms = LostAtoms.none) :
    let taken := trapTaken s c (curHart s).pc tval tval2
    let y := curHart taken
    let next := ((curHart s).pc &&& ~~~3#64) + 4
    exec .eret (putCur taken { y with csr := { y.csr with tpc := y.csr.tpc + 4 } }) =
      .next (putCur taken { y with pc := next, csr := { y.csr with tpc := next, tstatus := if (curHart s).user then 3 else 0 } }) := by
  intro taken y next
  have hp : Powered taken := powered_trapTaken c _ tval tval2 h
  have htpc : y.csr.tpc + 4 = next := congrArg (· + 4) (trapTaken_tpc s c _ tval tval2)
  have hu : y.user = false := trapTaken_user s c _ tval tval2
  have hvq' : y.vq = false := (trapTaken_vq s c _ tval tval2).trans hvq
  have hl' : y.lostAtoms = LostAtoms.none := (trapTaken_lostAtoms s c _ tval tval2).trans hl
  have hpm : y.csr.tstatus.getLsbD 1 = (curHart s).user := trapTaken_pmode s c _ tval tval2
  have halign : next &&& ~~~3#64 = next := aligned_add_four _
  rw [htpc, exec_eret_putCur hp, Hart.eret_of_not_vq]
  · simp only [halign, hpm]
  · exact hvq'
  · exact hu
  · exact hl'

/-- Settles O12: the word by its field; the trap at once or pending by the VIQ; TAKE_TRAP by what it delivers; and the return behind it. -/
theorem trapInstruction : Obligations.TrapInstruction := by
  refine ⟨fun n => ⟨encode_trap n, decodeWord_trap n⟩, decodeWord_trap 5, fun s n h => ⟨fun hq => ?_, fun hq => ?_, fun hq hp => ?_, ?_⟩⟩
  · rw [exec_trap n h, trapHere_now s _ hq (faultToHost_trapOf s n)]
    rfl
  · rw [exec_trap n h, trapHere_later s _ hq]
    rfl
  · rw [exec_takeTrap s.cur h, takeTrap_pending hp hq]
    exact congrArg _ (trapAt_now s _ _ hq (faultToHost_trapOf s n))
  · exact exec_eret_behind .trap _ 0 h

end Sys2Proof.Machine
end
